-- ==== Sys2Proof/Word.lean ====
section
/-! DEFINITION. The word types of the NX4 (00_scope.md R4 to R6) and their plainest arithmetic. -/

namespace Sys2Proof

/-- One byte of memory (R4). -/
abbrev Byte := BitVec 8

/-- A 32-bit register lane, instruction word or memory word. -/
abbrev Word := BitVec 32

/-- A 64-bit operand group, address or counter. -/
abbrev DWord := BitVec 64

/-- A set of lanes of a crew: bit n stands for lane n (R177 EMASK, R169). -/
abbrev LaneMask := BitVec 64

/-- Field `[lo + len - 1 : lo]` of a number whose bit 0 is the least significant (R4). -/
def bits (w lo len : Nat) : Nat := w / 2 ^ lo % 2 ^ len

/-- Bit `n` of a number. -/
def bit (w n : Nat) : Bool := w / 2 ^ n % 2 == 1

end Sys2Proof
end

