-- ==== Sys2Proof/Config.lean ====
section
/-! DEFINITION. What an implementation fixes and the values the spec leaves open. Every constant here is opaque: no
proof can see its value, so a statement holds for every value of it. -/

namespace Sys2Proof

/-- A fresh open choice among several allowed outcomes, indexed by the counter of free values in the state (log entry
5): which instant a load sees (R322), the order of unordered work, the Umpire's draw (R375). -/
opaque Config.choice : Nat → Nat

/-- How many cycles a core's counter advances in one unit of model time (R124). -/
opaque Config.cycles : (core time : Nat) → Nat

/-- Can no LLC set take one more uncommitted line beside those that a team holds (R226)? -/
opaque Config.llcFull : (held : List Nat) → (line : Nat) → Bool

/-- Does the image pass the SHA-384 and ECDSA P-384 check of R401? The key is fused at manufacture. -/
opaque Config.imageOk : List (BitVec 8) → Bool

/-- The drift that a cluster's monitors show at a measurement, in units of 0.01 % (R369), by the counter of free values. -/
opaque Config.drift : Nat → Nat

/-- Where in the Boathouse area a tile half's save image of a team lies (R239). -/
opaque Config.imageAddr : (team half : Nat) → Nat

end Sys2Proof
end

