-- ==== Sys2Proof/Fields.lean ====
section
/-! DEFINITION. The fields of instructions: register names, source operands, widths, conditions, modes, spaces and the
other small codes of 02_encoding.md, and the kinds of memory error that a step may name. -/

namespace Sys2Proof

/-- A register-name field (R53). `win n` is `v`(WB + n), or `h`n for n below 16 in handler mode (R175); `lit` carries
the literal word of the issue. Field value 127 names nothing (R54). -/
inductive Rn where
  | win (n : Nat)
  | sc (n : Nat)
  | zr
  | lid
  | lit (w : Word)
deriving DecidableEq, Repr, Inhabited

/-- A source operand with its last-use bit and its keep bit (R50). -/
structure Src where
  r : Rn
  lu : Bool
  kp : Bool
deriving DecidableEq, Repr, Inhabited

/-- Sub-group widths, codes 0 to 5 of W (R74). -/
inductive SubW where
  | w2 | w4 | w8 | w16 | w32 | w64
deriving DecidableEq, Repr, Inhabited

/-- ICOND (R74). -/
inductive ICond where
  | eq | ne | lt | le | gt | ge
deriving DecidableEq, Repr, Inhabited

/-- FCOND (R74). -/
inductive FCond where
  | eq | ne | lt | le | gt | ge | un | ord
deriving DecidableEq, Repr, Inhabited

/-- COMB with its predicate C (R74). -/
inductive Comb where
  | none
  | and (p : Nat)
  | or (p : Nat)
  | xor (p : Nat)
deriving DecidableEq, Repr, Inhabited

/-- RM, the rounding override (R74). -/
inductive Rm where
  | fpcr | rne | rz | rd
deriving DecidableEq, Repr, Inhabited

/-- RED, the combinations of ACCUM and FOLD (R74, R171). -/
inductive RedOp where
  | addI32 | addF32 | minI32 | minN32 | maxI32 | maxN32 | minF32 | maxF32 | and | or | xor
deriving DecidableEq, Repr, Inhabited

/-- TY, the types of CVT (R74). -/
inductive Ty where
  | f32 | f16 | bf16 | e4m3 | e5m2 | e2m1 | f64 | i32 | n32 | i64 | n64 | i16 | n16 | i8 | n8
deriving DecidableEq, Repr, Inhabited

/-- CLS, the access-path classes (R74). -/
inductive Cls where
  | c | y | x | g | s | k
deriving DecidableEq, Repr, Inhabited

/-- The functions of FSPEC (R77). -/
inductive SpecFn where
  | rcp | rsq | sqrt | exp2 | log2 | sin | cos | tanh
deriving DecidableEq, Repr, Inhabited

/-- The funnel-shift amount (R105). -/
inductive FshAmt where
  | reg (c : Src)
  | imm (n : BitVec 6)
deriving DecidableEq, Repr, Inhabited

/-- Position and length of BFX and BFI (R106). -/
inductive PosLen where
  | reg (c : Src)
  | imm (pos : BitVec 5) (len : BitVec 6)
deriving DecidableEq, Repr, Inhabited

/-- The boundary rule of NBR (R159). -/
inductive Bnd where
  | zero | own | wrap
deriving DecidableEq, Repr, Inhabited

/-- The addressing modes of SHFL (R166). -/
inductive ShMode where
  | pick | slide | flip | turn
deriving DecidableEq, Repr, Inhabited

/-- The index of SHFL: register B or IMM11[6:0] (R166). -/
inductive ShIdx where
  | reg (b : Src)
  | imm (n : BitVec 7)
deriving DecidableEq, Repr, Inhabited

/-- The modes of PJOIN (R168). -/
inductive JoinMode where
  | every | some | same | odd
deriving DecidableEq, Repr, Inhabited

/-- The forms of MATCH (R173). -/
inductive MatchForm where
  | mask | lead | count
deriving DecidableEq, Repr, Inhabited

/-- The operations of ATOM; CAS carries the compare operand C (R215). -/
inductive AtomOp where
  | add | and | or | xor | minI | minN | maxI | maxN | exch
  | cas (c : Src)
  | faddF32
deriving DecidableEq, Repr, Inhabited

/-- The operations of RED: those of ATOM without EXCH and CAS (R79, R215). -/
inductive RedMem where
  | add | and | or | xor | minI | minN | maxI | maxN | faddF32
deriving DecidableEq, Repr, Inhabited

/-- Copy sizes (R79). -/
inductive CpySize where
  | b4 | b8 | b16
deriving DecidableEq, Repr, Inhabited

/-- Copy reductions (R79). -/
inductive CpyRed where
  | none | add | min | max | and | or
deriving DecidableEq, Repr, Inhabited

/-- Copy reduction types (R79). -/
inductive RedTy where
  | i32 | n32 | f32
deriving DecidableEq, Repr, Inhabited

/-- Address spaces, codes 0 to 6 of SPACE (R70, R209). -/
inductive Space where
  | generic | global | scratch | remote | constant | gwin | key
deriving DecidableEq, Repr, Inhabited

/-- Scopes (R70, R325). -/
inductive Scope where
  | team | cluster | package | system
deriving DecidableEq, Repr, Inhabited

/-- Tile element types (R80). -/
inductive TileTy where
  | f32 | f16 | bf16 | i32
deriving DecidableEq, Repr, Inhabited

/-- The slice index of TWR and TRD: a constant or register B (R234). -/
inductive SliceIdx where
  | imm (i : BitVec 6)
  | reg (b : Src)
deriving DecidableEq, Repr, Inhabited

/-- Operand types of MMA (R259). -/
inductive MmaTy where
  | e4m3 | e5m2 | bf16 | f16 | e2m1 | f64
deriving DecidableEq, Repr, Inhabited

/-- Operand types of MMAB (R259). -/
inductive MmabTy where
  | mx8e4 | mx8e5 | mx4
deriving DecidableEq, Repr, Inhabited

/-- What KGATHER does when the dense path is needed: write predicate C, or trap (R315). -/
inductive Fallback where
  | pred (p : Nat)
  | trap
deriving DecidableEq, Repr, Inhabited

/-- ORDER (R70). -/
inductive Order where
  | relaxed | acquire | release | acqRel
deriving DecidableEq, Repr, Inhabited

/-- The fields of the MEM form (R70). `cache` affects timing only (R212). -/
structure MemFields where
  order : Order
  scope : Scope
  space : Space
  cache : BitVec 2
  mask : BitVec 8
  blu : Bool
  dlu : Bool
  pdom : BitVec 4
deriving DecidableEq, Repr, Inhabited

/-- The kinds of scratchpad error (R205): a correctable one, one in a data word on a direct read by the team named, one in a
parity word at an update, and one that no reconstruction covers, in a bank of the group (0 to 3 a data bank, else the parity
bank), consumed by the team named (R207). -/
inductive ScratchErr where
  | correctable
  | data (team : Nat)
  | parity
  | uncovered (team : Nat) (bank : BitVec 3)
deriving DecidableEq, Repr, Inhabited

/-- What consumes an uncorrectable word: a team (R363), or a context, in its descriptor or in its Starter state (R368). -/
inductive EccHolder where
  | team (team : Nat)
  | context (ctx : Nat)
deriving DecidableEq, Repr, Inhabited

/-- The kinds of LLC error (R279). -/
inductive LlcErr where
  | correctable | clean
  | uncommitted (team : Nat)
  | committed
deriving DecidableEq, Repr, Inhabited

end Sys2Proof
end

