-- ==== Sys2Proof/Machine/Objects.lean ====
section
/-! DEFINITION. The objects that come and go, and that a peer package can send (R405): lanes and what they carry,
continuation records, teams and what they hold. State.lean holds the rest of the machine's state. -/

namespace Sys2Proof.Machine

/-- Memory: bytes by address in one canonical form, strictly rising addresses and no byte equal to 0, which is what an
unlisted address reads as. Device physical HBM lies below 2^52, host physical memory at 2^60 and up, the pages of the
peer on a port, by context, at 2^62 and up (log entry 3). -/
abbrev Mem := List Host.Cell

/-- An `s` register with its one tag (R59). -/
structure Scal where
  v : Word
  tag : Bool
deriving DecidableEq, Repr, Inhabited

/-- A copy token of a lane: outstanding copies and the error bit (R220). -/
structure Tok where
  count : Nat
  err : Bool
deriving DecidableEq, Repr, Inhabited

/-- A guarded run: issues left, negate bit, predicate (R68). -/
structure Run where
  left : Nat
  neg : Bool
  pred : Nat
deriving DecidableEq, Repr, Inhabited

/-- POISONST (R60). -/
structure PoisonSt where
  st : Bool
  valid : Bool
  field : Nat
deriving DecidableEq, Repr, Inhabited

/-- A page fault that a lane, a record or an engine waits on: the granule VA[55:15] and KIND (R393). -/
structure FaultKey where
  ctx : Nat
  granule : Nat
  write : Bool
  fetch : Bool
deriving DecidableEq, Repr, Inhabited

/-- What a record waits for, by WAIT kind (R28). -/
inductive Wait where
  | none
  | token (mask : BitVec 8)
  | word (va pa : Nat) (cc : ICond) (n : Bool) (b : Word)
  | counter (va pa : Nat) (b : Word)
  | phase (die : Option Nat) (dom : Nat) (n : Word)
  | tbar (bar : Nat) (gen : Word)
  | cbar (bar : Nat) (gen : Word)
  | launchQ (freed : Nat)
  | fault (key : FaultKey)
  | neighbour (right wrap : Bool)
  | cut (serial : Nat)
deriving DecidableEq, Repr, Inhabited

/-- Where a FWD sends records (R42). -/
inductive FwdTarget where
  | die (v : Nat)
  | cluster (c : Nat)
  | core (k : Nat)
  | peer (port : Nat)
deriving DecidableEq, Repr, Inhabited

/-- A `v` or `h` register of a crew: the lanes' values and the lanes whose tag is set (R57, R59). -/
structure Reg where
  name : Nat
  vals : List Word
  tags : LaneMask
deriving DecidableEq, Repr, Inhabited

/-- A lane whose segment has ended and whose record is not yet written (R21). `exit` has no record (R20). The record is
written from the mappings that the crew has then (R27); `regs` holds those before a page fault, from which it is written
instead (R22). -/
structure Ending where
  resume : Nat
  wb : Nat
  run : Option Run
  wait : Wait
  tl : Bool
  fwd : Option FwdTarget
  exit : Bool
  regs : Option (List Reg)
deriving DecidableEq, Repr, Inhabited

/-- What an entry saves of a lane for the return (R181): the guarded run and where the lane continues. -/
structure LaneSave where
  run : Option Run
  pc : Nat
deriving DecidableEq, Repr, Inhabited

/-- A thread on a lane of a crew. `seen` and `wrote` carry the per-lane order of R323: the earliest instants its loads
of words may return, and the words whose uncommitted bytes it stored or may no longer miss. `unres` holds the faults declared
unresolvable for it (R22), `faultOn` the fault it waits on in place. `hsave` is its handler save slot (R182). -/
structure Lane where
  team : Nat
  idx : Nat
  pc : Nat
  ending : Option Ending
  preds : BitVec 48
  toks : List Tok
  run : Option Run
  preoff : Bool
  poison : PoisonSt
  dom : Nat
  depth : Nat
  saves : List LaneSave
  hsave : List (Word × Bool)
  seen : List (Nat × Nat)
  wrote : List Nat
  unres : List FaultKey
  faultOn : Option FaultKey
deriving DecidableEq, Repr, Inhabited

/-- An entry of a replay queue, or an issue that a later trap may capture (R29, R179). `part` is the lanes that took
part, `s` the issuing lanes, `a`, `b`, `c` the captured operands per lane, `pc` the issue's first word, `len` its
words. The fault index of a LOOPA (R266) stands in operand C. `cut` marks an entry captured by a cut (R188), `badPfx` is the
first prefix word of the issue that breaks R67, which its words alone do not show (R179, R191). `runs` are the lanes' guarded runs before it. -/
structure Entry where
  serial : Nat
  pc : Nat
  len : Nat
  grdW : Nat
  preW : Nat
  w0 : Nat
  w1 : Option Nat
  lit : Option Nat
  part : LaneMask
  s : LaneMask
  a : List DWord
  b : List DWord
  c : List DWord
  written : Bool
  cut : Bool
  badPfx : Option Nat
  runs : List (Option Run)
deriving DecidableEq, Repr, Inhabited

/-- What R179 restores: the crew's registers and lanes before an issue. -/
structure Ckpt where
  regs : List Reg
  scal : List Scal
  hregs : List Reg
  lanes : List (Option Lane)
  wb : Nat
  fpcr : Word
  memdef : Word
deriving DecidableEq, Repr, Inhabited

/-- Where one byte of an access lies: at a physical address, in a team's scratchpad allocation, or nowhere (a byte of a
gather window whose index is out of range: it reads 0, and a store to it is discarded, R283). -/
inductive Place where
  | mem (pa : Nat)
  | scr (team off : Nat)
  | void
deriving DecidableEq, Repr, Inhabited

/-- A raised trap or a due emulation entry (R180). `tok` is the token that delivery sets to complete, `grade` what grade P
is at the moment of raising (R197), `query` the query address of each lane that KEY_DENSE puts into `h0`:`h1` (R387). -/
structure Trap where
  serial : Nat
  emul : Bool
  code : Nat
  arg : Nat
  emask : LaneMask
  s : LaneMask
  pc : Nat
  len : Nat
  entry : Option Entry
  ckpt : Ckpt
  tok : Option Nat
  grade : Nat
  query : List DWord
  eop : Word
  efields : Word
  eimm : Word
  epfx : Word
deriving DecidableEq, Repr, Inhabited

/-- The frame registers of the current level (R177), with YIELDED, LAST and N of the level below. -/
structure Frame where
  masked : Bool
  pmasked : Bool
  cause : Word
  trappc : DWord
  emask : DWord
  eop : Word
  efields : Word
  eimm : Word
  epfx : Word
  epc : DWord
  rpq : List Entry
  elen : Nat
  yielded : LaneMask
  last : LaneMask
  n : Nat
deriving DecidableEq, Repr, Inhabited

/-- R19's state of a crew. -/
structure Sel where
  yielded : LaneMask
  last : LaneMask
  n : Nat
deriving DecidableEq, Repr, Inhabited

/-- The handler levels of a crew: the current frame, the saved level-1 frame, EMUDEPTH's K bits and the greatest
depth (R174, R177, R182). -/
structure Levels where
  cur : Frame
  saved : Option Frame
  k1 : Bool
  k2 : Bool
deriving DecidableEq, Repr, Inhabited

/-- The cut extension of a record (R29): `h0` to `h15`, the frame and the levels, the lane's depth and place. `later` are
the raised traps that belong to its entries (R188). -/
structure CutExt where
  serial : Nat
  lane : Nat
  h : List (Word × Bool)
  depth : Nat
  lv : Levels
  saves : List LaneSave
  entries : List Entry
  later : List Trap
  bkpten : Bool
  poisonEn : Bool
deriving DecidableEq, Repr, Inhabited

/-- Where a record stands among the bins: readiness and its order, marks of age and closing (the number of the closing, since
later records fill a bin of their own), the store it is in, its Boathouse level and order of writing (R30 to R35). -/
structure Bin where
  ready : Bool
  since : Nat
  aged : Bool
  closed : Option Nat
  cluster : Nat
  level : Nat
  written : Nat
  bind : Option Nat
  hold : Option FwdTarget
deriving DecidableEq, Repr, Inhabited

/-- A continuation record (R25 to R29). `live` pairs register names with their values. -/
structure Rec where
  team : Nat
  idx : Nat
  ctx : Nat
  grid : Nat
  width : Nat
  resume : Nat
  wb : Nat
  live : List (Nat × Word)
  preds : BitVec 48
  toks : List Tok
  run : Option Run
  preoff : Bool
  poison : Bool
  idem : Bool
  tl : Bool
  restartable : Bool
  dom : Nat
  num : Word
  wait : Wait
  event : Nat
  unres : List FaultKey
  seen : List (Nat × Nat)
  wrote : List Nat
  hsave : List (Word × Bool)
  bin : Bin
  cut : Option CutExt
deriving DecidableEq, Repr, Inhabited

/-- An uncommitted line of a team: its domain and its bytes by address (R225). -/
structure Line where
  addr : Nat
  dom : Nat
  bytes : List (Nat × Byte)
deriving DecidableEq, Repr, Inhabited

/-- An entry of a pending-launch queue, or a host launch that awaits admission: the 64 bytes of the record and its
address (R344, R399), the grid it was admitted as, and the faults of its admission declared unresolvable (R353). -/
structure PendLaunch where
  bytes : List Byte
  addr : Nat
  grid : Option Nat
  unres : List FaultKey
deriving DecidableEq, Repr, Inhabited

/-- A bound window (R281) with the latch of GSTAT (R285). -/
structure Window where
  tbase : Nat
  ibase : Nat
  count : Nat
  es : Nat
  itype : Nat
  policy : Nat
  tlen : Nat
  scat : Bool
  bad : Bool
  pos : Nat
deriving DecidableEq, Repr, Inhabited

/-- A copy channel of a team (R267): open, with a transfer of `total` bytes of which `done` have been delivered.
`src` is the list of (team offset, source address, length) still to deliver. -/
structure Chan where
  num : Nat
  base : Nat
  total : Nat
  done : Nat
  src : List (Nat × Nat × Nat)
deriving DecidableEq, Repr, Inhabited

/-- A tile register (R230): 0 unconfigured, 1 clean, 2 dirty; its shape, type, elements in row-major order and NEXTSEQ
(R270). -/
structure Tile where
  num : Nat
  st : Nat
  ty : TileTy
  rows : Nat
  cols : Nat
  elems : List Word
  nextSeq : Word
deriving DecidableEq, Repr, Inhabited

/-- An arriver's record at a barrier (R273). The arriver is a thread of a team, or the team's Cox context (`none`). -/
structure Arriver where
  team : Nat
  idx : Option Nat
  waiting : Bool
  gen : Word
deriving DecidableEq, Repr, Inhabited

/-- A barrier (R273). -/
structure Bar where
  num : Nat
  gen : Word
  count : Nat
  exp : Option Nat
  recs : List Arriver
deriving DecidableEq, Repr, Inhabited

/-- A thread's place in the chain (R162 to R164): CNT, the last published value with its count, and whether the thread
has exited. -/
structure ChainSlot where
  idx : Nat
  cnt : Nat
  pub : Option (Nat × Word)
  exited : Bool
deriving DecidableEq, Repr, Inhabited

/-- What a team holds: the core of its tiles and, on its core, rows granted, the scratchpad's place and size, queue count,
tile slots, and the Boathouse bytes reserved (R44, R199, R202, R230, R351). `tgo` is the target that a FWD takes the tiles
to, until they have slots there (R44); `imgs` are the addresses of the save images of a claimed team (R239). -/
structure TeamRes where
  tcore : Nat
  rows : Nat
  sbase : Nat
  ssize : Nat
  nq : Nat
  tslot : Nat
  ntiles : Nat
  area : Nat
  tgo : Option FwdTarget
  imgs : List Nat
deriving DecidableEq, Repr, Inhabited

/-- Whether a team is on a core: running, vacated with its state resident, claimed (saved), waiting to be relaunched,
or retiring (R350, R360, R367). -/
inductive TeamMode where
  | placed
  | vacated
  | saved
  | rolled
  | restarted
  | retiring
deriving DecidableEq, Repr, Inhabited

/-- The Umpire's side of a team (R373 to R377): the bytes its run committed, what excludes it, and the replay it is a
run of. -/
structure Audit where
  log : List Host.Cell
  excluded : Bool
  replay : Option Nat
deriving DecidableEq, Repr, Inhabited

/-- A team (R14, R15). `freed` counts the entries that have left
`launchQ`, `fwdTo` holds a team-local FWD until the team gathers (R45). `err` is a rollback's cause. `home` is the port of the
peer that the team, or the threads of it that are here, came from; `away` are the threads that went to a peer, with the port
(R46). -/
structure Team where
  uid : Nat
  grid : Nat
  index : Nat
  core : Nat
  mode : TeamMode
  res : TeamRes
  scratch : Mem
  buf : List Line
  restart : Bool
  launchQ : List PendLaunch
  freed : Nat
  windows : List (Option Window)
  chans : List Chan
  queues : List (List (List Word))
  tiles : List Tile
  tbars : List Bar
  cbars : List Bar
  chain : List ChainSlot
  coxLive : Bool
  rollbacks : Nat
  err : Option Nat
  fwdTo : Option FwdTarget
  audit : Audit
  home : Option Nat
  away : List (Nat × Nat)
deriving DecidableEq, Repr, Inhabited

end Sys2Proof.Machine
end

