-- ==== Sys2Proof/Syntax.lean ====
section
/-! DEFINITION. The instructions of the NX4: one constructor per row of opcode_table.json. The rows from NOP to MEM
have encodings (02_encoding.md); the rows from TOKEN_WAIT_PARK on are the steps of the device, its engines and the
world outside it, with operands that name what each acts on (95_what_each_step_holds.md). -/

namespace Sys2Proof

/-- An atomic as it travels to the home slice of a peer (R219, R406): of RED or ATOM, EXCH, CAS with the value it compares, or
of a word of a copy. -/
inductive PeerOp where
  | red (op : RedMem)
  | exch
  | cas (cmp : DWord)
  | copy (rd : CpyRed) (ty : RedTy)
deriving DecidableEq, Repr, Inhabited

/-- The Cox context of a team that moves to a peer (R250). -/
structure CoxImage where
  lane : Machine.Lane
  regs : List Machine.Reg
  scal : List Machine.Scal
  hregs : List Machine.Reg
  wb : Nat
  fpcr : Word
  memdef : Word
  bkpten : Bool
  poisonEn : Bool
  lv : Machine.Levels
deriving DecidableEq, Repr, Inhabited

/-- What a peer flit carries (R405): the lines of a commit, tagged with their phase numbers; a load; an atomic (R406); a record,
of a thread of a team named by its grid's GRIDID and its index (R46); a team that moves (R45); a drain (R269); a thread's
chain slot (R165); the acknowledgement of a transfer, with the bytes that it answers, or with the word that a drain could not
be applied (R271); bytes of pages that are watched here (R115). -/
inductive FlitBody where
  | stores (ctx : Nat) (tags : List (Nat × Word)) (cells : List Host.Cell)
  | load (ctx va n : Nat)
  | atomic (ctx va : Nat) (op : PeerOp) (w64 : Bool) (value : DWord)
  | record (grid team : Nat) (r : Machine.Rec) (tiles : List Machine.Tile)
  | team (ctx grid : Nat) (t : Machine.Team) (cox : Option CoxImage)
  | drain (ctx grid team tile : Nat) (rows cols : Nat) (seq : Option Word) (elems : List (Nat × Word))
  | chain (ctx grid team : Nat) (slot : Machine.ChainSlot)
  | ack (seq : Nat) (ok : Bool) (cells : List Host.Cell)
  | watched (ctx : Nat) (cells : List Host.Cell)
deriving DecidableEq, Repr

/-- Where a peer or scheduler command sends work (R42, R355). -/
inductive DrainScope where
  | device
  | tenant (n : Nat)
  | cluster (c : Nat)
deriving DecidableEq, Repr, Inhabited

/-- The BAR registers that have no behaviour of their own when written (R390, REGISTER_WRITE). -/
inductive PlainReg where
  | agectl | relctl | admbase | fltbase
  | segctl (core : Nat)
deriving DecidableEq, Repr, Inhabited

/-- Who serves a translation request of a host page and how (R393). -/
inductive AtsAnswer where
  | mapped (hpa : Nat) (r w x : Bool)
  | absent
deriving DecidableEq, Repr, Inhabited

/-- The requester of a pre-emption (R357): a context, or the device itself. -/
inductive Requester where
  | ctx (c : Nat)
  | device
deriving DecidableEq, Repr, Inhabited

/-- What a pre-emption request asks for (R357): a count of cores within clusters, or named physical cores; or the request that
system software withdraws (R362). -/
inductive PreemptWant where
  | count (n : Nat) (clusters : List Nat)
  | cores (cs : List Nat)
  | withdraw (request : Nat)
deriving DecidableEq, Repr, Inhabited

/-- The instructions, prefix forms and device steps of opcode_table.json. -/
inductive Instr where
  -- Moves, selection and integer arithmetic (R91 to R108)
  | nop
  | mov (d : Rn) (a : Src)
  | movi (d : Rn) (imm : BitVec 18)
  | sel (d : Rn) (a b : Src) (p : Nat) (w64 : Bool)
  | iadd (d : Rn) (a b : Src)
  | isub (d : Rn) (a b : Src)
  | iaddi (d : Rn) (a : Rn) (la : Bool) (imm : BitVec 10)
  | imul (d : Rn) (a b : Src)
  | imulh (d : Rn) (a b : Src) (n : Bool)
  | imad (d : Rn) (a b c : Src)
  | imadw (d : Rn) (a b c : Src) (n : Bool)
  | idiv (d : Rn) (a b : Src) (rem n w64 : Bool) (lh : BitVec 4)
  | imin (d : Rn) (a b : Src) (n w64 : Bool)
  | imax (d : Rn) (a b : Src) (n w64 : Bool)
  | abs (d : Rn) (a : Src)
  | neg (d : Rn) (a : Src)
  | popc (d : Rn) (a : Src)
  | clz (d : Rn) (a : Src)
  | ctz (d : Rn) (a : Src)
  | brev (d : Rn) (a : Src)
  | not (d : Rn) (a : Src)
  | sx8 (d : Rn) (a : Src)
  | sx16 (d : Rn) (a : Src)
  | zx8 (d : Rn) (a : Src)
  | zx16 (d : Rn) (a : Src)
  | sx32 (d : Rn) (a : Src)
  | abs64 (d : Rn) (a : Src)
  | neg64 (d : Rn) (a : Src)
  | popc64 (d : Rn) (a : Src)
  | clz64 (d : Rn) (a : Src)
  | ctz64 (d : Rn) (a : Src)
  | brev64 (d : Rn) (a : Src)
  | not64 (d : Rn) (a : Src)
  | icmp (pd : Nat) (a b : Src) (cc : ICond) (n w64 : Bool) (comb : Comb)
  | iset (d : Rn) (a b : Src) (cc : ICond) (n w64 mask : Bool)
  | and (d : Rn) (a b : Src)
  | or (d : Rn) (a b : Src)
  | xor (d : Rn) (a b : Src)
  | andn (d : Rn) (a b : Src)
  | lut3 (d : Rn) (a b c : Src) (tt : BitVec 8)
  | shl (d : Rn) (a b : Src)
  | shr (d : Rn) (a b : Src)
  | sar (d : Rn) (a b : Src)
  | rot (d : Rn) (a b : Src)
  | fsh (d : Rn) (a b : Src) (amt : FshAmt) (right clamp : Bool)
  | bfx (d : Rn) (a : Src) (signed : Bool) (pl : PosLen)
  | bfi (d : Rn) (a b : Src) (pl : PosLen)
  | lea (d : Rn) (a b : Src) (shift : BitVec 3) (zx : Bool) (off : BitVec 11)
  | idot4 (d : Rn) (a b c : Src) (na nb sat : Bool)
  | plog (pd pa pb pc : Nat) (tt : BitVec 8)
  | pmovGet0 (d : Rn)
  | pmovGet1 (d : Rn)
  | pmovSet0 (a : Src)
  | pmovSet1 (a : Src)
  | pmovPredToReg (d : Rn) (p : Nat)
  | pmovRegToPred (p : Nat) (a : Src)
  -- Floating point (R139 to R153)
  | fadd (d : Rn) (a b : Src)
  | fsub (d : Rn) (a b : Src)
  | fmul (d : Rn) (a b : Src)
  | ffma (d : Rn) (a b c : Src) (np nc : Bool) (rm : Rm)
  | fmin (d : Rn) (a b : Src)
  | fmax (d : Rn) (a b : Src)
  | fcmp (pd : Nat) (a b : Src) (cc : FCond) (sig : Bool) (comb : Comb)
  | fabs (d : Rn) (a : Src)
  | fneg (d : Rn) (a : Src)
  | fsat (d : Rn) (a : Src)
  | fclass (d : Rn) (a : Src)
  | frintRne (d : Rn) (a : Src)
  | frintRz (d : Rn) (a : Src)
  | frintRd (d : Rn) (a : Src)
  | frintRu (d : Rn) (a : Src)
  | frint (d : Rn) (a : Src)
  | fspec (d : Rn) (a : Src) (fn : SpecFn) (rm : Rm) (lh : BitVec 4)
  | fdiv (d : Rn) (a b : Src) (rm : Rm) (lh : BitVec 4)
  | cvt (d : Rn) (a b : Src) (dty sty : Ty) (nsat : Bool) (rm : Rm) (de se : BitVec 3)
  | pkadd (d : Rn) (a b : Src) (bf : Bool) (sel : BitVec 2) (rm : Rm)
  | pkmul (d : Rn) (a b : Src) (bf : Bool) (sel : BitVec 2) (rm : Rm)
  | pkfma (d : Rn) (a b c : Src) (bf : Bool) (sel : BitVec 2) (rm : Rm)
  | fdot4 (d : Rn) (a b c : Src) (aE5 bE5 : Bool) (rm : Rm)
  | fdot8 (d : Rn) (a b c : Src) (rm : Rm)
  | mxscl (d : Rn) (a b : Src) (sel : BitVec 2) (rm : Rm)
  | dadd (d : Rn) (a b : Src) (rm : Rm)
  | dmul (d : Rn) (a b : Src) (rm : Rm)
  | dfma (d : Rn) (a b c : Src) (np nc : Bool) (rm : Rm)
  | dcmp (pd : Nat) (a b : Src) (cc : FCond) (sig : Bool) (comb : Comb)
  | dmin (d : Rn) (a b : Src)
  | dmax (d : Rn) (a b : Src)
  -- The lane network (R159 to R173)
  | nbr (d : Rn) (a : Src) (right : Bool) (bnd : Bnd) (w : SubW)
  | nbrChain (d : Rn) (a : Src) (right : Bool) (bnd : Bnd)
  | shfl (d : Rn) (a : Src) (idx : ShIdx) (mode : ShMode) (w : SubW) (pc : Option Nat)
  | pjoin (pd pa : Nat) (mode : JoinMode) (w : SubW)
  | lmaskLo (d : Rn) (p : Nat)
  | lmaskHi (d : Rn) (p : Nat)
  | lmask64 (d : Rn) (p : Nat)
  | accum (d : Rn) (a : Src) (op : RedOp) (excl : Bool) (w : SubW)
  | fold (d : Rn) (a : Src) (op : RedOp) (w : SubW)
  | matchv (d : Rn) (a : Src) (w64 : Bool) (w : SubW) (pc : Option Nat) (form : MatchForm)
  | lead (pd : Nat)
  | leadLast (pd : Nat)
  | prank (d : Rn) (p : Nat) (w : SubW) (incl : Bool)
  -- Memory (R214 to R227)
  | ld1 (t a : Rn) (off : BitVec 7) (lh : BitVec 4)
  | ld2 (t a : Rn) (off : BitVec 7) (lh : BitVec 4)
  | ld4 (t a : Rn) (off : BitVec 7) (lh : BitVec 4)
  | ld8 (t a : Rn) (off : BitVec 7) (lh : BitVec 4)
  | ld16 (t a : Rn) (off : BitVec 7) (lh : BitVec 4)
  | st1 (t a : Rn) (off : BitVec 7) (lh : BitVec 4)
  | st2 (t a : Rn) (off : BitVec 7) (lh : BitVec 4)
  | st4 (t a : Rn) (off : BitVec 7) (lh : BitVec 4)
  | st8 (t a : Rn) (off : BitVec 7) (lh : BitVec 4)
  | st16 (t a : Rn) (off : BitVec 7) (lh : BitVec 4)
  | atom (d : Rn) (a b : Src) (op : AtomOp) (w64 : Bool) (lh : BitVec 4) (off : BitVec 11)
  | red (a b : Src) (op : RedMem) (w64 : Bool) (off : BitVec 11)
  | cpy (a b : Src) (size : CpySize) (tok : BitVec 3) (rd : CpyRed) (ty : RedTy) (dsp ssp : Space) (lh : BitVec 4)
  | ldwp (d : Rn) (ch : BitVec 3)
  | fenceAcq (sc : Scope)
  | fenceRel (sc : Scope)
  | fenceAcqrel (sc : Scope)
  | fenceX (sc : Scope) (w r : Cls)
  | phaseCommit
  | phaseAdvance
  -- Tiles (R231 to R236)
  | tcfg (tile : BitVec 8) (ty : TileTy) (rows cols : BitVec 6)
  | tzero (tile : BitVec 8)
  | twr (tile : BitVec 8) (a : Src) (col : Bool) (idx : SliceIdx)
  | trd (d : Rn) (tile : BitVec 8) (col : Bool) (idx : SliceIdx)
  | tld (tile : BitVec 8) (a b : Src) (cm : Bool) (lh : BitVec 4)
  | tst (tile : BitVec 8) (a b : Src) (cm : Bool) (lh : BitVec 4)
  | trel (tile : BitVec 8)
  | tstat (d : Rn) (tile : BitVec 8)
  -- The cluster (R255 to R272)
  | mma (tile : BitVec 8) (a b c : Src) (ty : MmaTy) (acc : Bool)
  | mmab (tile : BitVec 8) (a b c : Src) (ty : MmabTy) (acc : Bool)
  | tdrain (tile : BitVec 8) (a b : Src) (seq : Bool)
  | pushq (q : BitVec 2) (a : Src)
  | popq (d : Rn) (q : BitVec 2)
  | loopa (a : Src) (depth : BitVec 3)
  | cbarArrive (bar : BitVec 3) (a : Src)
  | cbarWait (bar : BitVec 3) (la ka : Bool)
  | cbarSync (bar : BitVec 3) (a : Src)
  | tbarArrive (bar : BitVec 4) (a : Src)
  | tbarWait (bar : BitVec 4) (la ka : Bool)
  | tbarSync (bar : BitVec 4) (a : Src)
  -- The die and LAUNCH (R284 to R344)
  | gbind (win : BitVec 3) (a : Src) (scat : Bool)
  | gstat (d : Rn) (win : BitVec 3)
  | merge (a : Src) (isect : Bool)
  | contract (a : Src)
  | kst (slot : BitVec 3) (a b : Src)
  | kgather (d : Rn) (a b : Src) (slot : BitVec 3) (fb : Fallback) (probe : Bool) (cap : BitVec 11)
  | kreg (slot : BitVec 3) (a : Src)
  | kregUnbind (slot : BitVec 3) (la ka : Bool)
  | launch (a : Src)
  -- Branches, AWAIT, CTL, special registers (R110 to R125)
  | bra (off : BitVec 25)
  | call (off : BitVec 25)
  | jmp (a : Src)
  | calli (a : Src)
  | ret (a : Src)
  | awaitTok (mask : BitVec 8) (tl : Bool)
  | awaitWord (a b : Src) (cc : ICond) (n tl : Bool)
  | awaitCtr (a b : Src) (tl : Bool)
  | awaitPhase (a b : Src) (dom : BitVec 4) (tl : Bool)
  | awaitTbar (bar : BitVec 4) (tl : Bool)
  | awaitCbar (bar : BitVec 3) (tl : Bool)
  | win (wb : Nat)
  | exit
  | yield (tl : Bool)
  | fwd (a : Src) (tl : Bool)
  | preoff
  | preon
  | vdid (d : Rn)
  | vdhops (d : Rn) (a b : Src)
  | cyc (d : Rn)
  | srr (d : Rn) (reg : Nat)
  | srw (reg : Nat) (a : Src)
  -- TRAPS and the prefix forms (R183, R68 to R70)
  | trap (code : BitVec 7)
  | bkpt
  | rte
  | emret (n : Nat)
  | rpqr (d : Rn) (a : Src)
  | rpqw (d : Rn) (a : Src)
  | tmask (a : Src)
  | hmovf (d : Rn) (n : Nat)
  | hmovt (n : Nat) (a : Src)
  | grd (p : Nat) (neg : Bool) (count : BitVec 3)
  | kw (mask : BitVec 8)
  | mem (m : MemFields)
  -- Crews, records and bins (R16 to R47, R64, R178)
  | tokenWaitPark (crew : Nat)
  | translationComplete (crew op : Nat)
  | longLatencyComplete (crew op : Nat)
  | recordWrite (team thread : Nat)
  | boathouseSpill (cluster : Nat)
  | binAgeExpiry (team thread : Nat)
  | binDrain (team thread core : Nat)
  | activeSetChange (crew : Nat)
  | teamMove (team : Nat)
  | peerRecordArrival (port ctx grid team thread : Nat)
  | binForward (team thread core : Nat)
  | trapDelivery (crew : Nat)
  | emulationEntry (crew : Nat)
  -- Errors and rollback (R204 to R208, R279, R363 to R368)
  | scratchParityUpdate (core : Nat)
  | scratchError (core offset : Nat) (kind : ScratchErr)
  | llcError (line : Nat) (kind : LlcErr)
  | eccConsumed (holder : EccHolder)
  | teamRelaunch (grid team : Nat)
  -- Engines and commits
  | copyComplete (copy : Nat)
  | channelDelivery (team ch bytes : Nat)
  | commitComplete (commit : Nat)
  | phaseCopyUpdate (ctx dom die : Nat)
  | teamRetire (team : Nat)
  | gridComplete (grid : Nat)
  | matrixOpPerform (team op : Nat)
  | drainApply (drain : Nat)
  | coxFailure (cluster : Nat)
  | mergePerform (team : Nat)
  | contractPerform (team : Nat)
  | kstInsert (crew : Nat)
  | keyUnitFailure (die : Nat)
  -- The dispatcher
  | admission (team : Option Nat)
  | teamPlace
  | preemptRequest (who : Requester) (prio : Nat) (want : PreemptWant)
  | graceExpiry (core : Nat)
  | preoffLimitExpiry (crew : Nat)
  | maskedDeferExpiry (crew : Nat)
  | coreVacant (core : Nat)
  | runlistTurn
  | powerGovernorStep (cluster : Nat) (grant : BitVec 8)
  | umpireDecide (replay : Nat)
  | iftDue (cluster : Nat)
  | iftOverdue (cluster : Nat)
  | iftRun (cluster : Nat) (pass : Bool) (drift : BitVec 12)
  -- Admin ring and user queues
  | ctxCreate (desc ctx : Nat)
  | ctxDestroy (ctx : Nat)
  | ctxSuspend (ctx : Nat)
  | ctxResume (ctx : Nat)
  | queueMap (slot ctx : Nat) (base : DWord)
  | pasidClose (pasid : Nat)
  | faultDone (fid : Nat) (unresolvable : Bool)
  | drain (sc : DrainScope) (undrain : Bool)
  | migrate (ctx team port : Nat)
  | tenantSet (tenant block : Nat)
  | svcClear
  | bitload (addr len : Nat)
  | queueLaunch (slot rec : Nat)
  | waitctr (slot addr : Nat) (value : Word)
  | signal (slot addr : Nat) (value : Word)
  | admwptrWrite (v : Word)
  | queueDoorbell (slot : Nat) (v : Word)
  | admctlWrite (v : Word)
  | fltctlWrite (v : Word)
  | fltrptrWrite (v : Word)
  | qctlWrite (slot : Nat) (v : Word)
  | devctlWarm
  | devctlAge (v : Bool)
  | devctlIft (v : Bool)
  | devctlUmp (v : Bool)
  | devctlDrain (v : Bool)
  | registerWrite (reg : PlainReg) (v : DWord)
  -- Faults of translation, the host and the peers
  | faultRecordWrite
  | atsTranslationResponse (pasid page : Nat) (ans : AtsAnswer)
  | priResponse (pasid page : Nat) (success : Bool)
  | atsInvalidation (pasid page : Nat)
  | peerFlitReceive (port seq : Nat) (body : FlitBody)
  | peerRetryTimeout (port seq : Nat)
  | peerPortLoss (port : Nat)
  | hostPortDown (port : Nat)
  | coldStart (failed : List (Nat × Nat))
  | hostPageWrite (hpa : Nat) (bytes : List Byte)
deriving DecidableEq, Repr, Inhabited

end Sys2Proof
end

