-- ==== Sys2Proof/WellFormed.lean ====
section
/-! DEFINITION. Which terms of `Instr` an encoding can hold: the ranges of R53, R54, R74 to R83 and of each
instruction's own rule. A device step has no encoding and is always well formed here. -/

namespace Sys2Proof

/-- A source register field: any name but 127 (R53, R54). -/
def Rn.okSrc : Rn → Bool
  | .win n => n < 112
  | .sc n => n < 12
  | .zr | .lid | .lit _ => true

/-- A destination register field: neither 125, 126 nor 127 (R54). -/
def Rn.okDst : Rn → Bool
  | .win n => n < 112
  | .sc n => n < 12
  | .zr => true
  | .lid | .lit _ => false

/-- The literal an operand carries, if it is one. -/
def Rn.lit? : Rn → Option Word
  | .lit w => some w
  | _ => none

/-- Fields that hold 126 in one issue all read the same literal word (R54). -/
def litsAgree : List Rn → Bool
  | [] => true
  | r :: rs =>
    match r.lit? with
    | none => litsAgree rs
    | some w => rs.all fun q => q.lit? == none || q.lit? == some w

/-- Source fields of one issue: each a source name, all literals alike. -/
def okSrcs (rs : List Rn) : Bool := rs.all Rn.okSrc && litsAgree rs

/-- A predicate number (R84). -/
def okPred (p : Nat) : Bool := p < 48

/-- A COMB with a predicate (R74). -/
def Comb.ok : Comb → Bool
  | .none => true
  | .and p | .or p | .xor p => okPred p

/-- The register operands hidden in a funnel-shift amount, a position and length, an index, a slice index or an
atomic operation. -/
def FshAmt.srcs : FshAmt → List Rn
  | .reg c => [c.r]
  | .imm _ => []
def PosLen.srcs : PosLen → List Rn
  | .reg c => [c.r]
  | .imm _ _ => []
def ShIdx.srcs : ShIdx → List Rn
  | .reg b => [b.r]
  | .imm _ => []
def SliceIdx.srcs : SliceIdx → List Rn
  | .reg b => [b.r]
  | .imm _ => []
def AtomOp.srcs : AtomOp → List Rn
  | .cas c => [c.r]
  | _ => []

/-- The element widths of CVT types, in bits (R74, R129). -/
def Ty.width : Ty → Nat
  | .f64 | .i64 | .n64 => 64
  | .f32 | .i32 | .n32 => 32
  | .f16 | .bf16 | .i16 | .n16 => 16
  | .e4m3 | .e5m2 | .i8 | .n8 => 8
  | .e2m1 => 4

/-- The range of a CVT element selector (R77): 0 alone for 32 and 64 bits. -/
def Ty.selOk (t : Ty) (e : Nat) : Bool :=
  match t.width with
  | 16 => e < 2
  | 8 => e < 4
  | 4 => e < 8
  | _ => e == 0

/-- SHFL's immediate: bit 6 is zero but for SLIDE (R166). -/
def ShIdx.ok (m : ShMode) : ShIdx → Bool
  | .reg _ => true
  | .imm n => m == .slide || n.toNat < 64

/-- The ranges an encoding admits, constructor by constructor. -/
def Instr.wf : Instr → Bool
  | .nop => true
  | .mov d a | .abs d a | .neg d a | .popc d a | .clz d a | .ctz d a | .brev d a | .not d a | .sx8 d a | .sx16 d a
  | .zx8 d a | .zx16 d a | .sx32 d a | .abs64 d a | .neg64 d a | .popc64 d a | .clz64 d a | .ctz64 d a | .brev64 d a
  | .not64 d a | .fabs d a | .fneg d a | .fsat d a | .fclass d a | .frintRne d a | .frintRz d a | .frintRd d a
  | .frintRu d a | .frint d a => d.okDst && a.r.okSrc
  | .movi d _ => d.okDst
  | .iaddi d a _ _ => d.okDst && a.okSrc
  | .sel d a b p _ => d.okDst && okSrcs [a.r, b.r] && okPred p
  | .iadd d a b | .isub d a b | .imul d a b | .and d a b | .or d a b | .xor d a b | .andn d a b | .shl d a b
  | .shr d a b | .sar d a b | .rot d a b | .fadd d a b | .fsub d a b | .fmul d a b | .fmin d a b | .fmax d a b
  | .dmin d a b | .dmax d a b | .vdhops d a b => d.okDst && okSrcs [a.r, b.r]
  | .imulh d a b _ | .imin d a b _ _ | .imax d a b _ _ | .iset d a b _ _ _ _ | .idiv d a b _ _ _ _
  | .fdiv d a b _ _ | .pkadd d a b _ _ _ | .pkmul d a b _ _ _ | .mxscl d a b _ _ | .dadd d a b _ | .dmul d a b _
  | .lea d a b _ _ _ => d.okDst && okSrcs [a.r, b.r]
  | .imad d a b c | .imadw d a b c _ | .lut3 d a b c _ | .idot4 d a b c _ _ _ | .ffma d a b c _ _ _
  | .pkfma d a b c _ _ _ | .fdot4 d a b c _ _ _ | .fdot8 d a b c _ | .dfma d a b c _ _ _ =>
    d.okDst && okSrcs [a.r, b.r, c.r]
  | .icmp pd a b _ _ _ comb | .fcmp pd a b _ _ comb | .dcmp pd a b _ _ comb =>
    okPred pd && okSrcs [a.r, b.r] && comb.ok
  | .fsh d a b amt _ _ => d.okDst && okSrcs ([a.r, b.r] ++ amt.srcs)
  | .bfx d a _ pl => d.okDst && okSrcs (a.r :: pl.srcs)
  | .bfi d a b pl => d.okDst && okSrcs ([a.r, b.r] ++ pl.srcs)
  | .plog pd pa pb pc _ => okPred pd && okPred pa && okPred pb && okPred pc
  | .pmovGet0 d | .pmovGet1 d => d.okDst
  | .pmovSet0 a | .pmovSet1 a => a.r.okSrc
  | .pmovPredToReg d p => d.okDst && okPred p
  | .pmovRegToPred p a => okPred p && a.r.okSrc
  | .fspec d a fn rm _ => d.okDst && a.r.okSrc && (fn == .sqrt || rm == .fpcr)
  | .cvt d a b dty sty nsat _ de se =>
    d.okDst && dty != sty && dty.selOk de.toNat && sty.selOk se.toNat &&
    (!nsat || dty == .e4m3 || dty == .e5m2) &&
    (if dty.width < 32 then okSrcs [a.r, b.r] else a.r.okSrc && b == ⟨.win 0, false, false⟩)
  | .nbr d a _ _ _ | .nbrChain d a _ _ | .accum d a _ _ _ | .fold d a _ _ => d.okDst && a.r.okSrc
  | .shfl d a idx mode _ pc => d.okDst && okSrcs (a.r :: idx.srcs) && idx.ok mode && pc.all okPred
  | .pjoin pd pa _ _ => okPred pd && okPred pa
  | .lmaskLo d p | .lmaskHi d p | .lmask64 d p | .prank d p _ _ => d.okDst && okPred p
  | .matchv d a _ _ pc _ => d.okDst && a.r.okSrc && pc.all okPred
  | .lead pd | .leadLast pd => okPred pd
  | .ld1 t a _ _ | .ld2 t a _ _ | .ld4 t a _ _ | .ld8 t a _ _ | .ld16 t a _ _ => t.okDst && a.okSrc
  | .st1 t a _ _ | .st2 t a _ _ | .st4 t a _ _ | .st8 t a _ _ | .st16 t a _ _ => okSrcs [t, a]
  | .atom d a b op w64 _ _ => d.okDst && okSrcs ([a.r, b.r] ++ op.srcs) && !(op == .faddF32 && w64)
  | .red a b op w64 _ => okSrcs [a.r, b.r] && !(op == .faddF32 && w64)
  | .cpy a b _ _ rd ty _ _ _ => okSrcs [a.r, b.r] && !((rd == .and || rd == .or) && ty == .f32)
  | .ldwp d _ | .popq d _ | .gstat d _ | .tstat d _ | .vdid d | .cyc d => d.okDst
  | .fenceAcq _ | .fenceRel _ | .fenceAcqrel _ | .fenceX _ _ _ | .phaseCommit | .phaseAdvance => true
  | .tcfg _ _ _ _ | .tzero _ | .trel _ => true
  | .twr _ a _ idx => okSrcs (a.r :: idx.srcs)
  | .trd d _ _ idx => d.okDst && okSrcs idx.srcs
  | .tld _ a b _ _ | .tst _ a b _ _ | .kst _ a b => okSrcs [a.r, b.r]
  | .mma _ a b c _ _ | .mmab _ a b c _ _ => okSrcs [a.r, b.r, c.r]
  | .tdrain _ a b seq => okSrcs [a.r, b.r] && (seq || b.r == .zr)
  | .pushq _ a | .loopa a _ | .cbarArrive _ a | .cbarSync _ a | .tbarArrive _ a | .tbarSync _ a | .gbind _ a _
  | .merge a _ | .contract a | .kreg _ a | .launch a | .jmp a | .calli a | .ret a | .tmask a => a.r.okSrc
  | .cbarWait _ _ _ | .tbarWait _ _ _ | .kregUnbind _ _ _ => true
  | .kgather d a b _ fb _ cap =>
    d.okDst && okSrcs [a.r, b.r] && cap != 0 && (match fb with | .pred p => okPred p | .trap => true)
  | .bra _ | .call _ => true
  | .awaitTok _ _ | .awaitTbar _ _ | .awaitCbar _ _ => true
  | .awaitWord a b _ _ _ | .awaitCtr a b _ | .awaitPhase a b _ _ => okSrcs [a.r, b.r]
  | .win wb => wb < 10
  | .exit | .yield _ | .preoff | .preon => true
  | .fwd a _ => a.r.okSrc
  | .srr d reg => d.okDst && reg < 0x26
  | .srw reg a => a.r.okSrc && reg < 0x26
  | .trap _ | .bkpt | .rte => true
  | .emret n => n < 5
  | .rpqr d a => d.okDst && a.r.okSrc
  | .rpqw d a => okSrcs [d, a.r]
  | .hmovf d n => d.okDst && n < 16
  | .hmovt n a => n < 16 && a.r.okSrc
  | .grd p _ _ => okPred p
  | .kw _ | .mem _ => true
  | .tokenWaitPark _ | .longLatencyComplete _ _ | .recordWrite _ _ | .boathouseSpill _ | .binAgeExpiry _ _
  | .binDrain _ _ _ | .activeSetChange _ | .teamMove _ | .peerRecordArrival _ _ _ _ _ | .binForward _ _ _
  | .trapDelivery _ | .emulationEntry _ | .scratchParityUpdate _ | .scratchError _ _ _ | .llcError _ _
  | .eccConsumed _ | .teamRelaunch _ _ | .copyComplete _ | .channelDelivery _ _ _ | .commitComplete _ | .teamRetire _
  | .gridComplete _ | .matrixOpPerform _ _ | .drainApply _ | .coxFailure _ | .mergePerform _ | .contractPerform _
  | .kstInsert _ | .keyUnitFailure _ | .admission _ | .teamPlace | .preemptRequest _ _ _ | .graceExpiry _
  | .preoffLimitExpiry _ | .maskedDeferExpiry _ | .coreVacant _ | .runlistTurn | .powerGovernorStep _ _
  | .umpireDecide _ | .iftDue _ | .iftOverdue _ | .iftRun _ _ _ | .ctxCreate _ _ | .ctxDestroy _ | .ctxSuspend _
  | .ctxResume _ | .queueMap _ _ _ | .pasidClose _ | .faultDone _ _ | .drain _ _ | .migrate _ _ _ | .tenantSet _ _
  | .svcClear | .bitload _ _ | .queueLaunch _ _ | .waitctr _ _ _ | .signal _ _ _ | .admwptrWrite _
  | .queueDoorbell _ _ | .admctlWrite _ | .fltctlWrite _ | .fltrptrWrite _ | .qctlWrite _ _ | .devctlWarm
  | .devctlAge _ | .devctlIft _ | .devctlUmp _ | .devctlDrain _ | .registerWrite _ _ | .faultRecordWrite
  | .atsTranslationResponse _ _ _ | .priResponse _ _ _ | .atsInvalidation _ _ | .peerFlitReceive _ _ _
  | .peerRetryTimeout _ _ | .peerPortLoss _ | .hostPortDown _ | .coldStart _ | .translationComplete _ _
  | .hostPageWrite _ _ | .phaseCopyUpdate _ _ _ => true

end Sys2Proof
end

