-- ==== Sys2Proof/Decode.lean ====
section
/-! DEFINITION. The decoder of 02_encoding.md (R48 to R86), total on any words, and the encoder of the same tables. -/

namespace Sys2Proof

/-! ## Fields of the words (R50) -/

def fOp (w : Nat) : Nat := bits w 25 7
def fD (w : Nat) : Nat := bits w 18 7
def fA (w : Nat) : Nat := bits w 11 7
def fB (w : Nat) : Nat := bits w 4 7
def fLA (w : Nat) : Bool := bit w 3
def fLB (w : Nat) : Bool := bit w 2
def fKA (w : Nat) : Bool := bit w 1
def fKB (w : Nat) : Bool := bit w 0
def fC (w : Nat) : Nat := bits w 25 7
def fSub (w : Nat) : Nat := bits w 17 8
def fLC (w : Nat) : Bool := bit w 16
def fKC (w : Nat) : Bool := bit w 15
def fLh (w : Nat) : Nat := bits w 11 4
def fImm (w : Nat) : Nat := bits w 0 11

/-- A source register field (R53, R54). -/
def srcRn (f lit : Nat) : Option Rn :=
  if f < 112 then some (.win f)
  else if f < 124 then some (.sc (f - 112))
  else if f = 124 then some .zr
  else if f = 125 then some .lid
  else if f = 126 then some (.lit (BitVec.ofNat 32 lit))
  else none

/-- A destination register field: 125, 126 and 127 are undefined (R54). -/
def dstRn (f : Nat) : Option Rn :=
  if f < 112 then some (.win f)
  else if f < 124 then some (.sc (f - 112))
  else if f = 124 then some .zr
  else none

/-- A predicate field: above 47 is undefined (R84). -/
def predF (f : Nat) : Option Nat := if f < 48 then some f else none

def srcA (w0 lit : Nat) : Option Src := (srcRn (fA w0) lit).map fun r => ⟨r, fLA w0, fKA w0⟩
def srcB (w0 lit : Nat) : Option Src := (srcRn (fB w0) lit).map fun r => ⟨r, fLB w0, fKB w0⟩
def srcC (w1 lit : Nat) : Option Src := (srcRn (fC w1) lit).map fun r => ⟨r, fLC w1, fKC w1⟩

/-- An encoding is defined only where its fixed fields hold what the map says (R52, R84). -/
def chk {α : Type} (c : Bool) (x : Option α) : Option α := if c then x else none

/-! ## Fields that must be zero -/

/-- D. -/
def zD (w0 : Nat) : Bool := fD w0 == 0
/-- A with its bits. -/
def zA (w0 : Nat) : Bool := fA w0 == 0 && !fLA w0 && !fKA w0
/-- B with its bits. -/
def zB (w0 : Nat) : Bool := fB w0 == 0 && !fLB w0 && !fKB w0
/-- C with its bits. -/
def zC (w1 : Nat) : Bool := fC w1 == 0 && !fLC w1 && !fKC w1
/-- LC and KC alone. -/
def zCb (w1 : Nat) : Bool := !fLC w1 && !fKC w1
def zLh (w1 : Nat) : Bool := fLh w1 == 0
def zImm (w1 : Nat) : Bool := fImm w1 == 0
/-- LB and KB of the U format (R52). -/
def zUb (w0 : Nat) : Bool := !fLB w0 && !fKB w0
/-- A, LA and KA with the U format's LB and KB. -/
def zUA (w0 : Nat) : Bool := zA w0 && zUb w0

/-! ## Codes (R74 to R83) -/

def SubW.ofCode : Nat → Option SubW
  | 0 => some .w2 | 1 => some .w4 | 2 => some .w8 | 3 => some .w16 | 4 => some .w32 | 5 => some .w64 | _ => none
def SubW.code : SubW → Nat
  | .w2 => 0 | .w4 => 1 | .w8 => 2 | .w16 => 3 | .w32 => 4 | .w64 => 5
def ICond.ofCode : Nat → Option ICond
  | 0 => some .eq | 1 => some .ne | 2 => some .lt | 3 => some .le | 4 => some .gt | 5 => some .ge | _ => none
def ICond.code : ICond → Nat
  | .eq => 0 | .ne => 1 | .lt => 2 | .le => 3 | .gt => 4 | .ge => 5
def FCond.ofCode : Nat → Option FCond
  | 0 => some .eq | 1 => some .ne | 2 => some .lt | 3 => some .le | 4 => some .gt | 5 => some .ge | 6 => some .un
  | 7 => some .ord | _ => none
def FCond.code : FCond → Nat
  | .eq => 0 | .ne => 1 | .lt => 2 | .le => 3 | .gt => 4 | .ge => 5 | .un => 6 | .ord => 7
/-- COMB with C: code 0 has C zero (R74). -/
def Comb.ofCode (code c : Nat) : Option Comb :=
  match code with
  | 0 => chk (c == 0) (some .none)
  | 1 => (predF c).map .and
  | 2 => (predF c).map .or
  | 3 => (predF c).map .xor
  | _ => Option.none
def Comb.code : Comb → Nat
  | .none => 0 | .and _ => 1 | .or _ => 2 | .xor _ => 3
def Comb.pred : Comb → Nat
  | .none => 0 | .and p => p | .or p => p | .xor p => p
def Rm.ofCode : Nat → Option Rm
  | 0 => some .fpcr | 1 => some .rne | 2 => some .rz | 3 => some .rd | _ => none
def Rm.code : Rm → Nat
  | .fpcr => 0 | .rne => 1 | .rz => 2 | .rd => 3
def RedOp.ofCode : Nat → Option RedOp
  | 0 => some .addI32 | 1 => some .addF32 | 2 => some .minI32 | 3 => some .minN32 | 4 => some .maxI32
  | 5 => some .maxN32 | 6 => some .minF32 | 7 => some .maxF32 | 8 => some .and | 9 => some .or | 10 => some .xor
  | _ => none
def RedOp.code : RedOp → Nat
  | .addI32 => 0 | .addF32 => 1 | .minI32 => 2 | .minN32 => 3 | .maxI32 => 4 | .maxN32 => 5 | .minF32 => 6
  | .maxF32 => 7 | .and => 8 | .or => 9 | .xor => 10
def Ty.ofCode : Nat → Option Ty
  | 0 => some .f32 | 1 => some .f16 | 2 => some .bf16 | 3 => some .e4m3 | 4 => some .e5m2 | 5 => some .e2m1
  | 6 => some .f64 | 7 => some .i32 | 8 => some .n32 | 9 => some .i64 | 10 => some .n64 | 11 => some .i16
  | 12 => some .n16 | 13 => some .i8 | 14 => some .n8 | _ => none
def Ty.code : Ty → Nat
  | .f32 => 0 | .f16 => 1 | .bf16 => 2 | .e4m3 => 3 | .e5m2 => 4 | .e2m1 => 5 | .f64 => 6 | .i32 => 7 | .n32 => 8
  | .i64 => 9 | .n64 => 10 | .i16 => 11 | .n16 => 12 | .i8 => 13 | .n8 => 14
def Cls.ofCode : Nat → Option Cls
  | 0 => some .c | 1 => some .y | 2 => some .x | 3 => some .g | 4 => some .s | 5 => some .k | _ => none
def Cls.code : Cls → Nat
  | .c => 0 | .y => 1 | .x => 2 | .g => 3 | .s => 4 | .k => 5
def SpecFn.ofCode : Nat → Option SpecFn
  | 0 => some .rcp | 1 => some .rsq | 2 => some .sqrt | 3 => some .exp2 | 4 => some .log2 | 5 => some .sin
  | 6 => some .cos | 7 => some .tanh | _ => none
def SpecFn.code : SpecFn → Nat
  | .rcp => 0 | .rsq => 1 | .sqrt => 2 | .exp2 => 3 | .log2 => 4 | .sin => 5 | .cos => 6 | .tanh => 7
def Bnd.ofCode : Nat → Option Bnd
  | 0 => some .zero | 1 => some .own | 2 => some .wrap | _ => none
def Bnd.code : Bnd → Nat
  | .zero => 0 | .own => 1 | .wrap => 2
def ShMode.ofCode : Nat → Option ShMode
  | 0 => some .pick | 1 => some .slide | 2 => some .flip | 3 => some .turn | _ => none
def ShMode.code : ShMode → Nat
  | .pick => 0 | .slide => 1 | .flip => 2 | .turn => 3
def JoinMode.ofCode : Nat → Option JoinMode
  | 0 => Option.some .every | 1 => Option.some .some | 2 => Option.some .same | 3 => Option.some .odd | _ => none
def JoinMode.code : JoinMode → Nat
  | .every => 0 | .some => 1 | .same => 2 | .odd => 3
def MatchForm.ofCode : Nat → Option MatchForm
  | 0 => some .mask | 1 => some .lead | 2 => some .count | _ => none
def MatchForm.code : MatchForm → Nat
  | .mask => 0 | .lead => 1 | .count => 2
def RedMem.ofCode : Nat → Option RedMem
  | 0 => some .add | 1 => some .and | 2 => some .or | 3 => some .xor | 4 => some .minI | 5 => some .minN
  | 6 => some .maxI | 7 => some .maxN | 10 => some .faddF32 | _ => none
def RedMem.code : RedMem → Nat
  | .add => 0 | .and => 1 | .or => 2 | .xor => 3 | .minI => 4 | .minN => 5 | .maxI => 6 | .maxN => 7
  | .faddF32 => 10
def CpySize.ofCode : Nat → Option CpySize
  | 0 => some .b4 | 1 => some .b8 | 2 => some .b16 | _ => none
def CpySize.code : CpySize → Nat
  | .b4 => 0 | .b8 => 1 | .b16 => 2
def CpyRed.ofCode : Nat → Option CpyRed
  | 0 => some .none | 1 => some .add | 2 => some .min | 3 => some .max | 4 => some .and | 5 => some .or
  | _ => Option.none
def CpyRed.code : CpyRed → Nat
  | .none => 0 | .add => 1 | .min => 2 | .max => 3 | .and => 4 | .or => 5
def RedTy.ofCode : Nat → Option RedTy
  | 0 => some .i32 | 1 => some .n32 | 2 => some .f32 | _ => none
def RedTy.code : RedTy → Nat
  | .i32 => 0 | .n32 => 1 | .f32 => 2
def Space.ofCode : Nat → Option Space
  | 0 => some .generic | 1 => some .global | 2 => some .scratch | 3 => some .remote | 4 => some .constant
  | 5 => some .gwin | 6 => some .key | _ => none
def Space.code : Space → Nat
  | .generic => 0 | .global => 1 | .scratch => 2 | .remote => 3 | .constant => 4 | .gwin => 5 | .key => 6
def Scope.ofCode : Nat → Option Scope
  | 0 => some .team | 1 => some .cluster | 2 => some .package | 3 => some .system | _ => none
def Scope.code : Scope → Nat
  | .team => 0 | .cluster => 1 | .package => 2 | .system => 3
def Order.ofCode : Nat → Option Order
  | 0 => some .relaxed | 1 => some .acquire | 2 => some .release | 3 => some .acqRel | _ => none
def Order.code : Order → Nat
  | .relaxed => 0 | .acquire => 1 | .release => 2 | .acqRel => 3
def TileTy.ofCode : Nat → Option TileTy
  | 0 => some .f32 | 1 => some .f16 | 2 => some .bf16 | 3 => some .i32 | _ => none
def TileTy.code : TileTy → Nat
  | .f32 => 0 | .f16 => 1 | .bf16 => 2 | .i32 => 3
def MmaTy.ofCode : Nat → Option MmaTy
  | 0 => some .e4m3 | 1 => some .e5m2 | 2 => some .bf16 | 3 => some .f16 | 4 => some .e2m1 | 5 => some .f64
  | _ => none
def MmaTy.code : MmaTy → Nat
  | .e4m3 => 0 | .e5m2 => 1 | .bf16 => 2 | .f16 => 3 | .e2m1 => 4 | .f64 => 5
def MmabTy.ofCode : Nat → Option MmabTy
  | 0 => some .mx8e4 | 1 => some .mx8e5 | 2 => some .mx4 | _ => none
def MmabTy.code : MmabTy → Nat
  | .mx8e4 => 0 | .mx8e5 => 1 | .mx4 => 2

/-! ## Presence of words (R48, R191) -/

/-- Opcodes of X format; a reserved opcode is taken as X (R75 to R82, R191). -/
def isX (op : Nat) : Bool :=
  op == 0x03 || (0x08 ≤ op && op ≤ 0x0C) || op == 0x0E || op == 0x0F || op == 0x14 || (0x19 ≤ op && op ≤ 0x1E) ||
  op == 0x23 || op == 0x26 || (0x28 ≤ op && op ≤ 0x42) || (0x44 ≤ op && op ≤ 0x46) || (0x48 ≤ op && op ≤ 0x4F) ||
  (0x5A ≤ op && op ≤ 0x5C) || op == 0x5E || op == 0x60 || (0x62 ≤ op && op ≤ 0x65) || (0x68 ≤ op && op ≤ 0x70) ||
  (0x72 ≤ op && op ≤ 0x77) || op == 0x7B || op == 0x7C

/-- Which of the fields D (and T), A, B and C the map's row names as registers (R53, R191). `sub` is SUB8 of word 1
in X format, and B in U format. -/
def regFields (op sub : Nat) (lb : Bool) : Bool × Bool × Bool × Bool :=
  let no := (false, false, false, false)
  let d := (true, false, false, false)
  let a := (false, true, false, false)
  let ab := (false, true, true, false)
  let da := (true, true, false, false)
  let dab := (true, true, true, false)
  let all := (true, true, true, true)
  match op with
  | 0x00 => no
  | 0x01 | 0x06 | 0x0D => da
  | 0x02 => d
  | 0x09 | 0x0A | 0x14 | 0x1D | 0x23 | 0x2D | 0x2E | 0x2F | 0x33 => all
  | 0x0E | 0x26 | 0x34 => ab
  | 0x19 => (true, true, true, !bit sub 1)
  | 0x1A => (true, true, false, bit sub 1)
  | 0x1B => (true, true, true, bit sub 1)
  | 0x1E => no
  | 0x1F => if sub == 0 || sub == 1 || sub == 4 then d else if sub == 2 || sub == 3 || sub == 5 then a else no
  | 0x27 | 0x28 => da
  | 0x36 | 0x37 | 0x38 | 0x39 | 0x3A | 0x3B | 0x3C | 0x3D | 0x3E | 0x3F => all
  | 0x40 => da
  | 0x41 => (true, true, !bit sub 6, false)
  | 0x42 => no
  | 0x43 | 0x48 => d
  | 0x44 | 0x45 | 0x46 => da
  | 0x47 => no
  | 0x49 | 0x4A | 0x4B | 0x4C | 0x4D | 0x4E | 0x4F => all
  | 0x50 | 0x51 | 0x52 | 0x53 | 0x54 | 0x55 | 0x56 | 0x57 | 0x58 | 0x59 => da
  | 0x5A => (true, true, true, bits sub 0 4 == 9)
  | 0x5B | 0x5C => ab
  | 0x5D => d
  | 0x5E | 0x5F | 0x60 | 0x61 | 0x66 => no
  | 0x62 => (false, true, bit sub 1, false)
  | 0x63 => (true, false, bit sub 1, false)
  | 0x64 | 0x65 | 0x6A | 0x74 => ab
  | 0x67 | 0x6C | 0x71 => d
  | 0x68 | 0x69 => (false, true, true, true)
  | 0x6B | 0x6D | 0x6E | 0x6F | 0x70 | 0x72 | 0x73 | 0x76 | 0x77 | 0x7A => a
  | 0x75 => dab
  | 0x78 | 0x79 => no
  | 0x7B => if 2 ≤ bits sub 0 3 && bits sub 0 3 ≤ 4 then ab else no
  | 0x7C =>
    match bits sub 0 4 with
    | 3 => a
    | 6 | 8 => d
    | 7 => dab
    | _ => no
  | 0x7D => if lb then a else d
  | 0x7E =>
    match sub with
    | 4 | 5 => da
    | 6 | 8 => a
    | 7 => d
    | _ => no
  | 0x7F => no
  | _ => dab

/-- SUB8 of an X format, B of the others. -/
def subOf (w0 w1 : Nat) : Nat := if isX (fOp w0) then fSub w1 else fB w0

/-- The literal word is present when a register field holds 126 (R48). -/
def needLit (w0 w1 : Nat) : Bool :=
  match regFields (fOp w0) (subOf w0 w1) (fLB w0) with
  | (d, a, b, c) => (d && fD w0 == 126) || (a && fA w0 == 126) || (b && fB w0 == 126) || (c && fC w1 == 126)

/-! ## Instructions, by opcode -/

/-- R format with D, A and B. -/
def decRrr (mk : Rn → Src → Src → Instr) (w0 lit : Nat) : Option Instr := do
  let d ← dstRn (fD w0)
  let a ← srcA w0 lit
  let b ← srcB w0 lit
  some (mk d a b)

/-- U format with D and A. -/
def decUda (mk : Rn → Src → Instr) (w0 lit : Nat) : Option Instr :=
  chk (zUb w0) do
    let d ← dstRn (fD w0)
    let a ← srcA w0 lit
    some (mk d a)

/-- X format with D, A, B and SUB8; C, LC, KC, LH and IMM11 zero. -/
def decXdab (mk : Rn → Src → Src → Option Instr) (w0 w1 lit : Nat) : Option Instr :=
  chk (zC w1 && zLh w1 && zImm w1) do
    let d ← dstRn (fD w0)
    let a ← srcA w0 lit
    let b ← srcB w0 lit
    mk d a b

/-- X format with D, A, B, C and SUB8; LH and IMM11 zero. LC and KC belong to register C, in IMAD and IMADW too (R96, log entry
114). -/
def decXdabc (mk : Rn → Src → Src → Src → Option Instr) (w0 w1 lit : Nat) : Option Instr :=
  chk (zLh w1 && zImm w1) do
    let d ← dstRn (fD w0)
    let a ← srcA w0 lit
    let b ← srcB w0 lit
    let c ← srcC w1 lit
    mk d a b c

/-- IUNA (R76). -/
def decIuna (w0 lit : Nat) : Option Instr :=
  match fB w0 with
  | 0x00 => decUda .abs w0 lit
  | 0x01 => decUda .neg w0 lit
  | 0x02 => decUda .popc w0 lit
  | 0x03 => decUda .clz w0 lit
  | 0x04 => decUda .ctz w0 lit
  | 0x05 => decUda .brev w0 lit
  | 0x06 => decUda .not w0 lit
  | 0x08 => decUda .sx8 w0 lit
  | 0x09 => decUda .sx16 w0 lit
  | 0x0A => decUda .zx8 w0 lit
  | 0x0B => decUda .zx16 w0 lit
  | 0x0C => decUda .sx32 w0 lit
  | 0x10 => decUda .abs64 w0 lit
  | 0x11 => decUda .neg64 w0 lit
  | 0x12 => decUda .popc64 w0 lit
  | 0x13 => decUda .clz64 w0 lit
  | 0x14 => decUda .ctz64 w0 lit
  | 0x15 => decUda .brev64 w0 lit
  | 0x16 => decUda .not64 w0 lit
  | _ => none

/-- PMOV (R76, R108). -/
def decPmov (w0 lit : Nat) : Option Instr :=
  match fB w0 with
  | 0 => chk (zUA w0) ((dstRn (fD w0)).map .pmovGet0)
  | 1 => chk (zUA w0) ((dstRn (fD w0)).map .pmovGet1)
  | 2 => chk (zD w0 && zUb w0) ((srcA w0 lit).map .pmovSet0)
  | 3 => chk (zD w0 && zUb w0) ((srcA w0 lit).map .pmovSet1)
  | 4 => chk (!fLA w0 && !fKA w0 && zUb w0) do
      let d ← dstRn (fD w0)
      let p ← predF (fA w0)
      some (.pmovPredToReg d p)
  | 5 => chk (zUb w0) do
      let p ← predF (fD w0)
      let a ← srcA w0 lit
      some (.pmovRegToPred p a)
  | _ => none

/-- FUNA (R77). -/
def decFuna (w0 lit : Nat) : Option Instr :=
  match fB w0 with
  | 0 => decUda .fabs w0 lit
  | 1 => decUda .fneg w0 lit
  | 2 => decUda .fsat w0 lit
  | 3 => decUda .fclass w0 lit
  | 4 => decUda .frintRne w0 lit
  | 5 => decUda .frintRz w0 lit
  | 6 => decUda .frintRd w0 lit
  | 7 => decUda .frintRu w0 lit
  | 8 => decUda .frint w0 lit
  | _ => none

/-- Position and length, or a shift amount, from C or from IMM11 (R105, R106). -/
def decPosLen (w1 lit : Nat) : Option PosLen :=
  if bit (fSub w1) 1 then chk (zImm w1) ((srcC w1 lit).map .reg)
  else chk (zC w1) (some (.imm (BitVec.ofNat 5 (bits w1 0 5)) (BitVec.ofNat 6 (bits w1 5 6))))
def decFshAmt (w1 lit : Nat) : Option FshAmt :=
  if bit (fSub w1) 1 then chk (zC w1 && bits w1 6 5 == 0) (some (.imm (BitVec.ofNat 6 (bits w1 0 6))))
  else chk (zImm w1) ((srcC w1 lit).map .reg)

/-- ICMP, FCMP and DCMP share a shape: a predicate destination and a combining predicate (R75, R77). -/
def decCmp (comb : Nat) (mk : Nat → Src → Src → Comb → Option Instr) (w0 w1 lit : Nat) : Option Instr :=
  chk (zCb w1 && zLh w1 && zImm w1) do
    let p ← predF (fD w0)
    let a ← srcA w0 lit
    let b ← srcB w0 lit
    let k ← Comb.ofCode comb (fC w1)
    mk p a b k

/-- Opcodes 0x00 to 0x1F (R75). -/
def decGroup0 (w0 w1 lit : Nat) : Option Instr :=
  let s := fSub w1
  match fOp w0 with
  | 0x00 => chk (w0 == 0) (some .nop)
  | 0x01 => chk (zB w0) do
      let d ← dstRn (fD w0)
      let a ← srcA w0 lit
      some (.mov d a)
  | 0x02 => (dstRn (fD w0)).map fun d => .movi d (BitVec.ofNat 18 (bits w0 0 18))
  | 0x03 => chk (zCb w1 && zLh w1 && zImm w1 && s < 2) do
      let d ← dstRn (fD w0)
      let a ← srcA w0 lit
      let b ← srcB w0 lit
      let p ← predF (fC w1)
      some (.sel d a b p (bit s 0))
  | 0x04 => decRrr .iadd w0 lit
  | 0x05 => decRrr .isub w0 lit
  | 0x06 => do
      let d ← dstRn (fD w0)
      let a ← srcRn (fA w0) lit
      some (.iaddi d a (bit w0 0) (BitVec.ofNat 10 (bits w0 1 10)))
  | 0x07 => decRrr .imul w0 lit
  | 0x08 => decXdab (fun d a b => chk (s < 2) (some (.imulh d a b (bit s 0)))) w0 w1 lit
  | 0x09 => decXdabc (fun d a b c => chk (s == 0) (some (.imad d a b c))) w0 w1 lit
  | 0x0A => decXdabc (fun d a b c => chk (s < 2) (some (.imadw d a b c (bit s 0)))) w0 w1 lit
  | 0x0B => chk (zC w1 && zImm w1 && s < 8) do
      let d ← dstRn (fD w0)
      let a ← srcA w0 lit
      let b ← srcB w0 lit
      some (.idiv d a b (bit s 0) (bit s 1) (bit s 2) (BitVec.ofNat 4 (fLh w1)))
  | 0x0C => decXdab (fun d a b => chk (s < 8)
      (some (if bit s 0 then .imax d a b (bit s 1) (bit s 2) else .imin d a b (bit s 1) (bit s 2)))) w0 w1 lit
  | 0x0D => decIuna w0 lit
  | 0x0E => decCmp (bits s 5 2) (fun p a b k => chk (s < 128) do
      let cc ← ICond.ofCode (bits s 0 3)
      some (.icmp p a b cc (bit s 3) (bit s 4) k)) w0 w1 lit
  | 0x0F => decXdab (fun d a b => chk (s < 64) do
      let cc ← ICond.ofCode (bits s 0 3)
      some (.iset d a b cc (bit s 3) (bit s 4) (bit s 5))) w0 w1 lit
  | 0x10 => decRrr .and w0 lit
  | 0x11 => decRrr .or w0 lit
  | 0x12 => decRrr .xor w0 lit
  | 0x13 => decRrr .andn w0 lit
  | 0x14 => decXdabc (fun d a b c => some (.lut3 d a b c (BitVec.ofNat 8 s))) w0 w1 lit
  | 0x15 => decRrr .shl w0 lit
  | 0x16 => decRrr .shr w0 lit
  | 0x17 => decRrr .sar w0 lit
  | 0x18 => decRrr .rot w0 lit
  | 0x19 => chk (zLh w1 && s < 8) do
      let d ← dstRn (fD w0)
      let a ← srcA w0 lit
      let b ← srcB w0 lit
      let amt ← decFshAmt w1 lit
      some (.fsh d a b amt (bit s 0) (bit s 2))
  | 0x1A => chk (zB w0 && zLh w1 && s < 4) do
      let d ← dstRn (fD w0)
      let a ← srcA w0 lit
      let pl ← decPosLen w1 lit
      some (.bfx d a (bit s 0) pl)
  | 0x1B => chk (zLh w1 && s < 4 && !bit s 0) do
      let d ← dstRn (fD w0)
      let a ← srcA w0 lit
      let b ← srcB w0 lit
      let pl ← decPosLen w1 lit
      some (.bfi d a b pl)
  | 0x1C => chk (zC w1 && zLh w1 && s < 16) do
      let d ← dstRn (fD w0)
      let a ← srcA w0 lit
      let b ← srcB w0 lit
      some (.lea d a b (BitVec.ofNat 3 (bits s 0 3)) (bit s 3) (BitVec.ofNat 11 (fImm w1)))
  | 0x1D => decXdabc (fun d a b c => chk (s < 8) (some (.idot4 d a b c (bit s 0) (bit s 1) (bit s 2)))) w0 w1 lit
  | 0x1E => chk (!fLA w0 && !fLB w0 && !fKA w0 && !fKB w0 && zCb w1 && zLh w1 && zImm w1) do
      let d ← predF (fD w0)
      let a ← predF (fA w0)
      let b ← predF (fB w0)
      let c ← predF (fC w1)
      some (.plog d a b c (BitVec.ofNat 8 s))
  | 0x1F => decPmov w0 lit
  | _ => none

/-- CVT (R77, R147). -/
def decCvt (w0 w1 lit : Nat) : Option Instr :=
  let s := fSub w1
  chk (zC w1 && zLh w1 && !bit s 5 && !bit w1 10) do
    let d ← dstRn (fD w0)
    let a ← srcA w0 lit
    let dty ← Ty.ofCode (bits s 0 4)
    let sty ← Ty.ofCode (bits w1 0 4)
    let rm ← Rm.ofCode (bits s 6 2)
    let b ← if dty.width < 32 then srcB w0 lit else chk (zB w0) (some ⟨.win 0, false, false⟩)
    let i : Instr := .cvt d a b dty sty (bit s 4) rm (BitVec.ofNat 3 (bits w1 4 3)) (BitVec.ofNat 3 (bits w1 7 3))
    chk (dty != sty && dty.selOk (bits w1 4 3) && sty.selOk (bits w1 7 3) &&
      (!bit s 4 || dty == .e4m3 || dty == .e5m2)) (some i)

/-- Opcodes 0x20 to 0x35 (R77). -/
def decGroup1 (w0 w1 lit : Nat) : Option Instr :=
  let s := fSub w1
  match fOp w0 with
  | 0x20 => decRrr .fadd w0 lit
  | 0x21 => decRrr .fsub w0 lit
  | 0x22 => decRrr .fmul w0 lit
  | 0x23 => decXdabc (fun d a b c => chk (bits s 2 4 == 0) do
      let rm ← Rm.ofCode (bits s 6 2)
      some (.ffma d a b c (bit s 0) (bit s 1) rm)) w0 w1 lit
  | 0x24 => decRrr .fmin w0 lit
  | 0x25 => decRrr .fmax w0 lit
  | 0x26 => decCmp (bits s 3 2) (fun p a b k => chk (s < 64) do
      let cc ← FCond.ofCode (bits s 0 3)
      some (.fcmp p a b cc (bit s 5) k)) w0 w1 lit
  | 0x27 => decFuna w0 lit
  | 0x28 => chk (zB w0 && zC w1 && zImm w1 && bits s 3 3 == 0) do
      let d ← dstRn (fD w0)
      let a ← srcA w0 lit
      let fn ← SpecFn.ofCode (bits s 0 3)
      let rm ← Rm.ofCode (bits s 6 2)
      chk (fn == .sqrt || rm == .fpcr) (some (.fspec d a fn rm (BitVec.ofNat 4 (fLh w1))))
  | 0x29 => chk (zC w1 && zImm w1 && bits s 0 6 == 0) do
      let d ← dstRn (fD w0)
      let a ← srcA w0 lit
      let b ← srcB w0 lit
      let rm ← Rm.ofCode (bits s 6 2)
      some (.fdiv d a b rm (BitVec.ofNat 4 (fLh w1)))
  | 0x2A => decCvt w0 w1 lit
  | 0x2B => decXdab (fun d a b => chk (bits s 3 3 == 0) do
      let rm ← Rm.ofCode (bits s 6 2)
      some (.pkadd d a b (bit s 0) (BitVec.ofNat 2 (bits s 1 2)) rm)) w0 w1 lit
  | 0x2C => decXdab (fun d a b => chk (bits s 3 3 == 0) do
      let rm ← Rm.ofCode (bits s 6 2)
      some (.pkmul d a b (bit s 0) (BitVec.ofNat 2 (bits s 1 2)) rm)) w0 w1 lit
  | 0x2D => decXdabc (fun d a b c => chk (bits s 3 3 == 0) do
      let rm ← Rm.ofCode (bits s 6 2)
      some (.pkfma d a b c (bit s 0) (BitVec.ofNat 2 (bits s 1 2)) rm)) w0 w1 lit
  | 0x2E => decXdabc (fun d a b c => chk (bits s 2 4 == 0) do
      let rm ← Rm.ofCode (bits s 6 2)
      some (.fdot4 d a b c (bit s 0) (bit s 1) rm)) w0 w1 lit
  | 0x2F => decXdabc (fun d a b c => chk (bits s 0 6 == 0) do
      let rm ← Rm.ofCode (bits s 6 2)
      some (.fdot8 d a b c rm)) w0 w1 lit
  | 0x30 => decXdab (fun d a b => chk (bits s 2 4 == 0) do
      let rm ← Rm.ofCode (bits s 6 2)
      some (.mxscl d a b (BitVec.ofNat 2 (bits s 0 2)) rm)) w0 w1 lit
  | 0x31 => decXdab (fun d a b => chk (bits s 0 6 == 0) do
      let rm ← Rm.ofCode (bits s 6 2)
      some (.dadd d a b rm)) w0 w1 lit
  | 0x32 => decXdab (fun d a b => chk (bits s 0 6 == 0) do
      let rm ← Rm.ofCode (bits s 6 2)
      some (.dmul d a b rm)) w0 w1 lit
  | 0x33 => decXdabc (fun d a b c => chk (bits s 2 4 == 0) do
      let rm ← Rm.ofCode (bits s 6 2)
      some (.dfma d a b c (bit s 0) (bit s 1) rm)) w0 w1 lit
  | 0x34 => decCmp (bits s 3 2) (fun p a b k => chk (s < 64) do
      let cc ← FCond.ofCode (bits s 0 3)
      some (.dcmp p a b cc (bit s 5) k)) w0 w1 lit
  | 0x35 => decXdab (fun d a b => chk (s < 2) (some (if bit s 0 then .dmax d a b else .dmin d a b))) w0 w1 lit
  | _ => none

/-- A predicate named by C when a SUB8 bit asks for it, else C zero (R78). -/
def optPred (on : Bool) (c : Nat) : Option (Option Nat) :=
  if on then (predF c).map some else chk (c == 0) (some none)

/-- Opcodes 0x40 to 0x48 (R78). -/
def decGroup2 (w0 w1 lit : Nat) : Option Instr :=
  let s := fSub w1
  match fOp w0 with
  | 0x40 => chk (zB w0 && zC w1 && zLh w1 && zImm w1 && s < 64) do
      let d ← dstRn (fD w0)
      let a ← srcA w0 lit
      let bnd ← Bnd.ofCode (bits s 1 2)
      if bits s 3 3 = 6 then some (.nbrChain d a (bit s 0) bnd)
      else do
        let w ← SubW.ofCode (bits s 3 3)
        some (.nbr d a (bit s 0) bnd w)
  | 0x41 => chk (zCb w1 && zLh w1 && s < 128) do
      let d ← dstRn (fD w0)
      let a ← srcA w0 lit
      let m ← ShMode.ofCode (bits s 0 2)
      let w ← SubW.ofCode (bits s 2 3)
      let pc ← optPred (bit s 5) (fC w1)
      let idx ← if bit s 6 then
          chk (zB w0 && bits w1 7 4 == 0 && (m == .slide || !bit w1 6)) (some (.imm (BitVec.ofNat 7 (bits w1 0 7))))
        else chk (zImm w1) ((srcB w0 lit).map ShIdx.reg)
      some (.shfl d a idx m w pc)
  | 0x42 => chk (!fLA w0 && !fKA w0 && zB w0 && zC w1 && zLh w1 && zImm w1 && s < 32) do
      let pd ← predF (fD w0)
      let pa ← predF (fA w0)
      let m ← JoinMode.ofCode (bits s 0 2)
      let w ← SubW.ofCode (bits s 2 3)
      some (.pjoin pd pa m w)
  | 0x43 => chk (!fLA w0 && !fKA w0 && zUb w0) do
      let d ← dstRn (fD w0)
      let p ← predF (fA w0)
      match fB w0 with
      | 0 => some (.lmaskLo d p)
      | 1 => some (.lmaskHi d p)
      | 2 => some (.lmask64 d p)
      | _ => none
  | 0x44 => chk (zB w0 && zC w1 && zLh w1 && zImm w1) do
      let d ← dstRn (fD w0)
      let a ← srcA w0 lit
      let op ← RedOp.ofCode (bits s 0 4)
      let w ← SubW.ofCode (bits s 5 3)
      some (.accum d a op (bit s 4) w)
  | 0x45 => chk (zB w0 && zC w1 && zLh w1 && zImm w1 && !bit s 4) do
      let d ← dstRn (fD w0)
      let a ← srcA w0 lit
      let op ← RedOp.ofCode (bits s 0 4)
      let w ← SubW.ofCode (bits s 5 3)
      some (.fold d a op w)
  | 0x46 => chk (zB w0 && zCb w1 && zLh w1 && zImm w1 && s < 128) do
      let d ← dstRn (fD w0)
      let a ← srcA w0 lit
      let w ← SubW.ofCode (bits s 1 3)
      let pc ← optPred (bit s 4) (fC w1)
      let form ← MatchForm.ofCode (bits s 5 2)
      some (.matchv d a (bit s 0) w pc form)
  | 0x47 => chk (zUA w0) do
      let p ← predF (fD w0)
      match fB w0 with
      | 0 => some (.lead p)
      | 1 => some (.leadLast p)
      | _ => none
  | 0x48 => chk (!fLA w0 && !fKA w0 && zB w0 && zC w1 && zLh w1 && zImm w1 && s < 16) do
      let d ← dstRn (fD w0)
      let p ← predF (fA w0)
      let w ← SubW.ofCode (bits s 0 3)
      some (.prank d p w (bit s 3))
  | _ => none

/-- M format loads: T a destination (R79). -/
def decLd (mk : Rn → Rn → BitVec 7 → BitVec 4 → Instr) (w0 lit : Nat) : Option Instr := do
  let t ← dstRn (fD w0)
  let a ← srcRn (fA w0) lit
  some (mk t a (BitVec.ofNat 7 (fB w0)) (BitVec.ofNat 4 (bits w0 0 4)))

/-- M format stores: T a source (R79). -/
def decSt (mk : Rn → Rn → BitVec 7 → BitVec 4 → Instr) (w0 lit : Nat) : Option Instr := do
  let t ← srcRn (fD w0) lit
  let a ← srcRn (fA w0) lit
  some (mk t a (BitVec.ofNat 7 (fB w0)) (BitVec.ofNat 4 (bits w0 0 4)))

/-- ATOM's operation: 8 is EXCH, 9 CAS, the rest as RED (R79). -/
def decAtomOp (code w1 lit : Nat) : Option AtomOp :=
  if code = 9 then (srcC w1 lit).map .cas
  else chk (zC w1)
    (match code with
    | 0 => some .add
    | 1 => some .and
    | 2 => some .or
    | 3 => some .xor
    | 4 => some .minI
    | 5 => some .minN
    | 6 => some .maxI
    | 7 => some .maxN
    | 8 => some .exch
    | 10 => some .faddF32
    | _ => none)

/-- Opcodes 0x50 to 0x5F (R79). -/
def decGroup3 (w0 w1 lit : Nat) : Option Instr :=
  let s := fSub w1
  match fOp w0 with
  | 0x50 => decLd .ld1 w0 lit
  | 0x51 => decLd .ld2 w0 lit
  | 0x52 => decLd .ld4 w0 lit
  | 0x53 => decLd .ld8 w0 lit
  | 0x54 => decLd .ld16 w0 lit
  | 0x55 => decSt .st1 w0 lit
  | 0x56 => decSt .st2 w0 lit
  | 0x57 => decSt .st4 w0 lit
  | 0x58 => decSt .st8 w0 lit
  | 0x59 => decSt .st16 w0 lit
  | 0x5A => chk (s < 32) do
      let d ← dstRn (fD w0)
      let a ← srcA w0 lit
      let b ← srcB w0 lit
      let op ← decAtomOp (bits s 0 4) w1 lit
      chk (!(op == .faddF32 && bit s 4))
        (some (.atom d a b op (bit s 4) (BitVec.ofNat 4 (fLh w1)) (BitVec.ofNat 11 (fImm w1))))
  | 0x5B => chk (zD w0 && zC w1 && zLh w1 && s < 32) do
      let a ← srcA w0 lit
      let b ← srcB w0 lit
      let op ← RedMem.ofCode (bits s 0 4)
      chk (!(op == .faddF32 && bit s 4)) (some (.red a b op (bit s 4) (BitVec.ofNat 11 (fImm w1))))
  | 0x5C => chk (zD w0 && zC w1 && bits w1 8 3 == 0) do
      let a ← srcA w0 lit
      let b ← srcB w0 lit
      let size ← CpySize.ofCode (bits s 0 2)
      let rd ← CpyRed.ofCode (bits s 5 3)
      let dsp ← Space.ofCode (bits w1 0 3)
      let ssp ← Space.ofCode (bits w1 3 3)
      let ty ← RedTy.ofCode (bits w1 6 2)
      chk (!((rd == .and || rd == .or) && ty == .f32))
        (some (.cpy a b size (BitVec.ofNat 3 (bits s 2 3)) rd ty dsp ssp (BitVec.ofNat 4 (fLh w1))))
  | 0x5D => chk (zUA w0 && fB w0 < 8) ((dstRn (fD w0)).map fun d => .ldwp d (BitVec.ofNat 3 (fB w0)))
  | 0x5E => chk (zD w0 && zA w0 && zB w0 && zC w1 && zLh w1 && s < 16) do
      let sc ← Scope.ofCode (bits s 2 2)
      match bits s 0 2 with
      | 0 => chk (zImm w1) (some (.fenceAcq sc))
      | 1 => chk (zImm w1) (some (.fenceRel sc))
      | 2 => chk (zImm w1) (some (.fenceAcqrel sc))
      | _ => chk (bits w1 6 5 == 0) do
          let w ← Cls.ofCode (bits w1 0 3)
          let r ← Cls.ofCode (bits w1 3 3)
          some (.fenceX sc w r)
  | 0x5F => chk (zD w0 && zUA w0)
      (match fB w0 with
      | 0 => some .phaseCommit
      | 1 => some .phaseAdvance
      | _ => none)
  | _ => none

/-- The slice index of TWR and TRD: register B, or the value of C (R80). -/
def decSlice (w0 w1 lit : Nat) : Option SliceIdx :=
  if bit (fSub w1) 1 then chk (zC w1) ((srcB w0 lit).map .reg)
  else chk (zB w0 && zCb w1 && fC w1 < 64) (some (.imm (BitVec.ofNat 6 (fC w1))))

/-- Opcodes 0x60 to 0x67 (R80). -/
def decGroup4 (w0 w1 lit : Nat) : Option Instr :=
  let s := fSub w1
  let tile := BitVec.ofNat 8 (bits w1 0 8)
  match fOp w0 with
  | 0x60 => chk (bits w0 0 25 == 0 && zCb w1 && zLh w1 && fC w1 < 64 && bits w1 8 3 == 0) do
      let ty ← TileTy.ofCode (bits s 0 2)
      some (.tcfg tile ty (BitVec.ofNat 6 (fC w1)) (BitVec.ofNat 6 (bits s 2 6)))
  | 0x61 => chk (zUA w0 && fB w0 < 2) (some (.tzero (BitVec.ofNat 8 (fD w0 + 128 * fB w0))))
  | 0x62 => chk (zD w0 && zLh w1 && s < 4 && bits w1 8 3 == 0) do
      let a ← srcA w0 lit
      let idx ← decSlice w0 w1 lit
      some (.twr tile a (bit s 0) idx)
  | 0x63 => chk (zA w0 && zLh w1 && s < 4 && bits w1 8 3 == 0) do
      let d ← dstRn (fD w0)
      let idx ← decSlice w0 w1 lit
      some (.trd d tile (bit s 0) idx)
  | 0x64 => chk (zD w0 && zC w1 && s < 2 && bits w1 8 3 == 0) do
      let a ← srcA w0 lit
      let b ← srcB w0 lit
      some (.tld tile a b (bit s 0) (BitVec.ofNat 4 (fLh w1)))
  | 0x65 => chk (zD w0 && zC w1 && s < 2 && bits w1 8 3 == 0) do
      let a ← srcA w0 lit
      let b ← srcB w0 lit
      some (.tst tile a b (bit s 0) (BitVec.ofNat 4 (fLh w1)))
  | 0x66 => chk (zUA w0 && fB w0 < 2) (some (.trel (BitVec.ofNat 8 (fD w0 + 128 * fB w0))))
  | 0x67 => chk (!fLA w0 && !fKA w0 && zUb w0 && fB w0 < 2)
      ((dstRn (fD w0)).map fun d => .tstat d (BitVec.ofNat 8 (fA w0 + 128 * fB w0)))
  | _ => none

/-- X format with A alone; D, B, C, LH and IMM11 zero (R81). -/
def decXa (mk : Src → Option Instr) (w0 w1 lit : Nat) : Option Instr :=
  chk (zD w0 && zB w0 && zC w1 && zLh w1 && zImm w1) do
    let a ← srcA w0 lit
    mk a

/-- A is `zr` where an action reads nothing from it (R272, R305); its bits are ignored (R54). -/
def isZr (a : Src) : Bool := a.r == .zr

/-- Opcodes 0x68 to 0x77 (R81). -/
def decGroup5 (w0 w1 lit : Nat) : Option Instr :=
  let s := fSub w1
  let tile := BitVec.ofNat 8 (bits w1 0 8)
  match fOp w0 with
  | 0x68 => chk (zD w0 && zLh w1 && s < 16 && bits w1 8 3 == 0) do
      let a ← srcA w0 lit
      let b ← srcB w0 lit
      let c ← srcC w1 lit
      let ty ← MmaTy.ofCode (bits s 0 3)
      some (.mma tile a b c ty (bit s 3))
  | 0x69 => chk (zD w0 && zLh w1 && s < 16 && bits w1 8 3 == 0) do
      let a ← srcA w0 lit
      let b ← srcB w0 lit
      let c ← srcC w1 lit
      let ty ← MmabTy.ofCode (bits s 0 3)
      some (.mmab tile a b c ty (bit s 3))
  | 0x6A => chk (zD w0 && zC w1 && zLh w1 && s < 2 && bits w1 8 3 == 0) do
      let a ← srcA w0 lit
      let b ← srcB w0 lit
      chk (bit s 0 || isZr b) (some (.tdrain tile a b (bit s 0)))
  | 0x6B => decXa (fun a => chk (s < 4) (some (.pushq (BitVec.ofNat 2 s) a))) w0 w1 lit
  | 0x6C => chk (zA w0 && zB w0 && zC w1 && zLh w1 && zImm w1 && s < 4)
      ((dstRn (fD w0)).map fun d => .popq d (BitVec.ofNat 2 s))
  | 0x6D => decXa (fun a => chk (s < 8) (some (.loopa a (BitVec.ofNat 3 s)))) w0 w1 lit
  | 0x6E => decXa (fun a => chk (s < 32)
      (match bits s 3 2 with
      | 0 => some (.cbarArrive (BitVec.ofNat 3 (bits s 0 3)) a)
      | 1 => chk (isZr a) (some (.cbarWait (BitVec.ofNat 3 (bits s 0 3)) a.lu a.kp))
      | 2 => some (.cbarSync (BitVec.ofNat 3 (bits s 0 3)) a)
      | _ => none)) w0 w1 lit
  | 0x6F => decXa (fun a => chk (s < 64)
      (match bits s 4 2 with
      | 0 => some (.tbarArrive (BitVec.ofNat 4 (bits s 0 4)) a)
      | 1 => chk (isZr a) (some (.tbarWait (BitVec.ofNat 4 (bits s 0 4)) a.lu a.kp))
      | 2 => some (.tbarSync (BitVec.ofNat 4 (bits s 0 4)) a)
      | _ => none)) w0 w1 lit
  | 0x70 => decXa (fun a => chk (s < 16) (some (.gbind (BitVec.ofNat 3 (bits s 0 3)) a (bit s 3)))) w0 w1 lit
  | 0x71 => chk (zUA w0 && fB w0 < 8) ((dstRn (fD w0)).map fun d => .gstat d (BitVec.ofNat 3 (fB w0)))
  | 0x72 => decXa (fun a => chk (s < 2) (some (.merge a (bit s 0)))) w0 w1 lit
  | 0x73 => decXa (fun a => chk (s == 0) (some (.contract a))) w0 w1 lit
  | 0x74 => chk (zD w0 && zC w1 && zLh w1 && zImm w1 && s < 8) do
      let a ← srcA w0 lit
      let b ← srcB w0 lit
      some (.kst (BitVec.ofNat 3 s) a b)
  | 0x75 => chk (zCb w1 && zLh w1 && s < 32 && !zImm w1) do
      let d ← dstRn (fD w0)
      let a ← srcA w0 lit
      let b ← srcB w0 lit
      let fb ← if bit s 3 then chk (fC w1 == 0) (some Fallback.trap) else (predF (fC w1)).map Fallback.pred
      some (.kgather d a b (BitVec.ofNat 3 (bits s 0 3)) fb (bit s 4) (BitVec.ofNat 11 (fImm w1)))
  | 0x76 => decXa (fun a => chk (s < 16)
      (if bit s 3 then chk (isZr a) (some (.kregUnbind (BitVec.ofNat 3 (bits s 0 3)) a.lu a.kp))
      else some (.kreg (BitVec.ofNat 3 (bits s 0 3)) a))) w0 w1 lit
  | 0x77 => decXa (fun a => chk (s == 0) (some (.launch a))) w0 w1 lit
  | _ => none

/-- AWAIT (R113). -/
def decAwait (w0 w1 lit : Nat) : Option Instr :=
  let s := fSub w1
  let tl := bit s 3
  chk (zD w0 && zC w1 && zLh w1 && s < 128)
    (match bits s 0 3 with
    | 1 => chk (zA w0 && zB w0 && bits s 4 3 == 0 && bits w1 8 3 == 0)
        (some (.awaitTok (BitVec.ofNat 8 (bits w1 0 8)) tl))
    | 2 => chk (bits w1 1 10 == 0) do
        let a ← srcA w0 lit
        let b ← srcB w0 lit
        let cc ← ICond.ofCode (bits s 4 3)
        some (.awaitWord a b cc (bit w1 0) tl)
    | 3 => chk (bits s 4 3 == 0 && zImm w1) do
        let a ← srcA w0 lit
        let b ← srcB w0 lit
        some (.awaitCtr a b tl)
    | 4 => chk (bits s 4 3 == 0 && bits w1 4 7 == 0) do
        let a ← srcA w0 lit
        let b ← srcB w0 lit
        some (.awaitPhase a b (BitVec.ofNat 4 (bits w1 0 4)) tl)
    | 5 => chk (zA w0 && zB w0 && bits s 4 3 == 0 && bits w1 4 7 == 0)
        (some (.awaitTbar (BitVec.ofNat 4 (bits w1 0 4)) tl))
    | 6 => chk (zA w0 && zB w0 && bits s 4 3 == 0 && bits w1 3 8 == 0)
        (some (.awaitCbar (BitVec.ofNat 3 (bits w1 0 3)) tl))
    | _ => none)

/-- CTL (R118). -/
def decCtl (w0 w1 lit : Nat) : Option Instr :=
  let s := fSub w1
  let tl := bit s 7
  chk (zC w1 && zLh w1 && bits s 4 3 == 0)
    (match bits s 0 4 with
    | 0 => chk (zD w0 && zA w0 && zB w0 && !tl && fImm w1 < 10) (some (.win (fImm w1)))
    | 1 => chk (zD w0 && zA w0 && zB w0 && !tl && zImm w1) (some .exit)
    | 2 => chk (zD w0 && zA w0 && zB w0 && zImm w1) (some (.yield tl))
    | 3 => chk (zD w0 && zB w0 && zImm w1) ((srcA w0 lit).map fun a => .fwd a tl)
    | 4 => chk (zD w0 && zA w0 && zB w0 && !tl && zImm w1) (some .preoff)
    | 5 => chk (zD w0 && zA w0 && zB w0 && !tl && zImm w1) (some .preon)
    | 6 => chk (zA w0 && zB w0 && !tl && zImm w1) ((dstRn (fD w0)).map .vdid)
    | 7 => chk (!tl && zImm w1) do
        let d ← dstRn (fD w0)
        let a ← srcA w0 lit
        let b ← srcB w0 lit
        some (.vdhops d a b)
    | 8 => chk (zA w0 && zB w0 && !tl && zImm w1) ((dstRn (fD w0)).map .cyc)
    | _ => none)

/-- TRAPS (R183). -/
def decTraps (w0 lit : Nat) : Option Instr :=
  chk (zUb w0)
    (match fB w0 with
    | 0 => chk (zA w0) (some (.trap (BitVec.ofNat 7 (fD w0))))
    | 1 => chk (zD w0 && zA w0) (some .bkpt)
    | 2 => chk (zD w0 && zA w0) (some .rte)
    | 3 => chk (zA w0 && fD w0 < 5) (some (.emret (fD w0)))
    | 4 => do
        let d ← dstRn (fD w0)
        let a ← srcA w0 lit
        some (.rpqr d a)
    | 5 => do
        let d ← srcRn (fD w0) lit
        let a ← srcA w0 lit
        some (.rpqw d a)
    | 6 => chk (zD w0) ((srcA w0 lit).map .tmask)
    | 7 => chk (!fLA w0 && !fKA w0 && fA w0 < 16) ((dstRn (fD w0)).map fun d => .hmovf d (fA w0))
    | 8 => chk (fD w0 < 16) ((srcA w0 lit).map fun a => .hmovt (fD w0) a)
    | _ => none)

/-- Prefix words (R67 to R70). -/
def decPrefix (w : Nat) : Option Instr :=
  match bits w 23 2 with
  | 0 => chk (bits w 0 13 == 0)
      ((predF (bits w 17 6)).map fun p => .grd p (bit w 16) (BitVec.ofNat 3 (bits w 13 3)))
  | 1 => chk (bits w 0 15 == 0) (some (.kw (BitVec.ofNat 8 (bits w 15 8))))
  | 2 => do
      let o ← Order.ofCode (bits w 21 2)
      let sc ← Scope.ofCode (bits w 19 2)
      let sp ← Space.ofCode (bits w 16 3)
      some (.mem ⟨o, sc, sp, BitVec.ofNat 2 (bits w 14 2), BitVec.ofNat 8 (bits w 6 8), bit w 5, bit w 4,
        BitVec.ofNat 4 (bits w 0 4)⟩)
  | _ => none

/-- Opcodes 0x78 to 0x7F (R82). -/
def decGroup6 (w0 w1 lit : Nat) : Option Instr :=
  match fOp w0 with
  | 0x78 => some (.bra (BitVec.ofNat 25 (bits w0 0 25)))
  | 0x79 => some (.call (BitVec.ofNat 25 (bits w0 0 25)))
  | 0x7A => chk (zD w0 && zUb w0) do
      let a ← srcA w0 lit
      match fB w0 with
      | 0 => some (.jmp a)
      | 1 => some (.calli a)
      | 2 => some (.ret a)
      | _ => none
  | 0x7B => decAwait w0 w1 lit
  | 0x7C => decCtl w0 w1 lit
  | 0x7D => chk (!fKB w0 && fB w0 < 0x26)
      (if fLB w0 then chk (zD w0) ((srcA w0 lit).map fun a => .srw (fB w0) a)
      else chk (zA w0) ((dstRn (fD w0)).map fun d => .srr d (fB w0)))
  | 0x7E => decTraps w0 lit
  | 0x7F => decPrefix w0
  | _ => none

/-- The instruction of word 0, word 1 and the literal word; none where the encoding is undefined (R84). -/
def decodeOne (w0 w1 lit : Nat) : Option Instr :=
  let op := fOp w0
  if op < 0x20 then decGroup0 w0 w1 lit
  else if op < 0x36 then decGroup1 w0 w1 lit
  else if op < 0x40 then none
  else if op < 0x49 then decGroup2 w0 w1 lit
  else if op < 0x50 then none
  else if op < 0x60 then decGroup3 w0 w1 lit
  else if op < 0x68 then decGroup4 w0 w1 lit
  else if op < 0x78 then decGroup5 w0 w1 lit
  else decGroup6 w0 w1 lit

/-! ## Issues (R48, R67, R71) -/

/-- The words of one issue, taken apart as R191 counts them. -/
structure RawIssue where
  pfx : List Nat
  w0 : Nat
  w1 : Option Nat
  lit : Option Nat
deriving DecidableEq, Repr, Inhabited

/-- The number of words of an issue. -/
def RawIssue.len (r : RawIssue) : Nat :=
  r.pfx.length + 1 + (if r.w1.isSome then 1 else 0) + (if r.lit.isSome then 1 else 0)

/-- Word 0, word 1 and the literal at the head of a list; none when more words are needed. -/
def splitCore : List Nat → Option (Nat × Option Nat × Option Nat)
  | [] => none
  | w0 :: rest =>
    if isX (fOp w0) then
      match rest with
      | [] => none
      | w1 :: rest' =>
        if needLit w0 w1 then
          match rest' with
          | [] => none
          | l :: _ => some (w0, some w1, some l)
        else some (w0, some w1, none)
    else if needLit w0 0 then
      match rest with
      | [] => none
      | l :: _ => some (w0, none, some l)
    else some (w0, none, none)

/-- The issue at the head of a list of words; none when more words are needed. Every leading word with OP 0x7F counts
as a prefix word (R191). -/
def splitIssue (pfx : List Nat) : List Nat → Option RawIssue
  | [] => none
  | w :: rest =>
    if fOp w = 0x7F then splitIssue (pfx ++ [w]) rest
    else (splitCore (w :: rest)).map fun (w0, w1, lit) => ⟨pfx, w0, w1, lit⟩

/-- The first prefix word that breaks R67, scanning with what has been seen: 0 nothing, 1 a GRD, 2 a KW or MEM. -/
def firstBreak : Nat → List Nat → Option Nat
  | _, [] => none
  | seen, w :: ws =>
    match bits w 23 2 with
    | 0 => if seen = 0 then firstBreak 1 ws else some w
    | 3 => some w
    | _ => if seen < 2 then firstBreak 2 ws else some w

/-- The guard word of a valid arrangement. -/
def grdWord (pfx : List Nat) : Option Nat := pfx.find? fun w => bits w 23 2 == 0

/-- The KW or MEM word of a valid arrangement. -/
def pfxWord (pfx : List Nat) : Option Nat := pfx.find? fun w => bits w 23 2 != 0

/-- The opcodes that MEM may precede (R71). -/
def memOk (op : Nat) : Bool :=
  (0x50 ≤ op && op ≤ 0x5C) || op == 0x5F || op == 0x64 || op == 0x65 || op == 0x74 || op == 0x75

/-- May a KW or MEM word precede this opcode? AWAIT takes neither (R71, R113). -/
def pfxOk (op : Nat) : Option Instr → Bool
  | some (.mem _) => memOk op
  | some _ => op != 0x7B
  | none => true

/-- A prefix word that is absent, or present and defined. -/
def decPfxOpt : Option Nat → Option (Option Instr)
  | none => some none
  | some w => (decPrefix w).map some

/-- The KW or MEM word, word 0, word 1 and the literal of an issue or of a replay entry (R186, R188). -/
def decodeParts (pre : Option Nat) (w0 : Nat) (w1 lit : Option Nat) : Option (Option Instr × Instr) := do
  let p ← decPfxOpt pre
  let i ← decodeOne w0 (w1.getD 0) (lit.getD 0)
  chk (pfxOk (fOp w0) p) (some (p, i))

/-- A decoded issue: its guard, its KW or MEM prefix and its instruction. -/
structure Decoded where
  grd : Option Instr
  pre : Option Instr
  instr : Instr
deriving DecidableEq, Repr, Inhabited

/-- The issue that raw words stand for; none where it is undefined (R84). -/
def RawIssue.decode (r : RawIssue) : Option Decoded :=
  if (firstBreak 0 r.pfx).isSome then none
  else do
    let g ← decPfxOpt (grdWord r.pfx)
    let (p, i) ← decodeParts (pfxWord r.pfx) r.w0 r.w1 r.lit
    some ⟨g, p, i⟩

/-- The instruction that a whole list of words encodes: a lone prefix word, or word 0 with the words it needs. -/
def decodeWords : List Nat → Option Instr
  | [] => none
  | w :: rest =>
    if fOp w = 0x7F then chk rest.isEmpty (decPrefix w)
    else
      match splitCore (w :: rest) with
      | none => none
      | some (w0, w1, lit) =>
        chk (1 + (if w1.isSome then 1 else 0) + (if lit.isSome then 1 else 0) == (w :: rest).length)
          (decodeOne w0 (w1.getD 0) (lit.getD 0))

/-- The instruction of an encoding whose bits are `w`, bit 0 the least significant of the first word; the words above
`nbits` are zero. A P-format word decodes to the prefix itself. -/
def decodeTableWord (nbits w : Nat) : Option Instr :=
  let v := w % 2 ^ nbits
  let w0 := v % 2 ^ 32
  let w1 := v / 2 ^ 32 % 2 ^ 32
  let w2 := v / 2 ^ 64 % 2 ^ 32
  if isX (fOp w0) then decodeOne w0 w1 w2 else decodeOne w0 0 w1

/-! ## The encoder -/

/-- The field value of a register name (R53). -/
def Rn.code : Rn → Nat
  | .win n => n
  | .sc n => 112 + n
  | .zr => 124
  | .lid => 125
  | .lit _ => 126

/-- One bit. -/
def b1 (b : Bool) : Nat := if b then 1 else 0

/-- Word 0 of the R, U and X formats. -/
def word0 (op d a b : Nat) (la lb ka kb : Bool) : Nat :=
  op * 2 ^ 25 + d * 2 ^ 18 + a * 2 ^ 11 + b * 2 ^ 4 + b1 la * 8 + b1 lb * 4 + b1 ka * 2 + b1 kb

/-- Word 1 of the X format. -/
def word1 (c sub : Nat) (lc kc : Bool) (lh imm : Nat) : Nat :=
  c * 2 ^ 25 + sub * 2 ^ 17 + b1 lc * 2 ^ 16 + b1 kc * 2 ^ 15 + lh * 2 ^ 11 + imm

/-- The literal word an issue ends with, if one of its register fields is the literal. -/
def litWords : List Rn → List Nat
  | [] => []
  | r :: rs =>
    match r.lit? with
    | some w => [w.toNat]
    | none => litWords rs

def encRrr (op : Nat) (d : Rn) (a b : Src) : List Nat :=
  word0 op d.code a.r.code b.r.code a.lu b.lu a.kp b.kp :: litWords [a.r, b.r]
def encUda (op sub : Nat) (d : Rn) (a : Src) : List Nat :=
  word0 op d.code a.r.code sub a.lu false a.kp false :: litWords [a.r]
def encU (op d a sub : Nat) : List Nat := [word0 op d a sub false false false false]
def encUa (op sub d : Nat) (a : Src) : List Nat :=
  word0 op d a.r.code sub a.lu false a.kp false :: litWords [a.r]
def encXda (op d : Nat) (a : Src) (c sub lh imm : Nat) : List Nat :=
  [word0 op d a.r.code 0 a.lu false a.kp false, word1 c sub false false lh imm] ++ litWords [a.r]
def encXdab (op d : Nat) (a b : Src) (c sub lh imm : Nat) : List Nat :=
  [word0 op d a.r.code b.r.code a.lu b.lu a.kp b.kp, word1 c sub false false lh imm] ++ litWords [a.r, b.r]
def encXdabc (op d : Nat) (a b c : Src) (sub lh imm : Nat) : List Nat :=
  [word0 op d a.r.code b.r.code a.lu b.lu a.kp b.kp, word1 c.r.code sub c.lu c.kp lh imm] ++
    litWords [a.r, b.r, c.r]
def encX0 (op d sub imm : Nat) : List Nat := [word0 op d 0 0 false false false false, word1 0 sub false false 0 imm]
def encMld (op : Nat) (t a : Rn) (off : BitVec 7) (lh : BitVec 4) : List Nat :=
  (op * 2 ^ 25 + t.code * 2 ^ 18 + a.code * 2 ^ 11 + off.toNat * 2 ^ 4 + lh.toNat) :: litWords [t, a]

/-- A position and length, or a register C that gives them. -/
def encPosLen (op d : Nat) (a b : Src) (s : Nat) : PosLen → List Nat
  | .reg c => encXdabc op d a b c (s + 2) 0 0
  | .imm p l => encXdab op d a b 0 s 0 (l.toNat * 2 ^ 5 + p.toNat)

/-- A source field that is absent: all zero. -/
def noSrc : Src := ⟨.win 0, false, false⟩

/-- ATOM's code (R79). -/
def AtomOp.code : AtomOp → Nat
  | .add => 0 | .and => 1 | .or => 2 | .xor => 3 | .minI => 4 | .minN => 5 | .maxI => 6 | .maxN => 7 | .exch => 8
  | .cas _ => 9 | .faddF32 => 10

/-- SUB8 of a comparison on bits 2 to 0, with its two flags and COMB. -/
def cmpSub (cc : Nat) (f g : Nat) : Nat := cc + f + g

/-- The words of a well-formed instruction; a device step has none. -/
def encode : Instr → List Nat
  | .nop => [0]
  | .mov d a => word0 0x01 d.code a.r.code 0 a.lu false a.kp false :: litWords [a.r]
  | .movi d imm => [0x02 * 2 ^ 25 + d.code * 2 ^ 18 + imm.toNat]
  | .sel d a b p w64 => encXdab 0x03 d.code a b p (b1 w64) 0 0
  | .iadd d a b => encRrr 0x04 d a b
  | .isub d a b => encRrr 0x05 d a b
  | .iaddi d a la imm => (0x06 * 2 ^ 25 + d.code * 2 ^ 18 + a.code * 2 ^ 11 + imm.toNat * 2 + b1 la) :: litWords [a]
  | .imul d a b => encRrr 0x07 d a b
  | .imulh d a b n => encXdab 0x08 d.code a b 0 (b1 n) 0 0
  | .imad d a b c => encXdabc 0x09 d.code a b c 0 0 0
  | .imadw d a b c n => encXdabc 0x0A d.code a b c (b1 n) 0 0
  | .idiv d a b rem n w64 lh => encXdab 0x0B d.code a b 0 (b1 rem + 2 * b1 n + 4 * b1 w64) lh.toNat 0
  | .imin d a b n w64 => encXdab 0x0C d.code a b 0 (2 * b1 n + 4 * b1 w64) 0 0
  | .imax d a b n w64 => encXdab 0x0C d.code a b 0 (1 + 2 * b1 n + 4 * b1 w64) 0 0
  | .abs d a => encUda 0x0D 0x00 d a
  | .neg d a => encUda 0x0D 0x01 d a
  | .popc d a => encUda 0x0D 0x02 d a
  | .clz d a => encUda 0x0D 0x03 d a
  | .ctz d a => encUda 0x0D 0x04 d a
  | .brev d a => encUda 0x0D 0x05 d a
  | .not d a => encUda 0x0D 0x06 d a
  | .sx8 d a => encUda 0x0D 0x08 d a
  | .sx16 d a => encUda 0x0D 0x09 d a
  | .zx8 d a => encUda 0x0D 0x0A d a
  | .zx16 d a => encUda 0x0D 0x0B d a
  | .sx32 d a => encUda 0x0D 0x0C d a
  | .abs64 d a => encUda 0x0D 0x10 d a
  | .neg64 d a => encUda 0x0D 0x11 d a
  | .popc64 d a => encUda 0x0D 0x12 d a
  | .clz64 d a => encUda 0x0D 0x13 d a
  | .ctz64 d a => encUda 0x0D 0x14 d a
  | .brev64 d a => encUda 0x0D 0x15 d a
  | .not64 d a => encUda 0x0D 0x16 d a
  | .icmp pd a b cc n w64 comb =>
    encXdab 0x0E pd a b comb.pred (cc.code + 8 * b1 n + 16 * b1 w64 + 32 * comb.code) 0 0
  | .iset d a b cc n w64 mask =>
    encXdab 0x0F d.code a b 0 (cc.code + 8 * b1 n + 16 * b1 w64 + 32 * b1 mask) 0 0
  | .and d a b => encRrr 0x10 d a b
  | .or d a b => encRrr 0x11 d a b
  | .xor d a b => encRrr 0x12 d a b
  | .andn d a b => encRrr 0x13 d a b
  | .lut3 d a b c tt => encXdabc 0x14 d.code a b c tt.toNat 0 0
  | .shl d a b => encRrr 0x15 d a b
  | .shr d a b => encRrr 0x16 d a b
  | .sar d a b => encRrr 0x17 d a b
  | .rot d a b => encRrr 0x18 d a b
  | .fsh d a b amt right clamp =>
    match amt with
    | .reg c => encXdabc 0x19 d.code a b c (b1 right + 4 * b1 clamp) 0 0
    | .imm n => encXdab 0x19 d.code a b 0 (b1 right + 2 + 4 * b1 clamp) 0 n.toNat
  | .bfx d a signed pl => encPosLen 0x1A d.code a noSrc (b1 signed) pl
  | .bfi d a b pl => encPosLen 0x1B d.code a b 0 pl
  | .lea d a b shift zx off => encXdab 0x1C d.code a b 0 (shift.toNat + 8 * b1 zx) 0 off.toNat
  | .idot4 d a b c na nb sat => encXdabc 0x1D d.code a b c (b1 na + 2 * b1 nb + 4 * b1 sat) 0 0
  | .plog pd pa pb pc tt =>
    [word0 0x1E pd pa pb false false false false, word1 pc tt.toNat false false 0 0]
  | .pmovGet0 d => encU 0x1F d.code 0 0
  | .pmovGet1 d => encU 0x1F d.code 0 1
  | .pmovSet0 a => encUa 0x1F 2 0 a
  | .pmovSet1 a => encUa 0x1F 3 0 a
  | .pmovPredToReg d p => encU 0x1F d.code p 4
  | .pmovRegToPred p a => encUa 0x1F 5 p a
  | .fadd d a b => encRrr 0x20 d a b
  | .fsub d a b => encRrr 0x21 d a b
  | .fmul d a b => encRrr 0x22 d a b
  | .ffma d a b c np nc rm => encXdabc 0x23 d.code a b c (b1 np + 2 * b1 nc + 64 * rm.code) 0 0
  | .fmin d a b => encRrr 0x24 d a b
  | .fmax d a b => encRrr 0x25 d a b
  | .fcmp pd a b cc sig comb =>
    encXdab 0x26 pd a b comb.pred (cc.code + 8 * comb.code + 32 * b1 sig) 0 0
  | .fabs d a => encUda 0x27 0 d a
  | .fneg d a => encUda 0x27 1 d a
  | .fsat d a => encUda 0x27 2 d a
  | .fclass d a => encUda 0x27 3 d a
  | .frintRne d a => encUda 0x27 4 d a
  | .frintRz d a => encUda 0x27 5 d a
  | .frintRd d a => encUda 0x27 6 d a
  | .frintRu d a => encUda 0x27 7 d a
  | .frint d a => encUda 0x27 8 d a
  | .fspec d a fn rm lh => encXda 0x28 d.code a 0 (fn.code + 64 * rm.code) lh.toNat 0
  | .fdiv d a b rm lh => encXdab 0x29 d.code a b 0 (64 * rm.code) lh.toNat 0
  | .cvt d a b dty sty nsat rm de se =>
    encXdab 0x2A d.code a b 0 (dty.code + 16 * b1 nsat + 64 * rm.code) 0
      (sty.code + de.toNat * 2 ^ 4 + se.toNat * 2 ^ 7)
  | .pkadd d a b bf sel rm => encXdab 0x2B d.code a b 0 (b1 bf + 2 * sel.toNat + 64 * rm.code) 0 0
  | .pkmul d a b bf sel rm => encXdab 0x2C d.code a b 0 (b1 bf + 2 * sel.toNat + 64 * rm.code) 0 0
  | .pkfma d a b c bf sel rm => encXdabc 0x2D d.code a b c (b1 bf + 2 * sel.toNat + 64 * rm.code) 0 0
  | .fdot4 d a b c aE5 bE5 rm => encXdabc 0x2E d.code a b c (b1 aE5 + 2 * b1 bE5 + 64 * rm.code) 0 0
  | .fdot8 d a b c rm => encXdabc 0x2F d.code a b c (64 * rm.code) 0 0
  | .mxscl d a b sel rm => encXdab 0x30 d.code a b 0 (sel.toNat + 64 * rm.code) 0 0
  | .dadd d a b rm => encXdab 0x31 d.code a b 0 (64 * rm.code) 0 0
  | .dmul d a b rm => encXdab 0x32 d.code a b 0 (64 * rm.code) 0 0
  | .dfma d a b c np nc rm => encXdabc 0x33 d.code a b c (b1 np + 2 * b1 nc + 64 * rm.code) 0 0
  | .dcmp pd a b cc sig comb =>
    encXdab 0x34 pd a b comb.pred (cc.code + 8 * comb.code + 32 * b1 sig) 0 0
  | .dmin d a b => encXdab 0x35 d.code a b 0 0 0 0
  | .dmax d a b => encXdab 0x35 d.code a b 0 1 0 0
  | .nbr d a right bnd w => encXda 0x40 d.code a 0 (b1 right + 2 * bnd.code + 8 * w.code) 0 0
  | .nbrChain d a right bnd => encXda 0x40 d.code a 0 (b1 right + 2 * bnd.code + 8 * 6) 0 0
  | .shfl d a idx mode w pc =>
    let s := mode.code + 4 * w.code + 32 * b1 pc.isSome
    match idx with
    | .reg b => encXdab 0x41 d.code a b (pc.getD 0) s 0 0
    | .imm n => encXda 0x41 d.code a (pc.getD 0) (s + 64) 0 n.toNat
  | .pjoin pd pa mode w =>
    [word0 0x42 pd pa 0 false false false false, word1 0 (mode.code + 4 * w.code) false false 0 0]
  | .lmaskLo d p => encU 0x43 d.code p 0
  | .lmaskHi d p => encU 0x43 d.code p 1
  | .lmask64 d p => encU 0x43 d.code p 2
  | .accum d a op excl w => encXda 0x44 d.code a 0 (op.code + 16 * b1 excl + 32 * w.code) 0 0
  | .fold d a op w => encXda 0x45 d.code a 0 (op.code + 32 * w.code) 0 0
  | .matchv d a w64 w pc form =>
    encXda 0x46 d.code a (pc.getD 0) (b1 w64 + 2 * w.code + 16 * b1 pc.isSome + 32 * form.code) 0 0
  | .lead pd => encU 0x47 pd 0 0
  | .leadLast pd => encU 0x47 pd 0 1
  | .prank d p w incl =>
    [word0 0x48 d.code p 0 false false false false, word1 0 (w.code + 8 * b1 incl) false false 0 0]
  | .ld1 t a off lh => encMld 0x50 t a off lh
  | .ld2 t a off lh => encMld 0x51 t a off lh
  | .ld4 t a off lh => encMld 0x52 t a off lh
  | .ld8 t a off lh => encMld 0x53 t a off lh
  | .ld16 t a off lh => encMld 0x54 t a off lh
  | .st1 t a off lh => encMld 0x55 t a off lh
  | .st2 t a off lh => encMld 0x56 t a off lh
  | .st4 t a off lh => encMld 0x57 t a off lh
  | .st8 t a off lh => encMld 0x58 t a off lh
  | .st16 t a off lh => encMld 0x59 t a off lh
  | .atom d a b op w64 lh off =>
    match op with
    | .cas c => encXdabc 0x5A d.code a b c (9 + 16 * b1 w64) lh.toNat off.toNat
    | o => encXdab 0x5A d.code a b 0 (o.code + 16 * b1 w64) lh.toNat off.toNat
  | .red a b op w64 off => encXdab 0x5B 0 a b 0 (op.code + 16 * b1 w64) 0 off.toNat
  | .cpy a b size tok rd ty dsp ssp lh =>
    encXdab 0x5C 0 a b 0 (size.code + 4 * tok.toNat + 32 * rd.code) lh.toNat
      (dsp.code + 8 * ssp.code + 64 * ty.code)
  | .ldwp d ch => encU 0x5D d.code 0 ch.toNat
  | .fenceAcq sc => encX0 0x5E 0 (4 * sc.code) 0
  | .fenceRel sc => encX0 0x5E 0 (1 + 4 * sc.code) 0
  | .fenceAcqrel sc => encX0 0x5E 0 (2 + 4 * sc.code) 0
  | .fenceX sc w r => encX0 0x5E 0 (3 + 4 * sc.code) (w.code + 8 * r.code)
  | .phaseCommit => encU 0x5F 0 0 0
  | .phaseAdvance => encU 0x5F 0 0 1
  | .tcfg tile ty rows cols =>
    [0x60 * 2 ^ 25, word1 rows.toNat (ty.code + 4 * cols.toNat) false false 0 tile.toNat]
  | .tzero tile => encU 0x61 (tile.toNat % 128) 0 (tile.toNat / 128)
  | .twr tile a col idx =>
    match idx with
    | .imm i => encXda 0x62 0 a i.toNat (b1 col) 0 tile.toNat
    | .reg b => encXdab 0x62 0 a b 0 (b1 col + 2) 0 tile.toNat
  | .trd d tile col idx =>
    match idx with
    | .imm i =>
      [word0 0x63 d.code 0 0 false false false false, word1 i.toNat (b1 col) false false 0 tile.toNat]
    | .reg b =>
      [word0 0x63 d.code 0 b.r.code false b.lu false b.kp, word1 0 (b1 col + 2) false false 0 tile.toNat] ++
        litWords [b.r]
  | .tld tile a b cm lh => encXdab 0x64 0 a b 0 (b1 cm) lh.toNat tile.toNat
  | .tst tile a b cm lh => encXdab 0x65 0 a b 0 (b1 cm) lh.toNat tile.toNat
  | .trel tile => encU 0x66 (tile.toNat % 128) 0 (tile.toNat / 128)
  | .tstat d tile => encU 0x67 d.code (tile.toNat % 128) (tile.toNat / 128)
  | .mma tile a b c ty acc => encXdabc 0x68 0 a b c (ty.code + 8 * b1 acc) 0 tile.toNat
  | .mmab tile a b c ty acc => encXdabc 0x69 0 a b c (ty.code + 8 * b1 acc) 0 tile.toNat
  | .tdrain tile a b seq => encXdab 0x6A 0 a b 0 (b1 seq) 0 tile.toNat
  | .pushq q a => encXda 0x6B 0 a 0 q.toNat 0 0
  | .popq d q => encX0 0x6C d.code q.toNat 0
  | .loopa a depth => encXda 0x6D 0 a 0 depth.toNat 0 0
  | .cbarArrive bar a => encXda 0x6E 0 a 0 bar.toNat 0 0
  | .cbarWait bar la ka => encXda 0x6E 0 ⟨.zr, la, ka⟩ 0 (bar.toNat + 8) 0 0
  | .cbarSync bar a => encXda 0x6E 0 a 0 (bar.toNat + 16) 0 0
  | .tbarArrive bar a => encXda 0x6F 0 a 0 bar.toNat 0 0
  | .tbarWait bar la ka => encXda 0x6F 0 ⟨.zr, la, ka⟩ 0 (bar.toNat + 16) 0 0
  | .tbarSync bar a => encXda 0x6F 0 a 0 (bar.toNat + 32) 0 0
  | .gbind win a scat => encXda 0x70 0 a 0 (win.toNat + 8 * b1 scat) 0 0
  | .gstat d win => encU 0x71 d.code 0 win.toNat
  | .merge a isect => encXda 0x72 0 a 0 (b1 isect) 0 0
  | .contract a => encXda 0x73 0 a 0 0 0 0
  | .kst slot a b => encXdab 0x74 0 a b 0 slot.toNat 0 0
  | .kgather d a b slot fb probe cap =>
    match fb with
    | .pred p => encXdab 0x75 d.code a b p (slot.toNat + 16 * b1 probe) 0 cap.toNat
    | .trap => encXdab 0x75 d.code a b 0 (slot.toNat + 8 + 16 * b1 probe) 0 cap.toNat
  | .kreg slot a => encXda 0x76 0 a 0 slot.toNat 0 0
  | .kregUnbind slot la ka => encXda 0x76 0 ⟨.zr, la, ka⟩ 0 (slot.toNat + 8) 0 0
  | .launch a => encXda 0x77 0 a 0 0 0 0
  | .bra off => [0x78 * 2 ^ 25 + off.toNat]
  | .call off => [0x79 * 2 ^ 25 + off.toNat]
  | .jmp a => encUa 0x7A 0 0 a
  | .calli a => encUa 0x7A 1 0 a
  | .ret a => encUa 0x7A 2 0 a
  | .awaitTok mask tl => encX0 0x7B 0 (1 + 8 * b1 tl) mask.toNat
  | .awaitWord a b cc n tl => encXdab 0x7B 0 a b 0 (2 + 8 * b1 tl + 16 * cc.code) 0 (b1 n)
  | .awaitCtr a b tl => encXdab 0x7B 0 a b 0 (3 + 8 * b1 tl) 0 0
  | .awaitPhase a b dom tl => encXdab 0x7B 0 a b 0 (4 + 8 * b1 tl) 0 dom.toNat
  | .awaitTbar bar tl => encX0 0x7B 0 (5 + 8 * b1 tl) bar.toNat
  | .awaitCbar bar tl => encX0 0x7B 0 (6 + 8 * b1 tl) bar.toNat
  | .win wb => encX0 0x7C 0 0 wb
  | .exit => encX0 0x7C 0 1 0
  | .yield tl => encX0 0x7C 0 (2 + 128 * b1 tl) 0
  | .fwd a tl => encXda 0x7C 0 a 0 (3 + 128 * b1 tl) 0 0
  | .preoff => encX0 0x7C 0 4 0
  | .preon => encX0 0x7C 0 5 0
  | .vdid d => encX0 0x7C d.code 6 0
  | .vdhops d a b => encXdab 0x7C d.code a b 0 7 0 0
  | .cyc d => encX0 0x7C d.code 8 0
  | .srr d reg => encU 0x7D d.code 0 reg
  | .srw reg a => word0 0x7D 0 a.r.code reg a.lu true a.kp false :: litWords [a.r]
  | .trap code => encU 0x7E code.toNat 0 0
  | .bkpt => encU 0x7E 0 0 1
  | .rte => encU 0x7E 0 0 2
  | .emret n => encU 0x7E n 0 3
  | .rpqr d a => encUda 0x7E 4 d a
  | .rpqw d a => word0 0x7E d.code a.r.code 5 a.lu false a.kp false :: litWords [d, a.r]
  | .tmask a => encUa 0x7E 6 0 a
  | .hmovf d n => encU 0x7E d.code n 7
  | .hmovt n a => encUa 0x7E 8 n a
  | .grd p neg count => [0x7F * 2 ^ 25 + p * 2 ^ 17 + b1 neg * 2 ^ 16 + count.toNat * 2 ^ 13]
  | .kw mask => [0x7F * 2 ^ 25 + 2 ^ 23 + mask.toNat * 2 ^ 15]
  | .mem m =>
    [0x7F * 2 ^ 25 + 2 * 2 ^ 23 + m.order.code * 2 ^ 21 + m.scope.code * 2 ^ 19 + m.space.code * 2 ^ 16 +
      m.cache.toNat * 2 ^ 14 + m.mask.toNat * 2 ^ 6 + b1 m.blu * 2 ^ 5 + b1 m.dlu * 2 ^ 4 + m.pdom.toNat]
  | .tokenWaitPark _ | .longLatencyComplete _ _ | .recordWrite _ _ | .boathouseSpill _ | .binAgeExpiry _ _
  | .binDrain _ _ _ | .activeSetChange _ | .teamMove _ | .peerRecordArrival _ _ _ _ _ | .binForward _ _ _
  | .trapDelivery _ | .emulationEntry _ | .scratchParityUpdate _ | .scratchError _ _ _ | .llcError _ _
  | .eccConsumed _ | .teamRelaunch _ _ | .copyComplete _ | .channelDelivery _ _ _ | .commitComplete _ | .teamRetire _
  | .gridComplete _ | .matrixOpPerform _ _ | .drainApply _ | .coxFailure _ | .mergePerform _ | .contractPerform _
  | .kstInsert _ | .keyUnitFailure _ | .admission _ | .teamPlace | .preemptRequest _ _ _ | .graceExpiry _
  | .preoffLimitExpiry _ | .maskedDeferExpiry _ | .coreVacant _ | .runlistTurn | .powerGovernorStep _ _
  | .umpireDecide _ | .iftDue _ | .iftOverdue _ | .iftRun _ _ _ | .ctxCreate _ _ | .ctxDestroy _ | .ctxSuspend _
  | .ctxResume _ | .queueMap _ _ _ | .pasidClose _ | .faultDone _ _ | .drain _ _ | .migrate _ _ _ | .tenantSet _ _
  | .svcClear | .bitload _ _ | .queueLaunch _ _ | .waitctr _ _ _ | .signal _ _ _ | .admwptrWrite _
  | .queueDoorbell _ _ | .admctlWrite _ | .fltctlWrite _ | .fltrptrWrite _ | .qctlWrite _ _ | .devctlWarm
  | .devctlAge _ | .devctlIft _ | .devctlUmp _ | .devctlDrain _ | .registerWrite _ _ | .faultRecordWrite
  | .atsTranslationResponse _ _ _ | .priResponse _ _ _ | .atsInvalidation _ _ | .peerFlitReceive _ _ _
  | .peerRetryTimeout _ _ | .peerPortLoss _ | .hostPortDown _ | .coldStart _ | .translationComplete _ _
  | .hostPageWrite _ _ | .phaseCopyUpdate _ _ _ => []

/-- The instructions that an encoding exists for: those with words. -/
def Instr.encodable (i : Instr) : Bool := !(encode i).isEmpty

end Sys2Proof
end

