-- ==== Sys2Proof/Machine/State.lean ====
section
/-! DEFINITION. The state of the machine as plain data, the reasons for which a step stops, and the state after reset
(a cold start, R404). Objects that come and go (contexts, grids, teams, crews, records) stand in lists, each with its
own number; INVENTORY.md lists every piece with its rule. -/

namespace Sys2Proof.Machine

/-! ## Memory -/

/-- One change of a package-scope byte: the instant, the byte it replaced (R321), and the team whose work wrote it, by its
grid and index, where a team's did. -/
structure Hist where
  t : Nat
  addr : Nat
  old : Byte
  who : Option (Nat × Nat)
deriving DecidableEq, Repr, Inhabited

/-- Package memory (R321): the present bytes, their histories (newest first), the last instant, and the poisoned lines of
the LLC, each with the bytes that no commit has written since (R279). -/
structure MemSys where
  cells : Mem
  hist : List Hist
  now : Nat
  poison : List (Nat × List Nat)
deriving DecidableEq, Repr, Inhabited

/-! ## Crews and lanes -/

/-- The effective MEM fields of an issue (R70 to R72). -/
structure MemAttr where
  order : Order
  scope : Scope
  space : Space
  pdom : Nat
  mask : BitVec 8
deriving DecidableEq, Repr, Inhabited

/-- A long-latency instruction in flight (R62 to R65). `left` is the lookahead left per lane, `group` the registers of its
destination, `prev` what they held before completion. `mem` says that it makes accesses, `after` names the earlier work
it was issued outside the windows of (R66); `dst` and `src` are the translated bytes of each lane, and `asked` says that what
of it lies at a peer has been asked for (R406). -/
structure LongOp where
  instr : Instr
  entry : Entry
  attr : MemAttr
  left : List Nat
  group : List Nat
  prev : List (Option Reg)
  mem : Bool
  after : List Nat
  dst : List (Nat × List (Option Place))
  src : List (Nat × List (Option Place))
  translated : Bool
  done : Bool
  replay : Bool
  asked : Bool
  ckpt : Ckpt
deriving DecidableEq, Repr, Inhabited

/-- How far a cut of the crew has been put off (R194, R359). -/
structure CutWish where
  preoffOver : Bool
  maskedOver : Bool
deriving DecidableEq, Repr, Inhabited

/-- The pipeline side of a crew: long-latency work, issues that a trap may capture, raised traps, those that belong to captured entries (`later`, R188), entries
to re-inject, registers held back (each time the serial of the issue that freed them and how many, R200), the next serial, waiting in place, the lanes and tokens of a wait that may
park (R69), and how far an instruction that waits in place has come, with the descriptor it has read (LOOPA, R264). -/
structure Pipe where
  inflight : List LongOp
  issued : List Entry
  traps : List Trap
  later : List Trap
  reinj : List Entry
  held : List (Nat × Nat)
  serial : Nat
  waiting : Bool
  park : Option (LaneMask × BitVec 8)
  stage : Nat
  desc : List Word
  cut : CutWish
deriving DecidableEq, Repr, Inhabited

/-- A crew, or a Cox context (`cox`), which is a crew of width 8 with lane 0 alone (R252). `team` is the Cox context's
team; a vector crew's lanes name theirs. -/
structure Crew where
  id : Nat
  core : Nat
  ctx : Nat
  grid : Nat
  width : Nat
  budget : Nat
  wb : Nat
  teamLocal : Bool
  cox : Option Nat
  inSet : Bool
  lanes : List (Option Lane)
  regs : List Reg
  scal : List Scal
  hregs : List Reg
  fpcr : Word
  memdef : Word
  bkpten : Bool
  poisonEn : Bool
  cych : Option Word
  sel : Sel
  lv : Levels
  pipe : Pipe
deriving DecidableEq, Repr, Inhabited

/-! ## Teams -/

/-- A present team set of more than one team with its cluster barriers (R248), and of its teams that have retired the
chain slots (R164) and the Umpire's side (R377), by team index. -/
structure TeamSet where
  grid : Nat
  set : Nat
  cluster : Nat
  cbars : List Bar
  rollbacks : Nat
  gone : List (Nat × ChainSlot)
  audits : List (Nat × Audit)
deriving DecidableEq, Repr, Inhabited

/-! ## Grids -/

/-- The fields of a launch record (R341). -/
structure LaunchRec where
  entry : Nat
  gx : Nat
  gy : Nat
  gz : Nat
  tx : Nat
  ty : Nat
  tz : Nat
  width : Nat
  regs : Nat
  scratch : Nat
  tiles : Nat
  tset : Nat
  nq : Nat
  param : DWord
  ctr : Nat
  prio : Nat
  audit : Bool
deriving DecidableEq, Repr, Inhabited

/-- A role of a kernel: code address, crews, register budget (R343). -/
structure Role where
  code : Nat
  crews : Nat
  budget : Nat
deriving DecidableEq, Repr, Inhabited

/-- How a grid ended (R352): KIND, REASON, GRADE and CAUSE of STATUS. -/
structure EndStatus where
  kind : Nat
  reason : Nat
  grade : Nat
  cause : Nat
deriving DecidableEq, Repr, Inhabited

/-- A grid (R341 to R350). `gid` is its GRIDID, `parent` the team whose queue holds its entry, `slot` the queue slot
that launched it, `next` the next team to place and `stop` the one behind the last, `fin` the status it completes with,
`wrote` whether any write of its teams entered a history (R352), `unres` the faults of its STATUS and counter words declared
unresolvable. A replay runs as a grid of its own with the GRIDID of
the original, `shadow` (R376). -/
structure Grid where
  id : Nat
  gid : Nat
  shadow : Option Nat
  ctx : Nat
  addr : Nat
  lr : LaunchRec
  roles : List Role
  idem : List (Nat × Nat)
  cox : Option (Nat × Nat)
  prio : Nat
  order : Nat
  parent : Option Nat
  slot : Option Nat
  next : Nat
  stop : Nat
  retired : Nat
  fin : Option EndStatus
  wrote : Bool
  unres : List FaultKey
deriving DecidableEq, Repr, Inhabited

/-! ## Engines -/

/-- A copy in flight (R218): its lane's thread (none for a Cox context), its token, the bytes of its destination and
source (none past an allocation, R221), its reduction and its domain; the core and the number of the CPY's issue (R324,
R329), whether its source is a gather window (R333), and how much of what lies at a peer has been asked for: its source, then
its reductions (R406). -/
structure Copy where
  id : Nat
  team : Nat
  idx : Option Nat
  crew : Nat
  tok : Nat
  dst : List (Option Place)
  src : List (Option Place)
  rd : CpyRed
  ty : RedTy
  dom : Nat
  core : Nat
  serial : Nat
  win : Bool
  asked : Nat
deriving DecidableEq, Repr, Inhabited

/-- A commit that has begun (R324): its lines, the die and the tags it is attributed with (R329), and the peer ports
whose acknowledgement it needs (R406). -/
structure Commit where
  id : Nat
  team : Nat
  ctx : Nat
  grid : Nat
  crew : Option Nat
  die : Nat
  tags : List (Nat × Word)
  lines : List Line
  unacked : List Nat
  keep : Bool
deriving DecidableEq, Repr, Inhabited

/-- An operation of class S (R287): a MERGE with its mode, or a CONTRACT, with the descriptor's address and bytes, the
output tiles it has stored (R298) and the faults declared unresolvable for it. -/
structure SOp where
  id : Nat
  team : Nat
  crew : Nat
  merge : Bool
  isect : Bool
  desc : Nat
  bytes : List Byte
  fibres : List Byte
  dom : Nat
  core : Nat
  tiles : Nat
  unres : List FaultKey
deriving DecidableEq, Repr, Inhabited

/-- A matrix operation in a target's queue (R262), with the operand descriptors and the tile's shape read at issue. -/
structure MxOp where
  id : Nat
  issuer : Nat
  crew : Nat
  target : Nat
  tile : Nat
  ty : MmaTy
  scaled : Option MmabTy
  acc : Bool
  aDesc : List Word
  bDesc : List Word
  sDesc : List Word
  rows : Nat
  cols : Nat
deriving DecidableEq, Repr, Inhabited

/-- A drain issued and not applied (R270); `far` is the port and the number of the transfer that brought it from a peer. -/
structure Drain where
  id : Nat
  issuer : Nat
  crew : Nat
  grid : Nat
  port : Option Nat
  far : Option (Nat × Nat)
  target : Nat
  tile : Nat
  rows : Nat
  cols : Nat
  seq : Option Word
  elems : List Word
deriving DecidableEq, Repr, Inhabited

/-- A bound key region (R301, R306): the descriptor's fields, the projection bits read when it was bound, the pages it
needs, and STALE. -/
structure KSlot where
  num : Nat
  kbase : Nat
  bbase : Nat
  opbase : Nat
  proj : Nat
  tmax : Nat
  opcnt : Nat
  pgen : Word
  ctl : Word
  rows : List Byte
  stale : Bool
deriving DecidableEq, Repr, Inhabited

/-- The work of one lane of a KST not yet performed (R311, R313): its region as it was at issue, head and token, where the
key comes from and goes to, the key once read, and how many of its steps are done: the key, then one Insert a table; the
core and the number of the issue, and the acquire that follows the issue's last lane (R212). -/
structure KOp where
  id : Nat
  crew : Nat
  team : Nat
  slot : KSlot
  head : Nat
  tok : Nat
  src : List Place
  dst : List Nat
  key : List Byte
  step : Nat
  dom : Nat
  unres : List FaultKey
  core : Nat
  serial : Nat
  acq : Option Scope
deriving DecidableEq, Repr, Inhabited

/-! ## Contexts -/

/-- The context descriptor as read at CTX_CREATE (R396). -/
structure CtxDesc where
  ptroot : Nat
  pasid : Nat
  tenant : Nat
  maxprio : Nat
  quant : Nat
  preofflim : Nat
  commitcap : Nat
  bhbase : Nat
  bhsize : Nat
  bhllc : Nat
  memdef : Word
  fpcr : Word
  bkpten : Bool
  poisonEn : Bool
  trapvec : Nat
  emuvec : Nat
  odis : BitVec 128
  vdtab : BitVec 64
  peers : BitVec 12
deriving DecidableEq, Repr, Inhabited

/-- A context (R396): phase numbers with the copy of each base die (R328), key regions (R300), Boathouse bytes reserved
(R32), suspension, pending destruction. -/
structure Ctx where
  id : Nat
  d : CtxDesc
  suspended : Bool
  dying : Bool
  pn : List Word
  pnCopy : List (List Word)
  keys : List KSlot
  reserved : Nat
deriving DecidableEq, Repr, Inhabited

/-! ## The chip: cores, clusters, registers, host, fabric -/

/-- A pre-emption request in force on a core (R358): the request that chose it, whether its grace is over and it is
vacant, what it is granted to (R362), and whether a team of the requester has been placed on it since. -/
structure Vacate where
  req : Nat
  used : Bool
  graceOver : Bool
  vacant : Bool
  granted : Option Nat
deriving DecidableEq, Repr, Inhabited

/-- A core, by physical number 32 x die + 8 x cluster + core. Cores not listed are as after a cold start. `floor` is the
snapshot floor of R322, `view` the words that acquires at a narrower scope let no load of the core miss (R213, R326); a Cox
context has a core of its own (R322). `banks` are the retired banks (R206), `stale` the rows of the scratchpad's parity
updates to come, in order (R204). -/
structure Core where
  num : Nat
  floor : Nat
  view : List (Nat × Nat)
  withdrawn : Bool
  banks : List Nat
  stale : List (Nat × Nat)
  segctl : Word
  vac : Option Vacate
  reserved : Option Nat
deriving DecidableEq, Repr, Inhabited

/-- The states of a cluster (R379). -/
inductive ClState where
  | inService | testDue | overdue | drained | withdrawn
deriving DecidableEq, Repr, Inhabited

/-- A cluster, by physical number; clusters not listed are as after a cold start (R371, R379). -/
structure Cluster where
  num : Nat
  st : ClState
  fmax : Nat
  cur : Nat
  drift : Nat
  floorBit : Bool
  sinceTest : Nat
  dueFor : Nat
deriving DecidableEq, Repr, Inhabited

/-- What raised a pre-emption request: a grid whose team with the index is blocked (R354), a test of a cluster (R380), the
suspension of a context (R398), a withdrawal (R208, R276), or system software (R357); `ended` is one that system software
withdrew (R362). -/
inductive ReqCause where
  | blocked (grid index : Nat)
  | test (cluster : Nat)
  | suspend (ctx : Nat)
  | withdraw
  | software
  | ended
deriving DecidableEq, Repr, Inhabited

/-- A pre-emption request (R357): `find` is the number of cores still to be chosen, `need` of those still to be granted. It
stands until it lapses and no core is granted to it (R362). -/
structure Request where
  id : Nat
  prio : Nat
  who : Requester
  want : PreemptWant
  find : Nat
  need : Nat
  cause : ReqCause
deriving DecidableEq, Repr, Inhabited

/-- An Umpire sample (R376 to R378): the grid that its runs are placed as, the original grid, the first team index and the
number of teams, the clusters of the runs before the present one, and the bytes that each of their teams committed. -/
structure Replay where
  id : Nat
  grid : Nat
  first : Nat
  count : Nat
  cl0 : Nat
  cl1 : Option Nat
  so : List (List Host.Cell)
  sp : Option (List (List Host.Cell))
deriving DecidableEq, Repr, Inhabited

/-- A fault record (R393): its FID once written to the ring, and how a host fault stands. -/
inductive FltStage where
  | ring
  | written (fid : Nat)
  | ats
  | pri
  | gone
deriving DecidableEq, Repr, Inhabited

structure Flt where
  key : FaultKey
  va : Nat
  pasid : Nat
  stage : FltStage
deriving DecidableEq, Repr, Inhabited

/-- A tenant block (R395). -/
structure Tenant where
  num : Nat
  clmask : BitVec 32
  msix : Word
  wins : List (Nat × Nat)
deriving DecidableEq, Repr, Inhabited

/-- A queue slot (R390, R399): `owed` the grids launched by its earlier packets that a FENCE waits for (R397), `launch` a
LAUNCH packet that awaits admission, `cur` the packet that has been fetched and not completed, `unres` the faults of its
packet declared unresolvable. -/
structure Slot where
  num : Nat
  base : DWord
  qctl : Word
  wptr : Word
  rptr : Word
  owed : List Nat
  launch : Option PendLaunch
  cur : List Byte
  unres : List FaultKey
deriving DecidableEq, Repr, Inhabited

/-- What completes with the acknowledgement of a transfer: a commit, a drain, an operation of a crew, a copy (R271, R406). -/
inductive XferFor where
  | none
  | commit (id : Nat)
  | drain (id : Nat)
  | op (crew serial : Nat)
  | copy (id : Nat)
deriving DecidableEq, Repr, Inhabited

/-- A transfer that this package has sent and the peer has not acknowledged: its number, its failed retries, its grid, what
waits for it, and its content, which a retry sends again (R405). -/
structure Xfer where
  seq : Nat
  tries : Nat
  grid : Option Nat
  what : XferFor
  body : FlitBody
deriving DecidableEq, Repr

/-- The acknowledgement of a transfer of the peer, with the bytes that it answers (R405, R406). -/
structure Ack where
  seq : Nat
  ok : Bool
  cells : List Host.Cell
deriving DecidableEq, Repr, Inhabited

/-- A peer port (R405, R407): its next sequence numbers, the transfers that await acknowledgement, the acknowledgements that it
has sent, and the faults of the peer's accesses declared unresolvable. -/
structure Port where
  num : Nat
  lost : Bool
  txSeq : Nat
  rxSeq : Nat
  unacked : List Xfer
  acks : List Ack
  unres : List FaultKey
deriving DecidableEq, Repr, Inhabited

/-- An event record of the health page (R408). -/
structure Event where
  code : Nat
  ctx : Nat
  grid : Nat
  team : Nat
  cls : List Nat
deriving DecidableEq, Repr, Inhabited

/-- The health page (R408). -/
structure Health where
  seq : Nat
  rot : Word
  svc : BitVec 64
  counts : List Nat
  evcount : Nat
  events : List Event
  recovery : Bool
  service : Bool
  ddrain : Bool
  tdrain : List Nat
  hostUp : List Bool
deriving DecidableEq, Repr, Inhabited

/-- The registers of the BAR that stand alone (R390, R391, R410). -/
structure DevRegs where
  devctl : Word
  agectl : Word
  relctl : Word
  admbase : DWord
  admctl : Word
  admwptr : Word
  admrptr : Word
  fltbase : DWord
  fltctl : Word
  fltwptr : Word
  fltrptr : Word
deriving DecidableEq, Repr, Inhabited

/-- The Starter and what the host sees (R391 to R403). `pasids` are the PASIDs in use, true where closing; `turn` is the
context whose turn it is and `turnSeen` the run list of this rotation that is still to come, `admNext` the next admin
packet to start, `admCur` the bytes of one that has been fetched and not completed, `admPend` the PASID_CLOSE packets started and not completed, `image` the flash image and `digest` the
one verified last, `tenantSet` whether a TENANT_SET came since the last clear. -/
structure HostSide where
  tenants : List Tenant
  pasids : List (Nat × Bool)
  faults : List Flt
  ats : List (Nat × Nat × Nat × Bool × Bool × Bool)
  slots : List Slot
  msix : List Nat
  turn : Option Nat
  turnSeen : List Nat
  admNext : Word
  admCur : List Byte
  admPend : List (Word × Nat)
  image : List Byte
  digest : Option (List Byte)
  tenantSet : Bool
  nextFid : Nat
deriving DecidableEq, Repr, Inhabited

/-- The variants (R1). -/
inductive Variant where
  | t | t224 | e
deriving DecidableEq, Repr, Inhabited

/-- The issue being made: its crew, lanes S and ACTIVE, first word and words, its guard and MEM fields, and whether it
is made anew or re-injected (`entry`, R188); `chosen`, `yl` and `elig` are S, YIELDED and ELIG as R19's choice left them
(lanes whose segments end before the issue leave `s`). -/
structure Issue where
  crew : Nat
  s : LaneMask
  act : LaneMask
  pc : Nat
  raw : RawIssue
  grd : Option Run
  mem : Option MemFields
  mask : BitVec 8
  entry : Option Entry
  chosen : LaneMask
  yl : LaneMask
  elig : LaneMask
deriving DecidableEq, Repr, Inhabited

/-- The counters of the model itself (log entries 4 and 5): model time, free values taken, numbers given out, and the
time of the last start. -/
structure Clock where
  time : Nat
  free : Nat
  nextId : Nat
  start : Nat
deriving DecidableEq, Repr, Inhabited

/-- Work of the engines that is under way. `hostDue` are commits with lines for host pages, and the crews that made them,
whose lines are not yet at the host's coherence point (R336). -/
structure Engines where
  copies : List Copy
  commits : List Commit
  hostDue : List (Nat × Option Nat)
  sops : List SOp
  mxops : List MxOp
  drains : List Drain
  kops : List KOp
  deadUnits : List Nat
deriving DecidableEq, Repr, Inhabited

/-- The dispatcher's objects. `grants` are rows granted to a grid on a core beside those of its teams (R34). -/
structure Sched where
  grids : List Grid
  teams : List Team
  sets : List TeamSet
  requests : List Request
  replays : List Replay
  grants : List (Nat × Nat × Nat)
deriving DecidableEq, Repr, Inhabited

/-- The chip's parts: variant, the harvested die of the NX4-T224, cores, clusters and ports that differ from their reset
state. -/
structure Chip where
  variant : Variant
  harvested : Nat
  cores : List Core
  clusters : List Cluster
  ports : List Port
deriving DecidableEq, Repr, Inhabited

/-- The machine. -/
structure State where
  agenda : List Instr
  cur : Option Issue
  clock : Clock
  chip : Chip
  mem : MemSys
  dev : DevRegs
  health : Health
  host : HostSide
  ctxs : List Ctx
  sched : Sched
  crews : List Crew
  recs : List Rec
  eng : Engines
deriving DecidableEq, Repr, Inhabited

/-! ## Why a step stops -/

/-- The reasons a step ends without a next state. -/
inductive Fault where
  /-- An instruction of a crew was executed where the machine has no issue in progress. The step function sets one
  before it executes an instruction, so no run meets this; safe. -/
  | noIssue
  /-- The machine's issue names a crew that does not exist. The step function never does so; safe. -/
  | noCrew
deriving DecidableEq, Repr, Inhabited

/-- The reasons a step has no meaning to give. -/
inductive Refusal where
  /-- An instruction whose meaning the model does not hold; raised by its arm of `exec`. Safe. -/
  | notModelled (mnemonic : String)
deriving DecidableEq, Repr, Inhabited

/-! ## Reset: after a cold start whose bitstream verified (R404) -/

/-- A core as a cold start leaves it. -/
def Core.fresh (k : Nat) : Core := ⟨k, 0, [], false, [], [], 0x01000100, none, none⟩

/-- A cluster as a cold start leaves it (R371, R379). -/
def Cluster.fresh (c : Nat) : Cluster := ⟨c, .inService, 0x54, 0x54, 0, false, 0, 0⟩

/-- A peer port as training leaves it. -/
def Port.fresh (p : Nat) : Port := ⟨p, false, 0, 0, [], [], []⟩

/-- A queue slot as a cold start leaves it (R399). -/
def Slot.fresh (q : Nat) : Slot := ⟨q, 0, 0x4, 0, 0, [], none, [], []⟩

def Frame.fresh : Frame := ⟨false, false, 0, 0, 0, 0, 0, 0, 0, 0, [], 0, 0, 0, 0⟩
def Levels.fresh : Levels := ⟨Frame.fresh, none, false, false⟩
def Sel.fresh : Sel := ⟨0, 0, 0⟩
def CutWish.fresh : CutWish := ⟨false, false⟩
def Pipe.fresh : Pipe := ⟨[], [], [], [], [], [], 0, false, none, 0, [], CutWish.fresh⟩

def MemSys.reset : MemSys := ⟨[], [], 0, []⟩

/-- The BAR registers after a cold start (R370, R375, R391, R410); bases 0 (log entry 7). -/
def DevRegs.reset : DevRegs := ⟨0x0000000C, 0x300C8032, 0x40000000, 0, 0x4, 0, 0, 0, 0x6, 0, 0⟩

def Health.reset : Health := ⟨0, 0, 0, [0, 0, 0, 0, 0, 0, 0, 0], 0, [], false, false, false, [], [true, true]⟩

def HostSide.reset : HostSide := ⟨[], [], [], [], [], [], none, [], 0, [], [], [], some [], false, 1⟩

def Engines.reset : Engines := ⟨[], [], [], [], [], [], [], []⟩
def Sched.reset : Sched := ⟨[], [], [], [], [], []⟩

/-- The variant NX4-T (log entry 2), with every part as a cold start leaves it. -/
def Chip.reset : Chip := ⟨.t, 0, [], [], []⟩

/-- The machine right after a cold start (R404): no context, grid, team, crew or record, memory all zero. -/
def State.reset : State :=
  ⟨[], none, ⟨0, 0, 0, 0⟩, Chip.reset, MemSys.reset, DevRegs.reset, Health.reset, HostSide.reset, [], Sched.reset, [], [],
    Engines.reset⟩

end Sys2Proof.Machine
end

