-- ==== Sys2Proof/Machine/Base.lean ====
section
/-! DEFINITION. The form of a meaning (an action on the state that can end early), sets of lanes, and finding and
updating the objects that the state holds. -/

namespace Sys2Proof.Machine

/-- Why an action ends early: it is complete with the state as it stands, or it stops the run. -/
inductive Stop where
  | done
  | fault (f : Fault)
  | refused (r : Refusal)
deriving DecidableEq, Repr

/-- An action on the state. -/
abbrev Act (α : Type) := EStateM Stop State α

/-- What an action answers as one step. -/
def Act.run (a : Act Unit) (s : State) : Host.Outcome State Fault Refusal :=
  match EStateM.run a s with
  | .ok _ t => .next t
  | .error .done t => .next t
  | .error (.fault f) _ => .fault f
  | .error (.refused r) _ => .refused r

/-- End the step here, with the state as it stands. -/
def stop {α : Type} : Act α := throw .done

/-- Run an action for each element. -/
def forEach {α : Type} (l : List α) (f : α → Act Unit) : Act Unit := l.forM f

/-- Run an action when a condition holds. -/
def onlyIf (b : Bool) (a : Act Unit) : Act Unit := if b then a else pure ()

/-! ## Sets of lanes -/

/-- The lanes a predicate picks. -/
def maskOf (p : Nat → Bool) : LaneMask :=
  (List.range 64).foldl (fun m n => if p n then m ||| (1#64 <<< n) else m) 0#64

/-- Is lane `n` in the set? -/
def has (m : LaneMask) (n : Nat) : Bool := m.getLsbD n

/-- The lanes of a set, ascending. -/
def lanesOf (m : LaneMask) : List Nat := (List.range 64).filter (has m)

/-- The lowest lane of a set. -/
def lowest (m : LaneMask) : Option Nat := (lanesOf m).head?

/-- Element `n` of a list, or a default. -/
def nth {α : Type} (l : List α) (n : Nat) (d : α) : α := (l[n]?).getD d

/-- Replace element `n` of a list. -/
def setNth {α : Type} (l : List α) (n : Nat) (x : α) : List α := l.set n x

/-! ## Crews -/

def Crew.lane (c : Crew) (n : Nat) : Option Lane := (c.lanes[n]?).join

/-- Update the lanes of a set. -/
def Crew.mapLanes (c : Crew) (m : LaneMask) (f : Nat → Lane → Lane) : Crew :=
  { c with lanes := c.lanes.mapIdx fun n l => if has m n then l.map (f n) else l }

/-- The lanes that hold a thread. -/
def Crew.present (c : Crew) : LaneMask := maskOf fun n => (c.lane n).isSome

/-- The lanes whose threads have not ended their segment (R19). -/
def Crew.running (c : Crew) : LaneMask := maskOf fun n => (c.lane n).any fun l => l.ending.isNone

/-- The greatest handler depth among the running lanes (R174). -/
def Crew.depth (c : Crew) : Nat :=
  c.lanes.foldl (fun d l => match l with
    | some l => if l.ending.isNone then max d l.depth else d
    | none => d) 0

/-- ELIG of R19; in handler mode only the lanes at the greatest depth (R174). -/
def Crew.elig (c : Crew) : LaneMask :=
  maskOf fun n => (c.lane n).any fun l => l.ending.isNone && l.depth == c.depth

/-- A predicate of a lane; `p47` reads true (R109). -/
def Lane.pred (l : Lane) (p : Nat) : Bool := p == 47 || l.preds.getLsbD p

/-- Write a predicate; a write of `p47` is discarded (R109). -/
def Lane.setPred (l : Lane) (p : Nat) (b : Bool) : Lane :=
  if p = 47 then l
  else { l with preds := if b then l.preds ||| (1#48 <<< p) else l.preds &&& ~~~(1#48 <<< p) }

/-- The least of a list of numbers. -/
def leastNat : List Nat → Option Nat
  | [] => none
  | x :: xs =>
    match leastNat xs with
    | none => some x
    | some y => some (min x y)

/-- R19's choice: the lanes to issue for, their PC, and YIELDED as the choice leaves it. -/
def Crew.choose (c : Crew) : Option (LaneMask × Nat × LaneMask) :=
  let elig := c.elig
  let cand0 := elig &&& ~~~c.sel.yielded
  let (cand, yl) := if cand0 == 0 then (elig, 0) else (cand0, c.sel.yielded)
  (leastNat ((lanesOf cand).filterMap fun n => (c.lane n).map (·.pc))).map fun p =>
    (maskOf fun n => has cand n && (c.lane n).any (·.pc == p), p, yl)

/-- R19's bookkeeping after an issue for the lanes `s`. -/
def Sel.after (r : Sel) (yielded elig s : LaneMask) : Sel :=
  let n := if s == r.last then r.n + 1 else 1
  if s == elig then ⟨0, s, n⟩
  else if n = 256 then ⟨yielded ||| s, s, 0⟩
  else ⟨yielded, s, n⟩

/-! ## Finding objects -/

def State.crew? (s : State) (k : Nat) : Option Crew := s.crews.find? (·.id == k)
def State.team? (s : State) (u : Nat) : Option Team := s.sched.teams.find? (·.uid == u)
def State.grid? (s : State) (g : Nat) : Option Grid := s.sched.grids.find? (·.id == g)
def State.ctx? (s : State) (c : Nat) : Option Ctx := s.ctxs.find? (·.id == c)
def State.rec? (s : State) (t i : Nat) : Option Rec := s.recs.find? fun r => r.team == t && r.idx == i
def State.core (s : State) (k : Nat) : Core := (s.chip.cores.find? (·.num == k)).getD (Core.fresh k)
def State.cluster (s : State) (c : Nat) : Cluster := (s.chip.clusters.find? (·.num == c)).getD (Cluster.fresh c)
def State.port (s : State) (p : Nat) : Port := (s.chip.ports.find? (·.num == p)).getD (Port.fresh p)
def State.slot (s : State) (q : Nat) : Slot := (s.host.slots.find? (·.num == q)).getD (Slot.fresh q)
def State.tenant? (s : State) (n : Nat) : Option Tenant := s.host.tenants.find? (·.num == n)

/-- The number of teams of a grid. -/
def LaunchRec.teams (l : LaunchRec) : Nat := l.gx * l.gy * l.gz
/-- The number of threads of a team. -/
def LaunchRec.threads (l : LaunchRec) : Nat := l.tx * l.ty * l.tz

/-- The present members of the set of a team (R18). -/
def Grid.setSize (g : Grid) (index : Nat) : Nat :=
  min g.lr.tset (g.lr.teams - index / max g.lr.tset 1 * g.lr.tset)

/-- The set a team belongs to, when it has more than one present member (R18, R248). -/
def Grid.setOf (g : Grid) (index : Nat) : Option Nat :=
  if 1 < g.setSize index then some (index / g.lr.tset) else none
def State.teamSet? (s : State) (g k : Nat) : Option TeamSet :=
  s.sched.sets.find? fun t => t.grid == g && t.set == k

/-! ## Updating objects -/

def State.setCrew (s : State) (c : Crew) : State :=
  { s with crews := s.crews.map fun d => if d.id == c.id then c else d }
def State.updCrew (s : State) (k : Nat) (f : Crew → Crew) : State :=
  { s with crews := s.crews.map fun d => if d.id == k then f d else d }
def State.updTeam (s : State) (u : Nat) (f : Team → Team) : State :=
  { s with sched := { s.sched with teams := s.sched.teams.map fun t => if t.uid == u then f t else t } }
def State.updGrid (s : State) (g : Nat) (f : Grid → Grid) : State :=
  { s with sched := { s.sched with grids := s.sched.grids.map fun t => if t.id == g then f t else t } }
def State.updCtx (s : State) (k : Nat) (f : Ctx → Ctx) : State :=
  { s with ctxs := s.ctxs.map fun c => if c.id == k then f c else c }
def State.updRec (s : State) (t i : Nat) (f : Rec → Rec) : State :=
  { s with recs := s.recs.map fun r => if r.team == t && r.idx == i then f r else r }
def State.updSet (s : State) (g k : Nat) (f : TeamSet → TeamSet) : State :=
  { s with sched := { s.sched with sets := s.sched.sets.map fun t => if t.grid == g && t.set == k then f t else t } }

/-- Replace an entry of a sparse list, or add it. -/
def putBy {α : Type} (key : α → Nat) (x : α) : List α → List α
  | [] => [x]
  | y :: ys => if key y = key x then x :: ys else if key x < key y then x :: y :: ys else y :: putBy key x ys

def State.updCore (s : State) (k : Nat) (f : Core → Core) : State :=
  { s with chip := { s.chip with cores := putBy Core.num (f (s.core k)) s.chip.cores } }
def State.updCluster (s : State) (c : Nat) (f : Cluster → Cluster) : State :=
  { s with chip := { s.chip with clusters := putBy Cluster.num (f (s.cluster c)) s.chip.clusters } }
def State.updPort (s : State) (p : Nat) (f : Port → Port) : State :=
  { s with chip := { s.chip with ports := putBy Port.num (f (s.port p)) s.chip.ports } }
def State.updSlot (s : State) (q : Nat) (f : Slot → Slot) : State :=
  { s with host := { s.host with slots := putBy Slot.num (f (s.slot q)) s.host.slots } }

def State.updEng (s : State) (f : Engines → Engines) : State := { s with eng := f s.eng }
def State.updSched (s : State) (f : Sched → Sched) : State := { s with sched := f s.sched }
/-- The health page is updated: SEQ is odd while that goes on, and even after it (R408). -/
def State.updHealth (s : State) (f : Health → Health) : State :=
  { s with health := { f s.health with seq := (f s.health).seq + 2 } }
/-- Something that the health page shows has changed (R408). -/
def State.touchPage (s : State) : State := s.updHealth id
def State.updHost (s : State) (f : HostSide → HostSide) : State := { s with host := f s.host }
def State.updDev (s : State) (f : DevRegs → DevRegs) : State := { s with dev := f s.dev }

/-- A number not given out before. -/
def newId : Act Nat := do
  let s ← get
  set { s with clock := { s.clock with nextId := s.clock.nextId + 1 } }
  pure s.clock.nextId

/-- A free value below `n` (1 or more): nothing fixes it (log entry 5). -/
def choose (n : Nat) : Act Nat :=
  if n ≤ 1 then pure 0
  else do
    let s ← get
    set { s with clock := { s.clock with free := s.clock.free + 1 } }
    pure (Config.choice s.clock.free % n)

/-! ## The issue in progress -/

/-- The issue that the step has begun. -/
def theIssue : Act Issue := do
  match (← get).cur with
  | some i => pure i
  | none => throw (.fault .noIssue)

/-- The crew that issues. -/
def theCrew : Act Crew := do
  let i ← theIssue
  match (← get).crew? i.crew with
  | some c => pure c
  | none => throw (.fault .noCrew)

def setCur (f : Issue → Issue) : Act Unit := modify fun s => { s with cur := s.cur.map f }
def modCrew (f : Crew → Crew) : Act Unit := do
  let i ← theIssue
  modify fun s => s.updCrew i.crew f

/-! ## Places on the chip -/

/-- The cores of a target of FWD (R42). -/
def FwdTarget.cores : FwdTarget → List Nat
  | .core k => [k]
  | .cluster k => (List.range 8).map (8 * k + ·)
  | .die d => (List.range 32).map (32 * d + ·)
  | .peer _ => []

/-- The physical cluster and compute die of a core, and the base die under it (R337). -/
def clusterOf (core : Nat) : Nat := core / 8
def dieOf (core : Nat) : Nat := core / 32
def baseOfDie (die : Nat) : Nat := die / 2

/-- The physical die of virtual die v, when the table has it (R337). -/
def CtxDesc.vdie (d : CtxDesc) (v : Nat) : Option Nat :=
  if v < 8 && d.vdtab.getLsbD (8 * v + 7) then some (bits d.vdtab.toNat (8 * v) 3) else none

/-- The virtual dies of the table. -/
def CtxDesc.vdies (d : CtxDesc) : List Nat := (List.range 8).filter fun v => (d.vdie v).isSome

/-- The virtual die of a physical one (R339). -/
def CtxDesc.virt (d : CtxDesc) (die : Nat) : Nat :=
  (d.vdies.find? fun v => d.vdie v == some die).getD 0

/-- The virtual core number (R26) of a physical core. -/
def CtxDesc.vcore (d : CtxDesc) (core : Nat) : Nat := d.virt (dieOf core) * 32 + core % 32

/-- The enabled dies of the variant (R1, R340). -/
def Chip.dieOn (c : Chip) (die : Nat) : Bool := die < 8 && !(c.variant == .t224 && die == c.harvested)

/-- The SETIDX of a team (R18). -/
def Grid.setIdx (g : Grid) (index : Nat) : Nat := index % (max g.lr.tset 1)

end Sys2Proof.Machine
end

