-- ==== Sys2Proof/Machine/Memory.lean ====
section
/-! DEFINITION. Memory: bytes, the device page table, histories of package-scope values, commit buffers and commits,
published counters, and which waiting records a change makes ready. -/

namespace Sys2Proof.Machine

/-! ## Bytes in canonical form -/

/-- The byte at an address; an unlisted one reads 0 (log entry 3). -/
def Mem.get : Mem → Nat → Byte
  | [], _ => 0
  | (a, b) :: m, k => if a = k then b else Mem.get m k

/-- Insert a byte at its place among rising addresses. -/
def Mem.put : Mem → Nat → Byte → Mem
  | [], k, b => [(k, b)]
  | (a, x) :: m, k, b => if k < a then (k, b) :: (a, x) :: m else (a, x) :: Mem.put m k b

/-- Write one byte, keeping the canonical form. -/
def Mem.set (m : Mem) (k : Nat) (b : Byte) : Mem :=
  let r : Mem := m.filter fun p => p.1 != k
  if b = 0 then r else Mem.put r k b

/-- Write a list of bytes, the later ones last. -/
def Mem.setAll (m : Mem) (bs : List (Nat × Byte)) : Mem := bs.foldl (fun m p => m.set p.1 p.2) m

/-- The canonical form: addresses strictly rising, no byte 0. -/
def Mem.wf : Mem → Bool
  | [] => true
  | [(_, b)] => b != 0
  | (a, b) :: (a', b') :: m => b != 0 && decide (a < a') && Mem.wf ((a', b') :: m)

/-- The little-endian number of a list of bytes (R4). -/
def leNat : List Byte → Nat
  | [] => 0
  | b :: bs => b.toNat + 256 * leNat bs

/-- The first `n` bytes of a number, little-endian (R4). -/
def leBytes : (n v : Nat) → List Byte
  | 0, _ => []
  | n + 1, v => BitVec.ofNat 8 v :: leBytes n (v / 256)

/-- Pair bytes with rising addresses. -/
def place (a : Nat) (bs : List Byte) : List (Nat × Byte) := bs.mapIdx fun i b => (a + i, b)

/-- `n` bytes from an address. -/
def Mem.read (m : Mem) (a n : Nat) : List Byte := (List.range n).map fun i => m.get (a + i)

/-- A field of a block of bytes. -/
def fld (bs : List Byte) (off n : Nat) : Nat := leNat ((bs.drop off).take n)

/-! ## The unified address space (log entry 3) -/

def hostBase : Nat := 2 ^ 60
def peerBase : Nat := 2 ^ 62
def hostAddr (hpa : Nat) : Nat := hostBase + hpa % 2 ^ 60
def peerAddr (ctx port va : Nat) : Nat := peerBase + (ctx * 16 + port) * 2 ^ 56 + va
def isHostPa (a : Nat) : Bool := hostBase ≤ a && a < peerBase
def isPeerPa (a : Nat) : Bool := peerBase ≤ a
/-- The port and the context of a peer address. -/
def peerPort (a : Nat) : Nat := (a - peerBase) / 2 ^ 56 % 16
def peerCtx (a : Nat) : Nat := (a - peerBase) / 2 ^ 60
/-- The virtual address of a peer address. -/
def peerVa (a : Nat) : Nat := (a - peerBase) % 2 ^ 56

/-! ## Translation (R392, R393) -/

/-- The right an access needs. -/
structure Need where
  r : Bool
  w : Bool
  x : Bool
deriving DecidableEq, Repr

def Need.read : Need := ⟨true, false, false⟩
def Need.write : Need := ⟨false, true, false⟩
def Need.both : Need := ⟨true, true, false⟩
def Need.exec : Need := ⟨false, false, true⟩

/-- A translation: a physical address, PROT, or a fault to be served (of a host page, or of another). -/
inductive Tr where
  | ok (pa : Nat)
  | prot
  | miss (key : FaultKey) (host : Bool)
deriving DecidableEq, Repr

/-- The bytes of HBM (R3): device physical addresses from 0 on (log entry 121). -/
def hbmSize : Nat := 2 ^ 39

/-- Is a device physical address inside a memory window of the tenant (R3, R395)? -/
def State.inWindow (s : State) (tenant pa : Nat) : Bool :=
  pa < hbmSize && (s.tenant? tenant).any fun t => t.wins.any fun w => w.1 ≤ pa && pa < w.1 + w.2

/-- Bits [62:57] and [3:1] are a leaf's; [56:52] and [8:4] are zero in every entry (R392). -/
def pteReserved (e : Nat) : Bool := bits e 52 5 != 0 || bits e 4 5 != 0

def pteRights (e : Nat) (n : Need) : Bool := (!n.r || bit e 1) && (!n.w || bit e 2) && (!n.x || bit e 3)

/-- A leaf for pages of 2^`sh` bytes. -/
def State.leaf (s : State) (c : Ctx) (va e sh : Nat) (n : Need) (key : FaultKey) : Tr :=
  if pteReserved e || (bits e 61 2 == 3) || 11 < bits e 57 4 then .prot
  else if !pteRights e n then .prot
  else
    match bits e 61 2 with
    | 0 =>
      let page := bits e 9 43 * 512
      let pa := page + va % 2 ^ sh
      if page % 2 ^ sh != 0 || !s.inWindow c.d.tenant pa then .prot else .ok pa
    | 1 =>
      if bits e 9 43 != 0 then .prot
      else
        match s.host.ats.find? fun t => t.1 == c.d.pasid && t.2.1 == va / 4096 with
        | some (_, _, hpa, r, w, x) =>
          if (!n.r || r) && (!n.w || w) && (!n.x || x) then .ok (hostAddr (hpa + va % 4096)) else .prot
        | none => .miss key true
    | _ =>
      let port := bits e 57 4
      if bits e 9 43 != 0 || !c.d.peers.getLsbD port || (s.port port).lost then .prot
      else .ok (peerAddr c.id port va)

/-- One level of the walk and those below it: index position, index width and page size of each (R392). -/
def State.walk (s : State) (c : Ctx) (va : Nat) (n : Need) (key : FaultKey) : List (Nat × Nat) → Nat → Tr
  | [], _ => .prot
  | (lo, len) :: rest, table =>
    let e := leNat (s.mem.cells.read (table + 8 * bits va lo len) 8)
    if !bit e 63 then .miss key false
    else if bit e 0 then (if lo = 43 then .prot else s.leaf c va e lo n key)
    else if pteReserved e then .prot
    else s.walk c va n key rest (bits e 9 43 * 512)

/-- Translate a 56-bit virtual address of a context for an access that needs rights `n`. -/
def State.translate (s : State) (c : Ctx) (va : Nat) (n : Need) : Tr :=
  if 2 ^ 56 ≤ va then .prot
  else s.walk c va n ⟨c.id, va / 2 ^ 15, n.w, n.x⟩ [(43, 13), (30, 13), (21, 9), (15, 6)] c.d.ptroot

/-- Translate each byte of a range; the first failure stands for the range. -/
def State.translateRange (s : State) (c : Ctx) (va : Nat) (n : Need) : Nat → Sum Tr (List Nat)
  | 0 => .inr []
  | k + 1 =>
    match s.translateRange c va n k with
    | .inl t => .inl t
    | .inr l =>
      match s.translate c (va + k) n with
      | .ok pa => .inr (l ++ [pa])
      | t => .inl t

/-- The first address of a range that does not translate (R393). -/
def State.missAt (s : State) (c : Ctx) (va : Nat) (n : Need) (len : Nat) : Nat :=
  va + ((List.range len).find? fun k => match s.translate c (va + k) n with
    | .ok _ => false
    | _ => true).getD 0

/-! ## Package-scope values and histories (R321, R322) -/

/-- The byte at an instant: the first value replaced after it, or the present one. -/
def MemSys.byteAt (m : MemSys) (t a : Nat) : Byte :=
  match (m.hist.filter fun h => h.addr == a && t < h.t).getLast? with
  | some h => h.old
  | none => m.cells.get a

/-- Write bytes at one new instant (R321), in the name of a team or of none. -/
def MemSys.write (m : MemSys) (bs : List (Nat × Byte)) (who : Option (Nat × Nat) := none) : MemSys :=
  { m with
    cells := m.cells.setAll bs,
    hist := (bs.map fun p => ⟨m.now + 1, p.1, m.cells.get p.1, who⟩) ++ m.hist,
    now := m.now + 1 }

/-- A commit wrote these bytes: the mark of a line clears once commits have written every byte of it (R279). -/
def MemSys.heal (m : MemSys) (bs : List (Nat × Byte)) : MemSys :=
  { m with poison := (m.poison.map fun p => (p.1, p.2.filter fun a => !(bs.any (·.1 == a)))).filter fun p => !p.2.isEmpty }

/-- The instants, none before `f`, at which a load of these bytes may see them: `f` and each later change (R322). -/
def MemSys.instants (m : MemSys) (f : Nat) (as : List Nat) : List Nat :=
  f :: (((m.hist.filter fun h => f < h.t && as.contains h.addr).map (·.t)).reverse.eraseDups)

/-! ## Published phase counters (R328 to R330) -/

/-- The copy of PN[d] on a base die. -/
def Ctx.pnAt (c : Ctx) (base d : Nat) : Word := nth (nth c.pnCopy base []) d 0

/-- PUB for a physical die and a domain: the number before the copy, or before the earliest tag still open. -/
def State.pub (s : State) (c : Ctx) (die d : Nat) : Word :=
  let copy := c.pnAt (baseOfDie die) d
  let behind := (s.eng.commits.filter fun k => k.ctx == c.id && k.die == die && !k.keep).foldl
    (fun b k => k.tags.foldl (fun b t => if t.1 == d then max b (copy - t.2).toNat else b) b) 0
  copy - 1 - BitVec.ofNat 32 behind

/-- N is at or before M (R328). -/
def serialLe (n m : Word) : Bool := decide (0 ≤ (m - n).toInt)

/-! ## Conditions of waiting records -/

/-- ICOND on 32 bits (R74, R102). -/
def iCond32 (cc : ICond) (n : Bool) (a b : Word) : Bool :=
  match cc with
  | .eq => a == b
  | .ne => a != b
  | .lt => if n then a.ult b else a.slt b
  | .le => if n then !(b.ult a) else !(b.slt a)
  | .gt => if n then b.ult a else b.slt a
  | .ge => if n then !(a.ult b) else !(a.slt b)

/-- The word at a package-scope address. -/
def State.pkgWord (s : State) (a : Nat) : Word := BitVec.ofNat 32 (leNat (s.mem.cells.read a 4))

/-- The tokens of a mask are all complete or in error (R117). -/
def toksMet (mask : BitVec 8) (ts : List Tok) : Bool :=
  (List.range 8).all fun k => !mask.getLsbD k || (nth ts k ⟨0, false⟩).count == 0

/-- The barrier that a thread of a team meets: `tbar`, or `cbar` of its set or its own (R248). -/
def State.barrier? (s : State) (t : Team) (cluster : Bool) (n : Nat) : Option Bar :=
  if cluster then
    match (s.grid? t.grid).bind fun g => (g.setOf t.index).bind fun k => s.teamSet? g.id k with
    | some st => st.cbars.find? (·.num == n)
    | none => t.cbars.find? (·.num == n)
  else t.tbars.find? (·.num == n)

/-- A generation has completed: (GEN - g) is above 0 as a signed number (R274). -/
def genPassed (gen g : Word) : Bool := decide (0 < (gen - g).toInt)

/-! ## The chain (R161 to R164) -/

/-- A chain: its grid, the index of its first team, its teams and the threads of each (R161). -/
structure Chain where
  grid : Nat
  base : Nat
  teams : Nat
  per : Nat
deriving DecidableEq, Repr

def Chain.len (h : Chain) : Nat := h.teams * h.per

/-- The chain that a team's threads stand in: its set's present members, or the team alone. -/
def State.chainOf (s : State) (t : Team) : Chain :=
  match s.grid? t.grid with
  | none => ⟨t.grid, t.index, 1, 1⟩
  | some g =>
    match g.setOf t.index with
    | some k => ⟨g.id, k * g.lr.tset, min g.lr.tset (g.lr.teams - k * g.lr.tset), g.lr.threads⟩
    | none => ⟨g.id, t.index, 1, g.lr.threads⟩

/-- A thread's place in the chain. -/
def Chain.pos (h : Chain) (t : Team) (idx : Nat) : Nat := (t.index - h.base) * h.per + idx

/-- The chain slot at a place. A team that has retired leaves its slots with its set; every thread of it has exited. -/
def State.chainSlot (s : State) (h : Chain) (pos : Nat) : ChainSlot :=
  let team := h.base + pos / h.per
  let idx := pos % h.per
  match s.sched.teams.find? fun t => t.grid == h.grid && t.index == team with
  | some t => (t.chain.find? (·.idx == idx)).getD ⟨idx, 0, none, false⟩
  | none =>
    let sets := s.sched.sets.filter (·.grid == h.grid)
    (sets.findSome? fun k => (k.gone.find? fun p => p.1 == team && p.2.idx == idx).map (·.2)).getD ⟨idx, 0, none, true⟩

/-- The neighbour's place in a direction; at an end, the other end under `.wrap` (R161). -/
def Chain.next (h : Chain) (pos : Nat) (right wrap : Bool) : Option Nat :=
  if right then (if pos + 1 < h.len then some (pos + 1) else if wrap then some 0 else none)
  else if 0 < pos then some (pos - 1) else if wrap then some (h.len - 1) else none

/-- Is a thread's last publication still retained (R164)? -/
def State.retained (s : State) (h : Chain) (pos : Nat) : Bool :=
  match (s.chainSlot h pos).pub with
  | none => false
  | some (k, _) => [true, false].any fun r => (h.next pos r true).any fun q =>
      let n := s.chainSlot h q
      n.cnt < k && !n.exited

/-- Has the thread published for its next count (R163)? -/
def ChainSlot.published (c : ChainSlot) (k : Nat) : Bool := c.pub.any (·.1 == k)

/-- Can a chain NBR of the thread go on (R163, R164)? -/
def State.chainReady (s : State) (t : Team) (idx : Nat) (right wrap : Bool) : Bool :=
  let h := s.chainOf t
  let pos := h.pos t idx
  let me := s.chainSlot h pos
  let k := me.cnt + 1
  if !me.published k then !s.retained h pos
  else
    match h.next pos right wrap with
    | none => true
    | some q => (s.chainSlot h q).published k || (s.chainSlot h q).exited

/-- Is a fault still to be served? -/
def State.faultOpen (s : State) (k : FaultKey) : Bool := s.host.faults.any (·.key == k)

/-- Does the condition of a record's wait hold (R20, R28)? A record held for a move of its team or on its way from a peer
is not ready (R45, R46). -/
def State.waitMet (s : State) (r : Rec) : Bool :=
  r.bin.hold.isNone &&
  match r.wait with
  | .none | .cut _ => true
  | .token mask => toksMet mask r.toks
  | .word _ pa cc n b => iCond32 cc n (s.pkgWord pa) b
  | .counter _ pa b => iCond32 .ge true (s.pkgWord pa) b
  | .phase die d n =>
    (s.ctx? r.ctx).any fun c =>
      match die with
      | some p => serialLe n (s.pub c p d)
      | none => c.d.vdies.all fun v => (c.d.vdie v).all fun p => serialLe n (s.pub c p d)
  | .tbar bar gen => (s.team? r.team).any fun t => (s.barrier? t false bar).any fun b => genPassed b.gen gen
  | .cbar bar gen => (s.team? r.team).any fun t => (s.barrier? t true bar).any fun b => genPassed b.gen gen
  | .launchQ n => (s.team? r.team).any fun t => n < t.freed
  | .fault k => !s.faultOpen k
  | .neighbour right wrap => (s.team? r.team).any fun t => s.chainReady t r.idx right wrap

/-- Records of one key join one bin (R33). -/
def Rec.sameBin (a b : Rec) : Bool :=
  a.ctx == b.ctx && a.grid == b.grid && a.resume == b.resume && a.wb == b.wb && a.tl == b.tl &&
  (!a.tl || a.team == b.team) && (a.cut.map (·.serial)) == (b.cut.map (·.serial)) && a.bin.bind == b.bin.bind

/-- Did an event source deliver the record at readiness number `n`? A record that was ready at once when it was written,
under the number before, has none. -/
def Rec.delivered (r : Rec) (n : Nat) : Bool :=
  r.bin.ready && r.bin.since == n && r.bin.written + 1 != n &&
  match r.wait with
  | .none | .cut _ => false
  | _ => true

/-- The event source closes the bins to which it delivered a record just now and of whose key no record still waits
(R35). -/
def closeBins (n : Nat) (rs : List Rec) : List Rec :=
  rs.map fun r =>
    if r.bin.ready && r.bin.closed.isNone &&
        (rs.any fun q => q.delivered n && q.sameBin r && q.bin.cluster == r.bin.cluster) &&
        !(rs.any fun q => !q.bin.ready && q.sameBin r) then
      { r with bin := { r.bin with closed := some n } }
    else r

/-- Clear the barrier record of a thread when its AWAIT becomes ready (R274). -/
def clearArriver (team : Nat) (idx : Option Nat) (bar : Nat) (bs : List Bar) : List Bar :=
  bs.map fun b => if b.num = bar then { b with recs := b.recs.filter fun a => !(a.team == team && a.idx == idx) } else b

/-- Update the barriers that a team meets. -/
def State.updBars (s : State) (t : Team) (cluster : Bool) (f : List Bar → List Bar) : State :=
  if cluster then
    match (s.grid? t.grid).bind fun g => (g.setOf t.index).bind fun k => (s.teamSet? g.id k).map fun _ => (g.id, k) with
    | some (g, k) => s.updSet g k fun st => { st with cbars := f st.cbars }
    | none => s.updTeam t.uid fun t => { t with cbars := f t.cbars }
  else s.updTeam t.uid fun t => { t with tbars := f t.tbars }

def State.clearWaiter (s : State) (r : Rec) : State :=
  match s.team? r.team, r.wait with
  | some t, .tbar b _ => s.updBars t false (clearArriver t.uid (some r.idx) b)
  | some t, .cbar b _ => s.updBars t true (clearArriver t.uid (some r.idx) b)
  | _, _ => s

/-- Evaluate every waiting record; those whose condition holds become ready, and their source closes bins. Every crew
that waits in place tries again. -/
def State.rewake (s : State) : State :=
  let n := s.clock.nextId
  let woken := s.recs.filter fun r => !r.bin.ready && s.waitMet r
  let rs := s.recs.map fun r =>
    if !r.bin.ready && s.waitMet r then { r with bin := { r.bin with ready := true, since := n } } else r
  let s1 := woken.foldl State.clearWaiter s
  { s1 with
    recs := closeBins n rs,
    clock := { s1.clock with nextId := n + 1 },
    crews := s1.crews.map fun c => { c with pipe := { c.pipe with waiting := false } } }

/-- A package-scope write: one instant, then every waiting condition is evaluated (R115, R321). -/
def State.pkgWrite (s : State) (bs : List (Nat × Byte)) (who : Option (Nat × Nat) := none) : State :=
  if bs.isEmpty then s else { s with mem := s.mem.write bs who }.rewake

/-- A commit's lines enter the histories together (R324). -/
def State.commitWrite (s : State) (bs : List (Nat × Byte)) (who : Option (Nat × Nat)) : State :=
  { s with mem := s.mem.heal bs }.pkgWrite bs who

/-- A team by its grid and its index, which name it in the histories. -/
def Team.author (t : Team) : Nat × Nat := (t.grid, t.index)

/-! ## Commit buffers (R225, R226) -/

def lineOf (a : Nat) : Nat := a / 128 * 128

/-- A team's uncommitted byte, in its buffer or in a commit that has begun; a replay's kept bytes count too (R376). -/
def State.ownByte (s : State) (team a : Nat) : Option Byte :=
  match s.team? team with
  | none => none
  | some t =>
    match (t.buf.find? fun l => l.addr == lineOf a).bind fun l => l.bytes.lookup a with
    | some b => some b
    | none =>
      match ((s.eng.commits.filter (·.team == team)).findSome? fun k =>
          (k.lines.find? fun l => l.addr == lineOf a).bind fun l => l.bytes.lookup a) with
      | some b => some b
      | none => if t.audit.replay.isSome then t.audit.log.lookup a else none

/-- Put bytes into a line. -/
def putBytes (new old : List (Nat × Byte)) : List (Nat × Byte) :=
  new.foldl (fun l p => (p.1, p.2) :: l.filter (·.1 != p.1)) old

/-- Add bytes of one line and domain to a buffer. -/
def bufAdd (dom la : Nat) (bs : List (Nat × Byte)) : List Line → List Line
  | [] => [⟨la, dom, putBytes bs []⟩]
  | l :: ls => if l.addr = la then { l with bytes := putBytes bs l.bytes } :: ls else l :: bufAdd dom la bs ls

/-- Note bytes in the log of a run that may be audited (R377). -/
def auditAdd (bs : List (Nat × Byte)) (t : Team) : Team :=
  { t with audit := { t.audit with log := putBytes bs t.audit.log } }

/-- A write that enters a history outside a commit, a TDRAIN or a LAUNCH excludes the team from sampling (R373). -/
def State.exclude (s : State) (team : Nat) : State :=
  s.updTeam team fun t => { t with audit := { t.audit with excluded := true } }

/-- Is the team a replay, whose writes stay its own (R376)? -/
def State.isReplay (s : State) (team : Nat) : Bool := (s.team? team).any (·.audit.replay.isSome)

/-- The tags of a commit's lines: the PN copies on the base die under a core (R329). -/
def Ctx.tagsFor (c : Ctx) (core : Nat) (lines : List Line) : List (Nat × Word) :=
  (lines.map fun l => (l.dom, c.pnAt (baseOfDie (dieOf core)) l.dom)).eraseDups

/-- The ports that lines of a commit go to (R406). -/
def peerPorts (lines : List Line) : List Nat :=
  ((lines.filter fun l => isPeerPa l.addr).map fun l => peerPort l.addr).eraseDups

/-- Does every commit of the team so far have its commit point behind it (R324)? -/
def State.commitsDone (s : State) (team : Nat) : Bool := s.eng.commits.all fun k => k.team != team

/-- Mark loads of the team's threads that wrote these bytes: they see them from the commit point on (R323). -/
def noteSeen (now : Nat) (bs : List (Nat × Byte)) (seen : List (Nat × Nat)) (wrote : List Nat) :
    List (Nat × Nat) × List Nat :=
  let mine := wrote.filter fun w => bs.any fun p => p.1 / 4 * 4 == w
  ((mine.map fun w => (w, now)) ++ seen.filter (fun p => !mine.contains p.1), wrote.filter fun w => !mine.contains w)

def State.noteCommit (s : State) (team : Nat) (bs : List (Nat × Byte)) : State :=
  let now := s.mem.now
  { s with
    crews := s.crews.map fun c => { c with lanes := c.lanes.map fun l => l.map fun l =>
      if l.team == team then
        let p := noteSeen now bs l.seen l.wrote
        { l with seen := p.1, wrote := p.2 }
      else l },
    recs := s.recs.map fun r =>
      if r.team == team then
        let p := noteSeen now bs r.seen r.wrote
        { r with seen := p.1, wrote := p.2 }
      else r }

/-- The commit point of lines of a team: they enter the histories together, and count as a write of the grid (R324,
R352). A replay's lines enter no history (R376). -/
def State.publish (s : State) (team : Nat) (lines : List Line) : State :=
  let bs := lines.flatMap (·.bytes)
  match s.team? team with
  | some t =>
    let s1 := s.updTeam team (auditAdd bs)
    if t.audit.replay.isSome || bs.isEmpty then s1
    else ((s1.commitWrite bs (some t.author)).noteCommit team bs).updGrid t.grid fun g => { g with wrote := true }
  | none => s.commitWrite bs none

/-- A commit's lines for host pages are still on their way to the host's coherence point (R336). -/
def State.toHost (s : State) (crew : Option Nat) (lines : List Line) : State :=
  if lines.all fun l => !isHostPa l.addr then s
  else { s with clock := { s.clock with nextId := s.clock.nextId + 1 },
                eng := { s.eng with hostDue := s.eng.hostDue ++ [(s.clock.nextId, crew)] } }

/-- Take lines out of a team's buffer. -/
def State.takeLines (s : State) (team : Nat) (p : Line → Bool) : State × List Line :=
  match s.team? team with
  | none => (s, [])
  | some t => (s.updTeam team fun t => { t with buf := t.buf.filter fun l => !p l }, t.buf.filter p)

def State.clearRestart (s : State) (team : Nat) : State := s.updTeam team fun t => { t with restart := false }

/-- Send a transfer to a peer port: it stays until it is acknowledged (R405). -/
def State.sendPeer (s : State) (port : Nat) (grid : Option Nat) (what : XferFor) (body : FlitBody) : State :=
  s.updPort port fun p => { p with txSeq := p.txSeq + 1, unacked := p.unacked ++ [⟨p.txSeq, 0, grid, what, body⟩] }

/-- Has the peer answered everything that was sent for something? -/
def State.answered (s : State) (what : XferFor) : Bool := s.chip.ports.all fun p => p.unacked.all fun x => x.what != what

/-- The lines of peer pages among some bytes. -/
def peerLines (pas : List Nat) : List Nat := ((pas.filter isPeerPa).map lineOf).eraseDups

/-- Load lines from the peers (R406). -/
def State.askLines (s : State) (grid : Option Nat) (what : XferFor) (las : List Nat) : State :=
  las.foldl (fun s la => s.sendPeer (peerPort la) grid what (.load (peerCtx la) (peerVa la) 128)) s

/-- Have a peer perform an atomic on `n` bytes at its home slice (R406). -/
def State.askAtomic (s : State) (grid : Option Nat) (what : XferFor) (op : PeerOp) (n v : Nat) (pas : List Nat) : State :=
  match pas.head? with
  | some pa =>
    if isPeerPa pa then s.sendPeer (peerPort pa) grid what (.atomic (peerCtx pa) (peerVa pa) op (n == 8) (BitVec.ofNat 64 v))
    else s
  | none => s

/-- The lines of a commit as they travel to a peer (R406). -/
def flitCells (lines : List Line) (port : Nat) : List Host.Cell :=
  (lines.filter fun l => isPeerPa l.addr && peerPort l.addr == port).flatMap fun l => l.bytes.map fun b => (peerVa b.1, b.2)

/-- Begin a commit of some of a team's lines from a core (R324, R329); it is complete at its COMMIT_COMPLETE step. -/
def State.beginCommit (s : State) (team core : Nat) (crew : Option Nat) (p : Line → Bool) : State :=
  match s.team? team, (s.team? team).bind fun t => (s.grid? t.grid).bind fun g => s.ctx? g.ctx with
  | some t, some c =>
    let (s1, lines) := s.takeLines team p
    let ports := if t.audit.replay.isSome then [] else peerPorts lines
    let k : Commit := ⟨s1.clock.nextId, team, c.id, t.grid, crew, dieOf core, c.tagsFor core lines, lines, ports,
      t.audit.replay.isSome⟩
    let s2 := ports.foldl (fun s p =>
      s.sendPeer p (some t.grid) (.commit k.id) (.stores c.id k.tags (flitCells lines p))) s1
    { s2 with clock := { s2.clock with nextId := s2.clock.nextId + 1 },
              eng := { s2.eng with commits := s2.eng.commits ++ [k] } }
  | _, _ => s

/-- A forced or line commit, made inside the access that causes it (R226). With lines for a peer it only begins, and the
access waits for the acknowledgement; the answer says whether it is complete. -/
def State.commitNow (s : State) (team core : Nat) (crew : Option Nat) (p : Line → Bool) : State × Bool :=
  match s.team? team with
  | none => (s, true)
  | some t =>
    if !s.commitsDone team then (s, false)
    else if !(t.buf.any p) then (s, true)
    else if (t.buf.filter p).any fun l => isPeerPa l.addr then
      ((s.beginCommit team core crew p).clearRestart team, false)
    else
      let (s1, lines) := s.takeLines team p
      (((s1.publish team lines).toHost crew lines).clearRestart team, true)

/-! ## Chain slots (R162 to R165) -/

/-- The peers that have threads of a team, or that a team came from (R46). -/
def Team.peers (t : Team) : List Nat := (t.home.toList ++ t.away.map (·.2)).eraseDups

/-- A thread's chain slot. -/
def Team.slot (t : Team) (idx : Nat) : ChainSlot := (t.chain.find? (·.idx == idx)).getD ⟨idx, 0, none, false⟩

/-- Tell peers how a thread's chain slot stands (R165). -/
def State.tellChain (s : State) (team idx : Nat) (ports : List Nat) : State :=
  match s.team? team, (s.team? team).bind fun t => s.grid? t.grid with
  | some t, some g =>
    ports.foldl (fun s p => s.sendPeer p (some g.id) .none (.chain g.ctx g.gid t.index (t.slot idx))) s
  | _, _ => s

/-- Update a thread's chain slot; the peers that have threads of the team learn of it (R162, R165). -/
def State.setChain (s : State) (team idx : Nat) (f : ChainSlot → ChainSlot) : State :=
  (s.updTeam team fun t => { t with chain := putBy ChainSlot.idx (f (t.slot idx)) t.chain }).tellChain team idx
    (((s.team? team).map Team.peers).getD [])

end Sys2Proof.Machine
end

