-- ==== Sys2Proof/Machine/Operands.lean ====
section
/-! DEFINITION. Operands: what a register field names (R53, R55, R175), reading and writing lanes with their tags
(R57 to R59), frees (R58), the register pool (R200), and the checks on names (R54, R55, R86). -/

namespace Sys2Proof.Machine

/-- What a register field names under a window base, in kernel or handler mode (R53, R175). -/
inductive Name where
  | v (n : Nat)
  | s (n : Nat)
  | h (n : Nat)
  | zr
  | lid
  | lit (w : Word)
deriving DecidableEq, Repr

def nameOf (wb : Nat) (handler : Bool) : Rn → Name
  | .win n => if handler && n < 16 then .h n else .v (wb + n)
  | .sc n => .s n
  | .zr => .zr
  | .lid => .lid
  | .lit w => .lit w

/-- A name some registers above another. -/
def Name.plus : Name → Nat → Name
  | .v n, i => .v (n + i)
  | .s n, i => .s (n + i)
  | .h n, i => .h (n + i)
  | x, _ => x

/-- The poison value (R59). -/
def poisonWord : Word := 0x7FA5A5A5

/-- A number for each register that a long-latency instruction can write: `v` names as they are, then `s`, then `h`. -/
def Name.keys (nm : Name) (w : Nat) : List Nat :=
  match nm with
  | .v n => (List.range w).map (n + ·)
  | .s n => (List.range w).map (256 + n + ·)
  | .h n => (List.range w).map (512 + n + ·)
  | _ => []

/-- The register with a key. -/
def nameOfKey (k : Nat) : Name := if k < 256 then .v k else if k < 512 then .s (k - 256) else .h (k - 512)

/-- What the register with a key holds now. -/
def Crew.holding (c : Crew) (k : Nat) : Option Reg :=
  match nameOfKey k with
  | .v n => c.regs.find? (·.name == n)
  | .s n => (c.scal[n]?).map fun x => ⟨n, [x.v], if x.tag then 1 else 0⟩
  | .h n => c.hregs.find? (·.name == n)
  | _ => none

/-- What a lane reads of a destination while its lookahead window of a completed long-latency write is open: what the
name held before (R64). -/
def Crew.before (c : Crew) (key lane : Nat) : Option (Option Reg) :=
  match c.pipe.inflight.find? fun o => o.done && o.group.contains key && 0 < nth o.left lane 0 with
  | some o => ((o.group.zip o.prev).find? fun p => p.1 == key).map (·.2)
  | none => none

/-- The mapping that a lane reads for a `v` name (R57, R64). -/
def Crew.mapping (c : Crew) (n lane : Nat) : Option Reg :=
  (c.before n lane).getD (c.regs.find? (·.name == n))

/-- The `s` register that a lane reads. -/
def Crew.scalar (c : Crew) (n lane : Nat) : Scal :=
  match c.before (256 + n) lane with
  | some (some r) => ⟨nth r.vals 0 0, has r.tags 0⟩
  | _ => nth c.scal n ⟨0, true⟩

/-- One word of a named register in a lane, and whether the read is tagged (R59). `i` is the word of the group. -/
def Crew.readWord (c : Crew) (nm : Name) (i lane : Nat) (f64 : Bool) (w : Nat) : Word × Bool :=
  match nm with
  | .v n =>
    match c.mapping (n + i) lane with
    | some r => if has r.tags lane then (poisonWord, true) else (nth r.vals lane 0, false)
    | none => (poisonWord, true)
  | .h n =>
    match c.hregs.find? (·.name == n + i) with
    | some r => if has r.tags lane then (poisonWord, true) else (nth r.vals lane 0, false)
    | none => (0, false)
  | .s n =>
    let x := c.scalar (n + i) lane
    if x.tag then (poisonWord, true) else (x.v, false)
  | .zr => (0, false)
  | .lid => (if i = 0 then BitVec.ofNat 32 lane else 0, false)
  | .lit x =>
    if w = 1 || (!f64 && i = 0) then (x, false)
    else if f64 then (if i + 1 = w then x else 0, false)
    else (if x.msb then 0xFFFFFFFF else 0, false)

/-- A source operand of an instruction: the slot that captures it (0 for A, 1 for B, 2 for C), its field, its size in
words, its last-use bit, and whether a literal is an FP64 one (R55). -/
structure Use where
  slot : Nat
  r : Rn
  w : Nat
  lu : Bool
  f64 : Bool
deriving DecidableEq, Repr

/-- The operands of an instruction: the destination with its size in words, and the sources in the order A, B, C. -/
structure Shape where
  dst : Option (Rn × Nat)
  srcs : List Use
deriving DecidableEq, Repr

/-- Captured operands per lane (R179). -/
structure Opn where
  a : List DWord
  b : List DWord
  c : List DWord
deriving DecidableEq, Repr

def Opn.fa (o : Opn) (lane : Nat) : DWord := nth o.a lane 0
def Opn.fb (o : Opn) (lane : Nat) : DWord := nth o.b lane 0
def Opn.fc (o : Opn) (lane : Nat) : DWord := nth o.c lane 0
/-- The low words. -/
def Opn.wa (o : Opn) (lane : Nat) : Word := (o.fa lane).truncate 32
def Opn.wb (o : Opn) (lane : Nat) : Word := (o.fb lane).truncate 32
def Opn.wc (o : Opn) (lane : Nat) : Word := (o.fc lane).truncate 32

/-- Word `i` of a 64-bit value. -/
def wordOf (x : DWord) (i : Nat) : Word := (x >>> (32 * i)).truncate 32
/-- Two words as a 64-bit value, the low one first (R87). -/
def dword (lo hi : Word) : DWord := hi.zeroExtend 64 <<< 32 ||| lo.zeroExtend 64

/-! ## Checks on names (R54, R55, R86 steps 2 and 3) -/

/-- The size of a group a name can hold: aligned to its size for pairs and quads. -/
def alignOf (w : Nat) : Nat := if w = 2 then 2 else if w = 4 then 4 else 1

/-- Does a group reach the register budget (REGNAME)? -/
def overBudget (c : Crew) (handler : Bool) (r : Rn) (w : Nat) : Bool :=
  match nameOf c.wb handler r with
  | .v n => c.budget < n + w
  | _ => false

/-- Is a group misaligned, or does it run past the last name (ILLOPND)? `al` is the alignment it needs. -/
def badGroup (c : Crew) (handler : Bool) (r : Rn) (w al : Nat) : Bool :=
  match nameOf c.wb handler r with
  | .v n => n % al != 0 || c.wb + 112 < n + w
  | .h n => n % al != 0 || 16 < n + w
  | .s n => n % al != 0 || 12 < n + w
  | _ => false

/-- The first of the name checks that fails: a code of R197. -/
def nameCheck (c : Crew) (handler : Bool) (gs : List (Rn × Nat × Nat)) : Option Nat :=
  if gs.any fun g => overBudget c handler g.1 g.2.1 then some 0x10
  else if gs.any fun g => badGroup c handler g.1 g.2.1 g.2.2 then some 0x02
  else none

/-- The register groups of a shape with their alignment. -/
def Shape.groups (sh : Shape) : List (Rn × Nat × Nat) :=
  (sh.dst.toList.map fun d => (d.1, d.2, alignOf d.2)) ++ sh.srcs.map fun u => (u.r, u.w, alignOf u.w)

/-! ## Reading -/

/-- The words a use reads in a lane, and whether any is tagged. -/
def Crew.readUse (c : Crew) (handler : Bool) (u : Use) (lane : Nat) : List Word × Bool :=
  let ws := (List.range u.w).map fun i => c.readWord (nameOf c.wb handler u.r) i lane u.f64 u.w
  (ws.map (·.1), ws.any (·.2))

/-- The 64-bit value of the first two words. -/
def dwordOf (ws : List Word) : DWord := dword (nth ws 0 0) (nth ws 1 0)

/-- The captured operand of a slot, for every lane of the crew; lanes outside ACTIVE read nothing and hold 0. -/
def Crew.capture (c : Crew) (handler : Bool) (act : LaneMask) (srcs : List Use) (slot : Nat) : List DWord :=
  (List.range c.width).map fun lane =>
    if !has act lane then 0
    else
      match srcs.find? (·.slot == slot) with
      | some u => dwordOf (c.readUse handler u lane).1
      | none =>
        match slot, srcs.find? fun u => u.slot == 1 && u.w == 4 with
        | 2, some u => dwordOf ((c.readUse handler u lane).1.drop 2)
        | _, _ => 0

def Crew.captureAll (c : Crew) (handler : Bool) (act : LaneMask) (srcs : List Use) : Opn :=
  ⟨c.capture handler act srcs 0, c.capture handler act srcs 1, c.capture handler act srcs 2⟩

/-- The register field value of the first tagged read of a lane, in the order A, B, C (R60). -/
def Crew.taggedField (c : Crew) (handler : Bool) (srcs : List Use) (lane : Nat) : Option Nat :=
  (srcs.find? fun u => (c.readUse handler u lane).2).map (·.r.code)

/-- POISONST after a tagged read of a field (R60). -/
def PoisonSt.mark (p : PoisonSt) (field : Nat) : PoisonSt := if p.st then p else ⟨true, true, field⟩

/-! ## The register pool (R57, R199, R200) -/

/-- Registers a crew holds: its mappings, destinations of long-latency work not complete, frees held back. -/
def Crew.used (c : Crew) : Nat :=
  c.regs.length + ((c.pipe.inflight.filter fun o => !o.done).map fun o => (o.group.filter (· < 256)).length).sum +
    (c.pipe.held.map (·.2)).sum

/-- The rows granted to a grid on a core: those of its teams, and those granted for its records alone (R34, R199). -/
def State.rowsOn (s : State) (grid core : Nat) : Nat :=
  ((s.sched.teams.filter fun t => t.grid == grid && t.core == core).map (·.res.rows)).sum +
  ((s.sched.grants.filter fun g => g.1 == grid && g.2.1 == core).map (·.2.2)).sum

/-- Free crew registers of a crew's pool. A Cox context has its own 256 (R252). -/
def State.poolFree (s : State) (c : Crew) : Nat :=
  if c.cox.isSome then 256 - c.used
  else
    let rows := s.rowsOn c.grid c.core
    let used := ((s.crews.filter fun d => d.cox.isNone && d.grid == c.grid && d.core == c.core).map Crew.used).sum
    rows * (64 / max c.width 1) - used

/-- The `v` names a group holds. -/
def vNames (nm : Name) (w : Nat) : List Nat :=
  match nm with
  | .v n => (List.range w).map (n + ·)
  | _ => []

/-- Can a trap, a fault or a record still bring back a mapping that the issue with a serial freed (R200): has a
long-latency issue up to it not passed translation, or is a record of R22 still to be written? -/
def Crew.holdsFrees (c : Crew) (serial : Nat) : Bool :=
  (c.pipe.inflight.any fun o => !o.translated && o.entry.serial ≤ serial) ||
  c.lanes.any fun l => l.any fun l => l.ending.any (·.regs.isSome)

/-- Free the mappings of names (R58); the registers return to the pool at once or are held back (R200). -/
def Crew.free (c : Crew) (ns : List Nat) : Crew :=
  let gone := (c.regs.filter fun r => ns.contains r.name).length
  { c with
    regs := c.regs.filter fun r => !ns.contains r.name,
    pipe := { c.pipe with
      held := if gone ≠ 0 && c.holdsFrees c.pipe.serial then (c.pipe.serial, gone) :: c.pipe.held else c.pipe.held } }

/-- Give back the held registers whose mappings nothing can bring back any more (R200). -/
def Crew.release (c : Crew) : Crew :=
  { c with pipe := { c.pipe with held := c.pipe.held.filter fun p => c.holdsFrees p.1 } }

/-- The names that the last-use bits of a shape free. -/
def Shape.frees (sh : Shape) (c : Crew) (handler : Bool) : List Nat :=
  (sh.srcs.filter (·.lu)).flatMap fun u => vNames (nameOf c.wb handler u.r) u.w

/-! ## Writing -/

/-- Insert a register in name order. -/
def insReg (r : Reg) : List Reg → List Reg
  | [] => [r]
  | q :: qs => if r.name < q.name then r :: q :: qs else if q.name = r.name then r :: qs else q :: insReg r qs

/-- A register with the lanes of a set written. -/
def Reg.write (r : Reg) (width : Nat) (act : LaneMask) (f : Nat → Word) : Reg :=
  { r with
    vals := (List.range width).map fun n => if has act n then f n else nth r.vals n 0,
    tags := r.tags &&& ~~~act }

/-- A newly allocated register: tagged in every lane (R59). -/
def Reg.new (n width : Nat) : Reg := ⟨n, (List.range width).map fun _ => 0, BitVec.allOnes 64⟩

/-- Write one named register in the lanes of a set (R54, R57, R59). Nothing is written when the set is empty. -/
def Crew.writeName (c : Crew) (nm : Name) (act : LaneMask) (f : Nat → Word) : Crew :=
  if act == 0 then c
  else
    match nm with
    | .v n =>
      let r := (c.regs.find? (·.name == n)).getD (Reg.new n c.width)
      { c with regs := insReg (r.write c.width act f) c.regs }
    | .h n =>
      let r := (c.hregs.find? (·.name == n)).getD ⟨n, (List.range c.width).map fun _ => 0, 0⟩
      { c with hregs := insReg (r.write c.width act f) c.hregs }
    | .s n =>
      match lowest act with
      | some l => { c with scal := setNth c.scal n ⟨f l, false⟩ }
      | none => c
    | _ => c

/-- Write a group of `w` registers: word `i` of lane `l` is `f l i`. -/
def Crew.writeGroup (c : Crew) (nm : Name) (w : Nat) (act : LaneMask) (f : Nat → Nat → Word) : Crew :=
  (List.range w).foldl (fun c i => c.writeName (nm.plus i) act fun l => f l i) c

/-- How many registers a write of the group allocates: names without a mapping, or every name for a long-latency
instruction (R57). -/
def Crew.allocs (c : Crew) (nm : Name) (w : Nat) (ll : Bool) : Nat :=
  if ll then (vNames nm w).length else ((vNames nm w).filter fun n => !(c.regs.any (·.name == n))).length

end Sys2Proof.Machine
end

