-- ==== Sys2Proof/Machine/Ops.lean ====
section
/-! DEFINITION. The operations that meanings share: the checks of an issue in the order of R86, retiring an issue,
raising and delivering traps and emulation entries (R178 to R181, R191), segment ends (R20), and ending grids and
contexts (R176). -/

namespace Sys2Proof.Machine

/-! ## Cause codes (R197) -/

def ILLINSTR : Nat := 0x01
def ILLOPND : Nat := 0x02
def MISALIGN : Nat := 0x03
def PAGEFLT : Nat := 0x04
def PROT : Nat := 0x05
def SCRATCH_BOUND : Nat := 0x06
def POISON : Nat := 0x07
def TILE_UNCFG : Nat := 0x08
def KEY_DENSE : Nat := 0x09
def RECON : Nat := 0x0B
def ECCU : Nat := 0x0C
def EMU_NEST : Nat := 0x0D
def BKPTC : Nat := 0x0E
def TRAPI : Nat := 0x0F
def REGNAME : Nat := 0x10
def GATHER_BOUND : Nat := 0x11
def KEY_STALEPROJ : Nat := 0x12
def LINK_LOSS : Nat := 0x13
def AUDIT_MISMATCH : Nat := 0x14

/-- TRAPCAUSE of a code, an argument and a grade (R177). -/
def causeWord (grade arg code : Nat) : Word := BitVec.ofNat 32 (grade * 2 ^ 13 + arg % 128 * 2 ^ 6 + code % 64)

/-! ## The health page (R408) -/

def Health.bump (h : Health) (i n : Nat) : Health := { h with counts := h.counts.set i (nth h.counts i 0 + n) }

/-- Record an event; the page keeps the last 256. -/
def Health.note (h : Health) (e : Event) : Health :=
  { h with evcount := h.evcount + 1, events := (e :: h.events).take 256 }

def State.event (s : State) (code ctx grid team : Nat) (cls : List Nat) : State :=
  s.updHealth fun h => (h.note ⟨code, ctx, grid, team, cls⟩).bump 1 (if code / 8192 % 8 = 0 && code < 256 then 1 else 0)

/-! ## The lanes of an issue -/

/-- The handler depth of a set of lanes; all lanes of one issue share it (R174). That of no lane, which a re-injected entry
may be left with, is the depth at which the crew issues. -/
def Crew.depthAt (c : Crew) (m : LaneMask) : Nat :=
  match (lowest m).bind c.lane with
  | some l => l.depth
  | none => c.depth

/-- The team that a lane's accesses belong to: the lane's own, or the Cox context's (R252). -/
def Crew.teamOf (c : Crew) (lane : Nat) : Nat :=
  match c.cox with
  | some t => t
  | none => ((c.lane lane).map (·.team)).getD 0

/-- The teams with a lane in a set, each once, by their lowest lanes. -/
def Crew.teamsIn (c : Crew) (m : LaneMask) : List Nat := ((lanesOf m).map c.teamOf).eraseDups

/-- A crew that can end no segment where it stands: a Cox context, handler mode, or a re-injection (R175, R188, R252). -/
def mustStay (c : Crew) (i : Issue) : Bool := c.cox.isSome || 0 < c.depthAt i.s || i.entry.isSome

/-- Wait in place: nothing of this issue has happened, and it is tried again. -/
def waitHere {α : Type} : Act α := do
  modCrew fun c => { c with pipe := { c.pipe with waiting := true } }
  stop

def Crew.ckpt (c : Crew) : Ckpt := ⟨c.regs, c.scal, c.hregs, c.lanes, c.wb, c.fpcr, c.memdef⟩

/-- An issue as a replay entry (R179). -/
def entryOf (c : Crew) (i : Issue) (o : Opn) : Entry :=
  match i.entry with
  | some e => e
  | none =>
    { serial := c.pipe.serial, pc := i.pc, len := i.raw.len, grdW := (grdWord i.raw.pfx).getD 0,
      preW := (pfxWord i.raw.pfx).getD 0, w0 := i.raw.w0, w1 := i.raw.w1, lit := i.raw.lit, part := i.act, s := i.s,
      a := o.a, b := o.b, c := o.c, written := false, cut := false, badPfx := firstBreak 0 i.raw.pfx,
      runs := c.lanes.map fun l => l.bind (·.run) }

/-- The guarded run after one more of its issues (R68). -/
def Run.next (r : Run) : Option Run := if r.left ≤ 1 then none else some { r with left := r.left - 1 }

/-- One issue less in every open window of the lanes; completed work whose windows have closed is forgotten (R63). -/
def Crew.tick (c : Crew) (m : LaneMask) : Crew :=
  let ops := c.pipe.inflight.map fun o => { o with left := o.left.mapIdx fun n k => if has m n then k - 1 else k }
  { c with pipe := { c.pipe with inflight := ops.filter fun o => !(o.done && o.left.all (· == 0)) } }

/-- Close every window of the lanes (R63). -/
def Crew.closeWindows (c : Crew) (m : LaneMask) : Crew :=
  let ops := c.pipe.inflight.map fun o => { o with left := o.left.mapIdx fun n k => if has m n then 0 else k }
  { c with pipe := { c.pipe with inflight := ops.filter fun o => !(o.done && o.left.all (· == 0)) } }

/-- Does an issue of the crew that has not passed translation precede? -/
def Crew.untranslated (c : Crew) : Bool := c.pipe.inflight.any fun o => !o.translated

/-- Must an issue for the lanes `m` wait for translation, before any check of it (R178): a lane of it is beyond all open
windows and an earlier long-latency issue of the lane has not passed translation, or 15 issues already follow the oldest
one that has not? -/
def Crew.waitsTranslation (c : Crew) (m : LaneMask) : Bool :=
  ((lanesOf m).any fun n => (c.pipe.inflight.all fun o => nth o.left n 0 == 0) &&
    c.pipe.inflight.any fun o => !o.translated && has o.entry.s n) ||
  (c.pipe.inflight.find? fun o => !o.translated).any fun o =>
    15 ≤ (c.pipe.issued.filter fun e => o.entry.serial < e.serial).length

/-- R19 has noted the issue, with the lanes chosen for it. A re-injected entry was not chosen. -/
def Crew.noteSel (c : Crew) (i : Issue) : Crew :=
  if i.entry.isSome then c else { c with sel := c.sel.after i.yl i.elig i.chosen }

/-- The crew after an issue: the issuing lanes stand at the next issue, their runs and windows have counted it, R19 has
noted it, and a later trap can capture it (R19, R48, R63, R68, R179). A re-injected entry leaves the queue. -/
def Crew.advance (c : Crew) (i : Issue) (e : Entry) : Crew :=
  let noted := if c.untranslated then c.pipe.issued ++ [e] else []
  match i.entry with
  | some _ => { c with pipe := { c.pipe with reinj := c.pipe.reinj.drop 1, issued := noted, stage := 0, desc := [] } }
  | none =>
    let c1 := c.mapLanes i.s fun _ l =>
      { l with pc := i.pc + 4 * i.raw.len, run := (i.grd.orElse fun _ => l.run).bind Run.next, unres := [],
               faultOn := none }
    { c1.tick i.s with
      sel := c.sel.after i.yl i.elig i.chosen,
      pipe := { (c1.tick i.s).pipe with issued := noted, serial := c.pipe.serial + 1, park := none, stage := 0, desc := [] } }

/-! ## Ending grids and contexts (R176) -/

/-- A grid that stands for an entry discarded before its grid placed a team: it completes with KIND 4 (R347, R352). -/
def ghostGrid (id ctx addr ctr : Nat) (fin : EndStatus) : Grid :=
  { id := id, gid := id, shadow := none, ctx := ctx, addr := addr,
    lr := ⟨0, 1, 1, 1, 1, 1, 1, 8, 1, 0, 0, 1, 0, 0, ctr, 0, false⟩,
    roles := [], idem := [], cox := none, prio := 0, order := id, parent := none, slot := none, next := 0, stop := 0, retired := 0,
    fin := some fin, wrote := false, unres := [] }

/-- Discard the entries of a team's pending-launch queue (R347): each completes with KIND 4. -/
def State.dropLaunches (s : State) (ctx : Nat) : List PendLaunch → State
  | [] => s
  | p :: ps =>
    let s1 :=
      match p.grid with
      | some g => s.updGrid g fun g => if g.fin.isNone then { g with fin := some ⟨4, 0, if g.wrote then 3 else 2, 0⟩ } else g
      | none =>
        let g := ghostGrid s.clock.nextId ctx p.addr (fld p.bytes 0x28 8) ⟨4, 0, 2, 0⟩
        { s with clock := { s.clock with nextId := s.clock.nextId + 1 },
                 sched := { s.sched with grids := s.sched.grids ++ [g] } }
    s1.dropLaunches ctx ps

/-- Take the lanes of a team out of a crew. -/
def Crew.without (c : Crew) (team : Nat) : Crew :=
  let m := maskOf fun n => (c.lane n).any (·.team == team)
  { c with
    lanes := c.lanes.map fun l => if l.any (·.team == team) then none else l,
    pipe := { c.pipe with
      inflight := c.pipe.inflight.map fun o => { o with
        entry := { o.entry with part := o.entry.part &&& ~~~m, s := o.entry.s &&& ~~~m },
        left := o.left.mapIdx fun n k => if has m n then 0 else k },
      reinj := c.pipe.reinj.map fun e => { e with part := e.part &&& ~~~m },
      traps := c.pipe.traps.filter fun t => (t.s &&& ~~~m) != 0 || (t.s &&& m) == 0 },
    lv := { c.lv with cur := { c.lv.cur with rpq := c.lv.cur.rpq.map fun e => { e with part := e.part &&& ~~~m } } } }

/-- End everything a team runs: its lanes, records, Cox context, uncommitted lines, copies, engine work and pending
launches (R176, R229, R365). Drains it issued and commits that have begun go on (R324, R365). -/
def State.endTeamWork (s : State) (uid : Nat) : State :=
  match s.team? uid with
  | none => s
  | some t =>
    let ctx := ((s.grid? t.grid).map (·.ctx)).getD 0
    let s1 := s.dropLaunches ctx t.launchQ
    let s2 := s1.updTeam uid fun t => { t with buf := [], launchQ := [], coxLive := false, chans := [], fwdTo := none }
    { s2 with
      crews := (s2.crews.filter fun c => c.cox != some uid).filterMap fun c =>
        let d := c.without uid
        if c.cox.isNone && d.lanes.all Option.isNone then none else some d,
      recs := s2.recs.filter fun r => r.team != uid,
      eng := { s2.eng with
        copies := s2.eng.copies.filter fun k => k.team != uid,
        sops := s2.eng.sops.filter fun k => k.team != uid,
        mxops := s2.eng.mxops.filter fun k => k.issuer != uid && k.target != uid,
        kops := s2.eng.kops.filter fun k => k.team != uid } }

/-- Take a team off the chip: its resources and its Boathouse reservation are returned. -/
def State.dropTeam (s : State) (uid : Nat) : State :=
  match s.team? uid with
  | none => s
  | some t =>
    let ctx := ((s.grid? t.grid).map (·.ctx)).getD 0
    let s1 := { s with sched := { s.sched with teams := s.sched.teams.filter (·.uid != uid) } }
    s1.updCtx ctx fun c => { c with reserved := c.reserved - t.res.area }

/-- A grid ends by a fault (R176): no further team, its crews and records gone, its teams' lines dropped; GRID_COMPLETE
then writes the status. The first end of a grid stands. -/
def State.endGrid (s : State) (g : Nat) (fin : EndStatus) : State :=
  match s.grid? g with
  | none => s
  | some gr =>
    if gr.fin.isSome then s
    else
      let mine := g :: ((s.sched.grids.filter fun h => h.shadow == some g).map (·.id))
      let uids := (s.sched.teams.filter fun t => mine.contains t.grid).map (·.uid)
      let s1 := uids.foldl (fun s u => (s.endTeamWork u).dropTeam u) s
      let s2 := s1.updSched fun d => { d with
        sets := d.sets.filter fun k => !mine.contains k.grid,
        grids := d.grids.filter fun h => h.shadow != some g,
        replays := d.replays.filter fun r => r.grid != g }
      let s3 := s2.updGrid g fun x => { x with fin := some fin }
      (if gr.shadow.isSome then s3
        else s3.event (fin.grade * 8192 + fin.cause % 8192) gr.ctx gr.gid 0 []).rewake

/-- A context fault (R176): every grid ends with the status, and the context is suspended and reported. -/
def State.endContext (s : State) (ctx grade cause : Nat) : State :=
  let gs := (s.sched.grids.filter fun g => g.ctx == ctx && g.fin.isNone).map (·.id)
  let s1 := gs.foldl (fun s g => s.endGrid g ⟨3, 0, grade, cause⟩) s
  (s1.updCtx ctx fun c => { c with suspended := true }).event (grade * 8192 + cause) ctx 0 0 []

/-- A context fault raised in a grid; in a replay it ends the replay alone (R376). -/
def State.faultContext (s : State) (ctx g : Nat) (grade cause : Nat) : State :=
  if (s.grid? g).any (·.shadow.isSome) then s.endGrid g ⟨3, 0, grade, cause⟩
  else s.endContext ctx grade cause

/-- Grade P: G2 while the team can restart, else G3 (R197). -/
def State.gradeP (s : State) (team : Nat) : Nat := if (s.team? team).any (·.restart) then 2 else 3

/-! ## Delivery (R179 to R181, R191) -/

/-- Put back the lanes' predicates, poison state, PREOFF and domain; where they stand and their tokens stay. A lane whose
segment has ended keeps what it ended with. -/
def restoreLane (now old : Option Lane) : Option Lane :=
  match now, old with
  | some l, some o =>
    if l.team = o.team && l.idx = o.idx && l.ending.isNone then
      some { l with preds := o.preds, poison := o.poison, preoff := o.preoff, dom := o.dom }
    else some l
  | l, _ => l

def Crew.restore (c : Crew) (k : Ckpt) : Crew :=
  { c with regs := k.regs, scal := k.scal, hregs := k.hregs, wb := k.wb, fpcr := k.fpcr, memdef := k.memdef,
           lanes := c.lanes.mapIdx fun n l => restoreLane l ((k.lanes[n]?).join) }

/-- A handler register name of the level that issued an emulated word, for preloading (R191). -/
def Crew.preload (c : Crew) (handler : Bool) (f i lit lane : Nat) : Word × Bool :=
  match srcRn f lit with
  | none => (0, false)
  | some r =>
    match nameOf c.wb handler r with
    | .lid => (if i = 0 then BitVec.ofNat 32 lane else 0, false)
    | .lit w => (if i = 0 then w else 0, false)
    | .zr => (0, false)
    | .v n => if c.wb + 111 < n + i || c.budget ≤ n + i then (0, false) else c.readWord (.v n) i lane false 4
    | .s n => if 11 < n + i then (0, false) else c.readWord (.s n) i lane false 4
    | .h n => if 15 < n + i then (0, false) else c.readWord (.h n) i lane false 4

/-- The word and tag that handler register `n` starts with: 0 at a trap, but the query address in `h0`:`h1` at KEY_DENSE
(R181, R387, log entry 44); the preloaded operands at an emulation (R191). -/
def Crew.startH (c : Crew) (handler : Bool) (t : Trap) (n lane : Nat) : Word × Bool :=
  if !t.emul then (if n < 2 then wordOf (nth t.query lane 0) n else 0, false)
  else
    match t.entry with
    | none => (0, false)
    | some e =>
      let lit := e.lit.getD 0
      if n < 4 then c.preload handler (fA e.w0) n lit lane
      else if n < 8 then c.preload handler (fB e.w0) (n - 4) lit lane
      else if n < 12 then
        match e.w1 with
        | some w1 => c.preload handler (fC w1) (n - 8) lit lane
        | none => (0, false)
      else if n = 12 then (BitVec.ofNat 32 lit, false)
      else (0, false)

/-- The handler registers at an entry of the lanes `m`: new values there, the other lanes' kept. -/
def Crew.enterH (c : Crew) (m : LaneMask) (f : Nat → Nat → Word × Bool) : List Reg :=
  (List.range 16).map fun n =>
    let r := (c.hregs.find? (·.name == n)).getD ⟨n, (List.range c.width).map fun _ => 0, 0⟩
    { r with
      vals := (List.range c.width).map fun l => if has m l then (f n l).1 else nth r.vals l 0,
      tags := (r.tags &&& ~~~m) ||| (m &&& maskOf fun l => (f n l).2) }

/-- A lane's handler registers, as its save slot keeps them (R182). -/
def Crew.laneH (c : Crew) (lane : Nat) : List (Word × Bool) :=
  (List.range 16).map fun n => c.readWord (.h n) 0 lane false 1

/-- Enter a handler at a vector for a trap or an emulation (R181, R191). `later` is the replay queue behind it. -/
def Crew.enter (c : Crew) (t : Trap) (grade vec : Nat) (later : List Entry) : Crew :=
  let d := c.depthAt t.s
  let hs := c.enterH t.s (c.startH (0 < d) t)
  let old := c.lv.cur
  let fr : Frame :=
    if t.emul then
      { old with masked := true, pmasked := old.masked, emask := t.emask, eop := t.eop, efields := t.efields,
                 eimm := t.eimm, epfx := t.epfx, epc := BitVec.ofNat 64 t.pc, rpq := [], elen := t.len,
                 yielded := c.sel.yielded, last := c.sel.last, n := c.sel.n }
    else
      { old with masked := true, pmasked := old.masked, cause := causeWord grade t.arg t.code,
                 trappc := BitVec.ofNat 64 t.pc, emask := t.emask, rpq := t.entry.toList ++ later,
                 yielded := c.sel.yielded, last := c.sel.last, n := c.sel.n }
  let c1 := c.mapLanes t.s fun n l =>
    { l with depth := l.depth + 1, saves := ⟨l.run, l.pc⟩ :: l.saves, run := none, pc := vec, ending := none,
             hsave := if 0 < d then c.laneH n else l.hsave }
  { c1 with
    hregs := hs,
    sel := Sel.fresh,
    lv := { cur := fr, saved := if 0 < d then some old else c.lv.saved,
            k1 := if d = 0 then t.emul else c.lv.k1, k2 := if d = 0 then c.lv.k2 else t.emul } }

/-- Is the oldest raised trap due: has every issue before it completed (R180)? -/
def Crew.trapDue (c : Crew) : Option Trap :=
  match c.pipe.traps with
  | [] => none
  | t :: _ => if c.pipe.inflight.any fun o => o.entry.serial < t.serial && !o.done then none else some t

/-- The lanes of a captured branch that is the youngest captured issue of theirs stand behind it, as if it had not been
taken, until it is re-injected (R187). -/
def Crew.rewind (c : Crew) : List Entry → Crew
  | [] => c
  | e :: later =>
    let young := e.s &&& ~~~(later.foldl (fun m x => m ||| x.s) 0)
    (if 0x78 ≤ fOp e.w0 && fOp e.w0 ≤ 0x7A then c.mapLanes young fun _ l => { l with pc := e.pc + 4 * e.len } else c).rewind later

/-- A segment end that an issue behind the trapping one brought about is no more; one made before it, or at a page fault,
stands (R22, R179). -/
def Crew.revive (c : Crew) (t : Trap) : Crew :=
  c.mapLanes (BitVec.allOnes 64) fun n l =>
    if has t.s n || (((t.ckpt.lanes[n]?).join.any (·.ending.isNone)) && l.ending.any (·.regs.isNone)) then
      { l with ending := none }
    else l

/-- A lane's count for a token, changed (R218, R220). -/
def Lane.tokCount (l : Lane) (k : Nat) (f : Nat → Nat) : Lane :=
  let t := nth l.toks k ⟨0, false⟩
  { l with toks := setNth l.toks k { t with count := f t.count } }

/-- Take back the counts of copies whose issue is discarded in the lanes `m` (R22, R179). -/
def Crew.undoTokens (c : Crew) (os : List LongOp) (m : LaneMask) : Crew :=
  os.foldl (fun c o => match o.instr with
    | .cpy _ _ _ tok _ _ _ _ _ =>
      if o.done then c else c.mapLanes (o.entry.part &&& m) fun _ l => l.tokCount tok.toNat (· - 1)
    | _ => c) c

/-- Deliver a trap or an emulation entry of a crew: TAKING AN EXCEPTION (R176, R179, R181, R191). -/
def State.deliver (s : State) (k : Nat) (t : Trap) : State :=
  match s.crew? k, (s.crew? k).bind fun c => s.ctx? c.ctx with
  | some c, some cx =>
    let grade := t.grade
    let cause := (causeWord 0 t.arg t.code).toNat
    let d := c.depthAt t.s
    if !t.emul && 0 < d && c.lv.cur.masked then s.faultContext cx.id c.grid grade cause
    else if 2 ≤ d then s.faultContext cx.id c.grid (s.gradeP (c.teamOf ((lowest t.s).getD 0))) EMU_NEST
    else if !t.emul && cx.d.trapvec = 0 then s.endGrid c.grid ⟨2, 0, grade, cause⟩
    else
      let later := (c.pipe.issued.filter fun e => t.serial < e.serial) ++ c.pipe.reinj
      let c1 := ((c.revive t).restore t.ckpt).rewind later
      let gone := c.pipe.inflight.filter fun o => t.serial < o.entry.serial
      let c1 := c1.undoTokens gone (BitVec.allOnes 64)
      let c2 : Crew :=
        { c1 with pipe := { c1.pipe with
            inflight := c1.pipe.inflight.filter fun o => o.entry.serial < t.serial,
            issued := [], reinj := [], traps := [], held := c1.pipe.held.filter fun p => p.1 < t.serial,
            later := c1.pipe.later ++ c1.pipe.traps.filter fun u => u.serial != t.serial } }
      let c3 := match t.tok with
        | some n => c2.mapLanes t.emask fun _ l =>
            { l with toks := setNth l.toks n { (nth l.toks n ⟨0, false⟩) with err := false } }
        | none => c2
      s.setCrew ((c3.closeWindows t.s).enter t grade (if t.emul then cx.d.emuvec else cx.d.trapvec) later)
  | _, _ => s

/-- Deliver the oldest trap of a crew if it is due. -/
def State.deliverDue (s : State) (k : Nat) : State :=
  match (s.crew? k).bind Crew.trapDue with
  | some t => s.deliver k t
  | none => s

/-- Keep raised traps in the program order of their issues (R180). -/
def insTrap (t : Trap) : List Trap → List Trap
  | [] => [t]
  | u :: us => if t.serial < u.serial then t :: u :: us else u :: insTrap t us

/-- Queue a trap of a crew and deliver it when nothing before it is outstanding. -/
def State.queueTrap (s : State) (k : Nat) (t : Trap) : State :=
  (s.updCrew k fun c => { c with pipe := { c.pipe with traps := insTrap t c.pipe.traps } }).deliverDue k

/-- The fields that an emulation entry reports of an issue (R177, R191). -/
def eFields (w0 : Nat) (w1 : Option Nat) : Word × Word × Word :=
  let v1 := w1.getD 0
  (BitVec.ofNat 32 (fSub v1 * 256 + fOp w0),
   BitVec.ofNat 32 ((if w1.isSome then 2 ^ 31 else 0) + fD w0 * 2 ^ 24 + fA w0 * 2 ^ 17 + fB w0 * 2 ^ 10 +
     fC v1 * 2 ^ 3 + b1 (fLA w0) * 4 + b1 (fLB w0) * 2 + b1 (fLC v1)),
   BitVec.ofNat 32 (match w1 with
     | some w => bits w 0 15
     | none => bits w0 0 25))

/-- Raise a trap of the issue in progress (R178): it takes effect in no lane, the crew goes past it, and the trap is
delivered once every earlier issue has completed. `inQueue` is false for TRAP and BKPT (R179). -/
def raise {α : Type} (o : Opn) (code arg : Nat) (emask : LaneMask) (tok : Option Nat := none)
    (inQueue : Bool := true) (query : List DWord := []) : Act α := do
  let i ← theIssue
  let c ← theCrew
  let s ← get
  let e := entryOf c i o
  let t : Trap :=
    { serial := e.serial, emul := false, code := code, arg := arg, emask := emask, s := i.s, pc := e.pc, len := e.len,
      entry := if inQueue then some e else none, ckpt := c.ckpt, tok := tok,
      grade := s.gradeP (c.teamOf ((lowest i.s).getD 0)), query := query, eop := 0, efields := 0, eimm := 0, epfx := 0 }
  modify fun s => (s.setCrew (c.advance i e)).queueTrap c.id t
  stop

/-- An undefined encoding makes an emulation entry due, or ILLINSTR where no handler is installed (R8, R191). -/
def raiseUndefined (emask : LaneMask) (epfx : Nat) : Act Unit := do
  let i ← theIssue
  let c ← theCrew
  let s ← get
  let read (f : Nat) : List DWord :=
    (List.range c.width).map fun l =>
      match srcRn f (i.raw.lit.getD 0) with
      | some r => (c.readWord (nameOf c.wb (0 < c.depthAt i.s) r) 0 l false 1).1.zeroExtend 64
      | none => 0
  let fs := regFields (fOp i.raw.w0) (subOf i.raw.w0 (i.raw.w1.getD 0)) (fLB i.raw.w0)
  let zeros : List DWord := (List.range c.width).map fun _ => 0
  let o : Opn := ⟨if fs.2.1 then read (fA i.raw.w0) else zeros, if fs.2.2.1 then read (fB i.raw.w0) else zeros,
    if fs.2.2.2 then read (fC (i.raw.w1.getD 0)) else zeros⟩
  let emul := (s.ctx? c.ctx).any fun x => x.d.emuvec != 0
  if !emul then raise o ILLINSTR 0 i.s
  else do
    let e := entryOf c i o
    let (eop, ef, ei) := eFields i.raw.w0 i.raw.w1
    let t : Trap :=
      { serial := e.serial, emul := true, code := 0, arg := 0, emask := emask, s := i.s, pc := e.pc, len := e.len,
        entry := some e, ckpt := c.ckpt, tok := none, grade := s.gradeP (c.teamOf ((lowest i.s).getD 0)), query := [], eop := eop, efields := ef, eimm := ei,
        epfx := BitVec.ofNat 32 epfx }
    modify fun s => (s.setCrew (c.advance i e)).queueTrap c.id t

/-! ## Segment ends (R20) and faults that need service (R22, R393) -/

/-- Note a fault to be served, once for its granule and KIND (R393). -/
def State.addFault (s : State) (key : FaultKey) (va : Nat) (host : Bool) : State :=
  if s.host.faults.any (·.key == key) then s
  else
    let pasid := ((s.ctx? key.ctx).map (·.d.pasid)).getD 0
    s.updHost fun h => { h with faults := h.faults ++ [⟨key, va, pasid, if host then .ats else .ring⟩] }

/-- The lanes of a set end their segments; their records are written once their long-latency work has completed (R21).
-/
def Crew.endLanes (c : Crew) (m : LaneMask) (f : Nat → Lane → Ending) : Crew :=
  (c.mapLanes m fun n l => { l with ending := some (f n l) }).closeWindows m

/-- An ending that keeps the team-locality and resumes at an address (R23); at a page fault the record keeps the mappings
held now (R22). -/
def endAt (c : Crew) (resume : Nat) (w : Wait) (run : Option Run) : Ending :=
  ⟨resume, c.wb, run, w, c.teamLocal, none, false, match w with
    | .fault _ => some c.regs
    | _ => none⟩

/-- The issuing lanes end their segments at this issue, before it: the crew goes on with its other lanes. -/
def endIssuing {α : Type} (m : LaneMask) (w : Nat → Wait) : Act α := do
  let i ← theIssue
  modCrew fun c => (c.endLanes m fun n l => endAt c i.pc (w n) l.run).noteSel i
  stop

/-- What a lane's checks of an access answer (R89, R211): the access, a trap, or a fault to be served. -/
inductive Chk (α : Type) where
  | ok (x : α)
  | trap (code arg : Nat)
  | fault (key : FaultKey) (va : Nat) (host : Bool)

/-- Continue a lane's checks. -/
def Chk.bind {α β : Type} (c : Chk α) (f : α → Chk β) : Chk β :=
  match c with
  | .ok x => f x
  | .trap a b => .trap a b
  | .fault k v h => .fault k v h

/-- A condition that must hold, else a trap. -/
def need (ok : Bool) (code : Nat) : Chk Unit := if ok then .ok () else .trap code 0

/-- Check a list in order. -/
def Chk.all {α β : Type} (f : α → Chk β) : List α → Chk (List β)
  | [] => .ok []
  | x :: xs => (f x).bind fun y => (Chk.all f xs).bind fun ys => .ok (y :: ys)

/-- A fault declared unresolvable for a lane traps instead (R22). -/
def Chk.served {α : Type} (unres : List FaultKey) (c : Chk α) : Chk α :=
  match c with
  | .fault k v h => if unres.contains k then .trap PAGEFLT 0 else .fault k v h
  | x => x

/-- Translate one address for a lane. -/
def State.chkVa (s : State) (ctx va : Nat) (n : Need) : Chk Nat :=
  match s.ctx? ctx with
  | none => .trap PROT 0
  | some c =>
    match s.translate c va n with
    | .ok pa => .ok pa
    | .prot => .trap PROT 0
    | .miss k h => .fault k va h

/-- The lanes that trap: the cause and the argument of the lowest of them, and the lanes that raise the same cause (R89). -/
def trapOf {α : Type} (rs : List (Nat × Chk α)) : Option (Nat × Nat × LaneMask) :=
  match rs.findSome? fun p => match p.2 with
    | .trap a b => some (a, b)
    | _ => none with
  | none => none
  | some (a, b) =>
    some (a, b, maskOf fun n => rs.any fun p => p.1 == n && match p.2 with
      | .trap x _ => x == a
      | _ => false)

def okLanes {α : Type} (rs : List (Nat × Chk α)) : List (Nat × α) :=
  rs.filterMap fun p => match p.2 with
    | .ok x => some (p.1, x)
    | _ => none

/-- The lanes that need fault service. -/
def faultLanes {α : Type} (rs : List (Nat × Chk α)) : List (Nat × FaultKey × Nat × Bool) :=
  rs.filterMap fun p => match p.2 with
    | .fault k v h => some (p.1, k, v, h)
    | _ => none

/-- The answers of the lanes of an issue that is not long-latency (R22, R89): a trap in any lane stops the issue;
lanes that need fault service end their segments before it, or the crew waits in place; the others go on. -/
def settle {α : Type} (o : Opn) (f : Lane → Nat → Chk α) : Act (List (Nat × α)) := do
  let i ← theIssue
  let c ← theCrew
  let rs := (lanesOf i.act).filterMap fun n => (c.lane n).map fun l => (n, (f l n).served l.unres)
  match trapOf rs with
  | some (code, arg, m) => raise o code arg m
  | none =>
    let fl := faultLanes rs
    if fl.isEmpty then pure (okLanes rs)
    else do
      modify fun s => fl.foldl (fun s p => s.addFault p.2.1 p.2.2.1 p.2.2.2) s
      let m := maskOf fun n => fl.any (·.1 == n)
      if mustStay c i then do
        modCrew fun c => c.mapLanes m fun n l => { l with faultOn := (fl.find? (·.1 == n)).map (·.2.1) }
        waitHere
      else do
        modCrew fun c => c.endLanes m fun n l =>
          endAt c i.pc (((fl.find? (·.1 == n)).map fun p => Wait.fault p.2.1).getD .none) l.run
        setCur fun i => { i with s := i.s &&& ~~~m, act := i.act &&& ~~~m }
        if (i.s &&& ~~~m) == 0 then do
          modCrew fun c => c.noteSel i
          stop
        else pure (okLanes rs)

/-! ## The checks of an issue (R86) -/

/-- The registers that an issue's destination names. -/
def Shape.dstKeys (sh : Shape) (c : Crew) (h : Bool) : List Nat :=
  match sh.dst with
  | some (r, w) => (nameOf c.wb h r).keys w
  | none => []

/-- The registers an issue reads, writes and frees. -/
def Shape.names (sh : Shape) (c : Crew) (h : Bool) : List Nat :=
  (sh.srcs.flatMap fun u => (nameOf c.wb h u.r).keys u.w) ++ sh.dstKeys c h

/-- The registers an issue writes or frees. -/
def Shape.changes (sh : Shape) (c : Crew) (h : Bool) : List Nat := sh.frees c h ++ sh.dstKeys c h

def meets (xs ys : List Nat) : Bool := xs.any fun x => ys.contains x

/-- The class of an instruction's memory accesses (R333). -/
def memCls (i : Instr) (m : MemAttr) : Option Cls :=
  match i with
  | .ld1 .. | .ld2 .. | .ld4 .. | .ld8 .. | .ld16 .. | .st1 .. | .st2 .. | .st4 .. | .st8 .. | .st16 .. =>
    some (match m.space with
      | .gwin => .g
      | .key => .k
      | _ => .c)
  | .atom .. | .tld .. | .tst .. => some .c
  | .cpy .. => some .y
  | _ => none

def LongOp.cls (o : LongOp) : Option Cls := memCls o.instr o.attr

/-- The class whose earlier accesses of the lane an instruction follows (R319, R323, R334): K for the key instructions,
none for the work of the matrix arrays and the drains, and for NBR, which has no order with memory (R158), else C. -/
def followsCls (op : Nat) : Option Cls :=
  if op == 0x74 || op == 0x75 then some .k
  else if op == 0x68 || op == 0x69 || op == 0x6A || op == 0x40 then none
  else some .c

/-- Must the issue wait for long-latency work (R63)? In a lane outside the window of an operation that is not
complete, it names the destination; or the issue has effects beyond registers, and an operation awaits translation or an access outside whose window it stands is not
performed (R66); or it is the 17th in flight (R196). -/
def mustWait (c : Crew) (i : Issue) (names : List Nat) (sync ll : Bool) : Bool :=
  (c.pipe.inflight.any fun o => !o.done && meets names o.group &&
      (lanesOf i.s).any fun n => nth o.left n 0 == 0) ||
  (sync && (c.untranslated || c.pipe.inflight.any fun o => o.mem && !o.done &&
      o.cls.isSome && o.cls == followsCls (fOp i.raw.w0) &&
      (lanesOf i.s).any fun n => has o.entry.part n && nth o.left n 0 == 0)) ||
  (ll && 16 ≤ (c.pipe.inflight.filter fun o => !o.done).length)

/-- Does the issue, inside a window, write or free a register of its destination (R65)? -/
def inWindowClash (c : Crew) (i : Issue) (changes : List Nat) : Bool :=
  c.pipe.inflight.any fun o => meets changes o.group && (lanesOf i.s).any fun n => 0 < nth o.left n 0

/-- The first token of a mask in error in a lane (R69). -/
def Lane.errTok (l : Lane) (mask : BitVec 8) : Option Nat :=
  (List.range 8).find? fun k => mask.getLsbD k && (nth l.toks k ⟨0, false⟩).err

/-- The lanes of a crew that a token wait may park: still waiting for a token that is pending (R20, R69). -/
def Crew.parks (c : Crew) : LaneMask :=
  match c.pipe.park with
  | some (m, mask) => maskOf fun n => has m n && (c.lane n).any fun l => l.ending.isNone && !toksMet mask l.toks
  | none => 0

/-- Park the lanes: they resume at the first prefix word of the waiting instruction. -/
def Crew.parkNow (c : Crew) : Crew :=
  match c.pipe.park with
  | some (_, mask) =>
    let d := c.endLanes c.parks fun _ l => endAt c l.pc (.token mask) l.run
    { d with pipe := { d.pipe with park := none, waiting := false } }
  | none => c

/-- Does a token wait on a core park at once: is PARKTH 0 (R38)? -/
def Core.parksAtOnce (k : Core) : Bool := k.segctl.toNat % 2 ^ 12 = 0

/-- The token wait of KW and MEM (R38, R69, R86 step 4). -/
def tokenWait (o : Opn) (mask : BitVec 8) : Act Unit :=
  if mask == 0 then pure ()
  else do
    let i ← theIssue
    let c ← theCrew
    let pend := maskOf fun n => has i.s n && (c.lane n).any fun l => !toksMet mask l.toks
    if pend != 0 then do
      modCrew fun c => { c with pipe := { c.pipe with park := if mustStay c i then none else some (i.s, mask) } }
      let s ← get
      if !mustStay c i && (s.core c.core).parksAtOnce then do
        modCrew Crew.parkNow
        stop
      else waitHere
    else
      match (lanesOf i.s).findSome? fun n => (c.lane n).bind (·.errTok mask) with
      | some k => raise o SCRATCH_BOUND k i.s (some k)
      | none => pure ()

/-- Tagged reads in the lanes of ACTIVE (R59, R86 step 5): `f` gives the field that a lane reads tagged. -/
def taggedBy (o : Opn) (f : Crew → Nat → Option Nat) : Act Unit := do
  let i ← theIssue
  let c ← theCrew
  let m := maskOf fun n => has i.act n && (f c n).isSome
  if i.entry.isSome || m == 0 then pure ()
  else do
    modCrew fun c => c.mapLanes m fun n l => { l with poison := l.poison.mark ((f c n).getD 0) }
    if c.poisonEn then do
      let c ← theCrew
      raise o POISON ((((lowest m).bind c.lane).map (·.poison.field)).getD 0) m
    else pure ()

/-- The lowest lane of ACTIVE of each team (R284). -/
def Crew.leads (c : Crew) (m : LaneMask) : List Nat :=
  (c.teamsIn m).filterMap fun t => (lanesOf m).find? fun n => c.teamOf n == t

/-- The lanes whose operands an issue reads: all of ACTIVE, its lowest lane alone, or the lowest lane of each team. -/
def allRead (_ : Crew) (i : Issue) : LaneMask := i.act
def lowRead (_ : Crew) (i : Issue) : LaneMask := match lowest i.act with
  | some n => 1#64 <<< n
  | none => 0
def leadRead (c : Crew) (i : Issue) : LaneMask := maskOf (c.leads i.act).contains

def taggedReads (o : Opn) (sh : Shape) (h : Bool) (who : Crew → Issue → LaneMask := allRead) : Act Unit := do
  let i ← theIssue
  taggedBy o fun c n => if has (who c i) n then c.taggedField h sh.srcs n else none

/-- Room for the registers that the destination needs (R57, R200); else the issuing lanes end their segments, or the
crew waits in place (R175, R188, R252). What an issue frees that has yet to pass translation (`mem`) stays held. -/
def roomFor (sh : Shape) (h ll : Bool) (mem : Bool := false) : Act Unit := do
  let i ← theIssue
  let c ← theCrew
  match sh.dst with
  | none => pure ()
  | some (r, w) =>
    let d := if mem then c else c.free (sh.frees c h)
    let s ← get
    if i.act == 0 || d.allocs (nameOf c.wb h r) w ll ≤ (s.setCrew d).poolFree d then pure ()
    else if mustStay c i then waitHere
    else endIssuing i.s fun _ => .none

/-- The opcodes that trap ILLOPND in a Cox context (R253). -/
def coxForbids (op sub : Nat) : Bool :=
  (0x20 ≤ op && op ≤ 0x35) || (op == 0x40 && bits sub 3 3 == 6) || op == 0x5F || (0x62 ≤ op && op ≤ 0x65) ||
  op == 0x6C || (0x70 ≤ op && op ≤ 0x77) || op == 0x7B || (op == 0x7C && 2 ≤ bits sub 0 4 && bits sub 0 4 ≤ 5)

/-- The opcodes that trap ILLOPND in handler mode (R175). -/
def handlerForbids (op sub : Nat) : Bool :=
  op == 0x7B || op == 0x77 || (op == 0x40 && bits sub 3 3 == 6) || (op == 0x7C && bits sub 0 4 ≤ 3)

/-- The opcodes that run only in team-local segments (R23, R268, R272). -/
def localOnly (op sub : Nat) : Bool :=
  (0x60 ≤ op && op ≤ 0x67) || op == 0x6A || op == 0x6C || op == 0x6E || op == 0x6F ||
  (op == 0x7B && 5 ≤ bits sub 0 3)

/-- Is the segment not team-local (R23)? A Cox context always reaches its team's stores. -/
def notTeamLocal (c : Crew) : Bool := c.cox.isNone && !c.teamLocal

/-- ILLOPND by where the instruction runs (R23, R81, R175, R253): a check at decode, in every lane of S (log entry 103). -/
def modeBad (c : Crew) (i : Issue) : Bool :=
  let op := fOp i.raw.w0
  let sub := fSub (i.raw.w1.getD 0)
  let handler := 0 < c.depthAt i.s
  let exempt := handler && (op == 0x62 || op == 0x63) && (c.teamsIn c.elig).length ≤ 1
  (c.cox.isSome && coxForbids op sub) ||
  (c.cox.isNone && (op == 0x68 || op == 0x69 || op == 0x6B || op == 0x6D)) ||
  (handler && handlerForbids op sub) ||
  (notTeamLocal c && localOnly op sub && !exempt)

/-- The uncommitted lines a team may hold (R226). -/
def State.lineCap (s : State) (team : Nat) : Nat :=
  ((((s.team? team).bind fun t => s.grid? t.grid).bind fun g => s.ctx? g.ctx).map fun c => c.d.commitcap * 2048).getD 0

/-- Would writes of a domain at these places, made beside the lines of a buffer, cause a commit (R225, R226)? -/
def linesForce (cap dom : Nat) : List (Nat × Nat) → List Place → Bool
  | _, [] => false
  | ls, .mem pa :: ps =>
    match ls.find? (·.1 == lineOf pa) with
    | some l => l.2 != dom || linesForce cap dom ls ps
    | none => cap ≤ ls.length || Config.llcFull (ls.map (·.1)) (lineOf pa) ||
        linesForce cap dom (ls ++ [(lineOf pa, dom)]) ps
  | ls, _ :: ps => linesForce cap dom ls ps

def State.forces (s : State) (team dom : Nat) (ps : List Place) : Bool :=
  linesForce (s.lineCap team) dom ((((s.team? team).map (·.buf)).getD []).map fun l => (l.addr, l.dom)) ps

/-- Is a store that the crew issued before `serial`, a plain copy of it or the key of a KST about to cause a commit? Its
commit point precedes every access that the crew issues after it (R324, log entry 117); of one not yet translated it is not
known. -/
def State.forcing (s : State) (c : Crew) (serial : Nat) : Bool :=
  (c.pipe.inflight.any fun o => !o.done && o.entry.serial < serial &&
    match o.instr with
    | .st1 .. | .st2 .. | .st4 .. | .st8 .. | .st16 .. | .tst .. =>
      !o.translated || o.dst.any fun p => s.forces (c.teamOf p.1) o.attr.pdom (p.2.filterMap id)
    | _ => false) ||
  (s.eng.copies.any fun k => k.crew == c.id && k.serial < serial && k.rd == .none &&
    s.forces k.team k.dom (k.dst.filterMap id)) ||
  s.eng.kops.any fun k => k.crew == c.id && k.serial < serial &&
    s.forces k.team k.dom (if k.step = 0 then k.dst.map Place.mem else [])

/-- The checks of R86 before the tagged reads, in order, and the windows of R63 and R65. Answers the operands. `bad` is
the instruction's own ILLOPND at decode. The wait of R178 comes first. `sync` says that it has effects beyond registers; `kernel` that its names are
decoded as in kernel code whatever the mode (R175); `gs` are the register groups to check where they are not the
shape's. A re-injected entry with no lane present makes no check (R188). -/
def issueChecks (sh : Shape) (bad : State → Crew → Issue → Bool) (sync ll : Bool) (kernel : Bool := false)
    (gs : Option (List (Rn × Nat × Nat)) := none) : Act Opn := do
  let s ← get
  let i ← theIssue
  let c ← theCrew
  let h := !kernel && 0 < c.depthAt i.s
  let o := match i.entry with
    | some e => ⟨e.a, e.b, e.c⟩
    | none => c.captureAll h i.act sh.srcs
  if i.entry.isSome && i.s == 0 then pure o
  else if c.waitsTranslation i.s then waitHere
  else
  match nameCheck c h (gs.getD sh.groups) with
  | some code => raise o code 0 i.s
  | none =>
    if modeBad c i || bad s c i then raise o ILLOPND 0 i.s
    else if inWindowClash c i (sh.changes c h) then raise o ILLOPND 0 i.s
    else if mustWait c i (sh.names c h) sync ll || (sync && s.forcing c c.pipe.serial) then waitHere
    else do
      tokenWait o i.mask
      pure o

/-- Begin an issue: every check of R86, and room for the destination. Answers the operands. `who` are the lanes whose
operands are read; `mem` says that the issue must pass translation. -/
def begin' (sh : Shape) (bad : State → Crew → Issue → Bool) (sync ll : Bool) (kernel : Bool := false)
    (who : Crew → Issue → LaneMask := allRead) (mem : Bool := false) : Act Opn := do
  let o ← issueChecks sh bad sync ll kernel
  let i ← theIssue
  let c ← theCrew
  let h := !kernel && 0 < c.depthAt i.s
  onlyIf (!kernel) (taggedReads o sh h who)
  roomFor sh h ll mem
  pure o

/-- Finish an issue: frees, then the writes, then the crew stands after it (R58). Frees of an entry captured by a cut
are not made (R188). -/
def finish (sh : Shape) (o : Opn) (w : Crew → Issue → Crew) (kernel : Bool := false) : Act Unit := do
  let i ← theIssue
  modCrew fun c =>
    let h := !kernel && 0 < c.depthAt i.s
    let d := if i.entry.any (·.cut) then c else c.free (sh.frees c h)
    (w d i).advance i (entryOf c i o)

/-- No ILLOPND of the instruction's own. -/
def fine : State → Crew → Issue → Bool := fun _ _ _ => false

/-- Write the destination of a shape in the lanes of ACTIVE. -/
def Crew.writeDst (c : Crew) (i : Issue) (sh : Shape) (f : Nat → DWord) (kernel : Bool := false) : Crew :=
  match sh.dst with
  | some (r, w) => c.writeGroup (nameOf c.wb (!kernel && 0 < c.depthAt i.s) r) w i.act fun l k => wordOf (f l) k
  | none => c

/-- An instruction whose whole effect is a destination computed lane by lane from its captured operands. -/
def lanewise (sh : Shape) (f : Opn → Nat → DWord) : Act Unit := do
  let o ← begin' sh fine false false
  finish sh o fun c i => c.writeDst i sh (f o)

/-- A source of one word in slot A, B or C. -/
def useA (a : Src) (w : Nat := 1) (f64 : Bool := false) : Use := ⟨0, a.r, w, a.lu, f64⟩
def useB (b : Src) (w : Nat := 1) (f64 : Bool := false) : Use := ⟨1, b.r, w, b.lu, f64⟩
def useC (c : Src) (w : Nat := 1) (f64 : Bool := false) : Use := ⟨2, c.r, w, c.lu, f64⟩

/-- The MEM fields in force for the issue (R70 to R72). -/
def Crew.attr (c : Crew) (i : Issue) : MemAttr :=
  match i.mem with
  | some m => ⟨m.order, m.scope, m.space, m.pdom.toNat, m.mask⟩
  | none =>
    let w := c.memdef.toNat
    ⟨(Order.ofCode (bits w 21 2)).getD .relaxed, (Scope.ofCode (bits w 19 2)).getD .team,
      (Space.ofCode (bits w 16 3)).getD .generic, bits w 0 4, 0⟩

/-- Issue a long-latency instruction (R57, R62 to R65, R178, R200): its operands are captured, its sources freed, and it
joins the work in flight with a window of `lh` issues in each issuing lane, none in handler mode or at a re-injection (R175,
R188). `mem` says that it makes an access, which must pass translation first; until then its frees are held. Where no lane
acts it does no more than open its window. -/
def issueLong (instr : Instr) (sh : Shape) (bad : State → Crew → Issue → Bool) (lh : Nat) (mem : Bool)
    (who : Crew → Issue → LaneMask := allRead) : Act Unit := do
  let o ← begin' sh bad false true false who mem
  let i ← theIssue
  let c ← theCrew
  let h := 0 < c.depthAt i.s
  let none' := i.act == 0
  let op : LongOp :=
    { instr := instr, entry := entryOf c i o, attr := c.attr i,
      left := (List.range c.width).map fun n => if has i.s n && !h && i.entry.isNone then lh else 0,
      group := sh.dstKeys c h, prev := if none' then (sh.dstKeys c h).map c.holding else [], mem := mem,
      after := (c.pipe.inflight.filter fun p => p.mem && !p.done && p.cls == memCls instr (c.attr i) &&
        (lanesOf i.s).any fun n => has p.entry.part n && nth p.left n 0 == 0).map (·.entry.serial),
      dst := [], src := [], translated := !mem || none', done := none', replay := i.entry.isSome, asked := false, ckpt := c.ckpt }
  finish sh o fun c _ => c
  onlyIf (!none' || op.left.any (0 < ·)) <| modCrew fun d =>
    let freed := c.regs.length - d.regs.length
    { d with pipe := { d.pipe with
      inflight := d.pipe.inflight ++ [{ op with entry := { op.entry with part := i.act, s := i.s } }],
      held := if mem && !none' && freed ≠ 0 && !c.holdsFrees c.pipe.serial then (c.pipe.serial, freed) :: d.pipe.held
        else d.pipe.held } }

end Sys2Proof.Machine
end

