-- ==== Sys2Proof/Machine/Fetch.lean ====
section
/-! DEFINITION. Making an issue: choosing lanes (R19), fetching words (R48, R49), re-injecting entries (R188), and the
prefix forms (R67 to R70). -/

namespace Sys2Proof.Machine

/-- Why a fetch ends: an issue, a fault to be served, or a page without execute right (R49, R393). -/
inductive Fetched where
  | ok (r : RawIssue)
  | fault (key : FaultKey) (va : Nat) (host : Bool)
  | prot
deriving DecidableEq, Repr

/-- The word at a virtual address, as an instruction. -/
def State.fetchWord (s : State) (c : Ctx) (va : Nat) : Sum Tr Nat :=
  match s.translate c va Need.exec with
  | .ok pa => .inr (leNat (s.mem.cells.read pa 4))
  | t => .inl t

/-- Fetch words one by one until they form an issue (R49). -/
def State.fetchFrom (s : State) (c : Ctx) (va : Nat) (ws : List Nat) : Nat → Fetched
  | 0 => .prot
  | fuel + 1 =>
    match splitIssue [] ws with
    | some r => .ok r
    | none =>
      match s.fetchWord c va with
      | .inl (.miss k h) => .fault k va h
      | .inl _ => .prot
      | .inr w => s.fetchFrom c (va + 4) (ws ++ [w]) fuel

/-- The longest run of words of one issue: as many prefix words as the address space holds (R191). -/
def maxWords : Nat := 2 ^ 54

/-- Is an encoding disabled for the variant or the context (R85)? -/
def State.disabled (s : State) (c : Ctx) (r : RawIssue) : Bool :=
  let op := fOp r.w0
  c.d.odis.getLsbD op ||
  (s.chip.variant == .e && ((0x31 ≤ op && op ≤ 0x35) || (op == 0x68 && bits (fSub (r.w1.getD 0)) 0 3 == 5)))

/-- ACTIVE: the issuing lanes whose guard holds (R68, R87). -/
def Crew.active (c : Crew) (s : LaneMask) (grd : Option Run) : LaneMask :=
  maskOf fun n => has s n && (c.lane n).any fun l =>
    match grd.orElse fun _ => l.run with
    | some g => l.pred g.pred != g.neg
    | none => true

/-- An issue with no guard or prefix yet applied. -/
def issueOf (c : Crew) (s yl : LaneMask) (pc : Nat) (r : RawIssue) (e : Option Entry) : Issue :=
  { crew := c.id, s := s, act := s, pc := pc, raw := r, grd := none, mem := none, mask := 0, entry := e, chosen := s,
    yl := yl, elig := c.elig }

/-- An issue that traps before any of its words is known. -/
def noWords : RawIssue := ⟨[], 0, none, none⟩

def zeroOpn (c : Crew) : Opn :=
  let z : List DWord := (List.range c.width).map fun _ => 0
  ⟨z, z, z⟩

/-- Make a fresh issue of a crew (R19, R49, R86 step 1): the prefixes and the instruction to execute, in order. -/
def freshIssue (k : Nat) : Act (List Instr) := do
  let s ← get
  match s.crew? k, (s.crew? k).bind fun c => s.ctx? c.ctx with
  | some c, some cx =>
    match c.choose with
    | none => pure []
    | some (lanes, pc, yl) =>
      let i0 (r : RawIssue) := issueOf c lanes yl pc r none
      if c.waitsTranslation lanes then do
        set { s with cur := some (i0 noWords) }
        waitHere
      else
      match s.fetchFrom cx pc [] maxWords with
      | .prot => do
        set { s with cur := some (i0 noWords) }
        raise (zeroOpn c) PROT 0 lanes
      | .fault key va host => do
        set { s with cur := some (i0 noWords) }
        modify fun s => s.addFault key va host
        if (lanesOf lanes).any fun n => (c.lane n).any (·.unres.contains key) then raise (zeroOpn c) PAGEFLT 0 lanes
        else if mustStay c (i0 noWords) then do
          modCrew fun c => c.mapLanes lanes fun _ l => { l with faultOn := some key }
          waitHere
        else endIssuing lanes fun _ => .fault key
      | .ok r => do
        match firstBreak 0 r.pfx with
        | some w => do
          set { s with cur := some (i0 r) }
          raiseUndefined lanes w
          pure []
        | none =>
          let grd := match (grdWord r.pfx).bind decPrefix with
            | some (.grd p neg n) => some ⟨n.toNat + 1, neg, p⟩
            | _ => none
          let act := if (grdWord r.pfx).isSome && grd.isNone then lanes else c.active lanes grd
          set { s with cur := some { i0 r with act := act } }
          match r.decode with
          | some d =>
            if s.disabled cx r then do
              setCur fun i => { i with grd := grd }
              raiseUndefined act ((pfxWord r.pfx).getD 0)
              pure []
            else pure (d.grd.toList ++ d.pre.toList ++ [d.instr])
          | none => do
            setCur fun i => { i with grd := grd }
            raiseUndefined act ((pfxWord r.pfx).getD 0)
            pure []
  | _, _ => pure []

/-- A replay entry's words as an issue. Its guard word is kept and not used (R186). -/
def Entry.raw (e : Entry) : RawIssue :=
  ⟨(if e.grdW = 0 then [] else [e.grdW]) ++ (if e.preW = 0 then [] else [e.preW]), e.w0, e.w1, e.lit⟩

/-- Is a word of the guard item or of the KW or MEM item such a prefix word: P format, and of that kind (R67)? -/
def pfxKind (w : Nat) (guard : Bool) : Bool := fOp w == 0x7F && (bits w 23 2 == 0) == guard

/-- The prefix word of an entry that breaks R67: one of the issue, which its items do not all hold, or one that a handler has
written (R179, R186, R188). -/
def Entry.pfxBreak (e : Entry) : Option Nat :=
  if e.grdW != 0 && !pfxKind e.grdW true then some e.grdW
  else if e.preW != 0 && !pfxKind e.preW false then some e.preW
  else if e.written then none else e.badPfx

/-- A re-injected entry whose words are undefined: an emulation entry, unless no lane acts (R188, R191). -/
def reinjectUndefined (e : Entry) : Act Unit := do
  let i ← theIssue
  let c ← theCrew
  if i.s == 0 then modCrew fun c => c.advance i (entryOf c i (zeroOpn c))
  else if c.waitsTranslation i.s then waitHere
  else raiseUndefined i.s (e.pfxBreak.getD ((pfxWord i.raw.pfx).getD 0))

/-- The prefix and the instruction of an entry; none where its words are undefined. The guard word is checked and not
used. -/
def entryParts (s : State) (cx : Ctx) (e : Entry) : List Instr :=
  match e.raw.decode with
  | some d => if e.pfxBreak.isSome || s.disabled cx e.raw then [] else d.pre.toList ++ [d.instr]
  | none => []

/-- Execute an entry: its parts, or what an undefined encoding does. -/
def entryGo (s : State) (cx : Ctx) (e : Entry) : Act (List Instr) := do
  let l := entryParts s cx e
  onlyIf l.isEmpty (reinjectUndefined e)
  pure l

/-- Re-inject the head of a crew's replay entries (R188): answers the prefix and instruction to execute. A trap that is
queued for it is delivered whatever lanes are left in it (log entry 107). -/
def reinject (k : Nat) (e : Entry) : Act (List Instr) := do
  let s ← get
  match s.crew? k, (s.crew? k).bind fun c => s.ctx? c.ctx with
  | some c, some cx =>
    let lanes := e.part &&& c.running
    let i : Issue := { issueOf c lanes 0 e.pc e.raw (some e) with act := lanes }
    match c.pipe.later.find? (·.serial == e.serial) with
    | some t =>
      if !e.written then
        if c.pipe.inflight.any fun o => !o.done then do
          set { s with cur := some i }
          waitHere
        else do
          let t' := { t with ckpt := c.ckpt, entry := t.entry.map fun _ => e }
          let c' : Crew := { c with pipe := { c.pipe with
            reinj := c.pipe.reinj.drop 1, later := c.pipe.later.filter fun u => u.serial != e.serial } }
          set ((s.setCrew c').queueTrap k t')
          pure []
      else do
        let c' : Crew := { c with pipe := { c.pipe with
          later := c.pipe.later.filter fun u => u.serial != e.serial } }
        set { s.setCrew c' with cur := some i }
        entryGo s cx e
    | none => do
      set { s with cur := some i }
      entryGo s cx e
  | _, _ => pure []

/-- GRD (R68): its run starts with this issue; ACTIVE is chosen by it. -/
def execGrd (p : Nat) (neg : Bool) (count : BitVec 3) (s : State) : Host.Outcome State Fault Refusal :=
  Act.run (do
    let c ← theCrew
    setCur fun i =>
      if i.entry.isSome then i
      else { i with grd := some ⟨count.toNat + 1, neg, p⟩, act := c.active i.s (some ⟨count.toNat + 1, neg, p⟩) }) s

/-- KW (R69): its tokens are waited for before the instruction. -/
def execKw (mask : BitVec 8) (s : State) : Host.Outcome State Fault Refusal :=
  Act.run (do
    let _ ← theCrew
    setCur fun i => { i with mask := mask }) s

/-- MEM (R70, R71): its fields replace MEMDEF for this instruction, and its tokens are waited for. -/
def execMem (m : MemFields) (s : State) : Host.Outcome State Fault Refusal :=
  Act.run (do
    let _ ← theCrew
    setCur fun i => { i with mask := m.mask, mem := some m }) s

end Sys2Proof.Machine
end

