-- ==== Sys2Proof/Machine/Integer.lean ====
section
/-! DEFINITION. Moves, selection, integer arithmetic, compare and set, bit manipulation and predicates (R91 to R109).
-/

namespace Sys2Proof.Machine

/-- A 32-bit result as an operand value. -/
def zx (w : Word) : DWord := w.zeroExtend 64

/-- Shapes by operand count; every operand `w` words unless said otherwise. -/
def shapeA (d : Rn) (a : Src) (wd : Nat := 1) (wa : Nat := 1) : Shape := ⟨some (d, wd), [useA a wa]⟩
def shapeAB (d : Rn) (a b : Src) (w : Nat := 1) : Shape := ⟨some (d, w), [useA a w, useB b w]⟩
def shapeABC (d : Rn) (a b c : Src) : Shape := ⟨some (d, 1), [useA a, useB b, useC c]⟩

/-- A 32-bit function of A. -/
def un32 (d : Rn) (a : Src) (f : Word → Word) : Act Unit := lanewise (shapeA d a) fun o n => zx (f (o.wa n))
/-- A 32-bit function of A and B. -/
def bin32 (d : Rn) (a b : Src) (f : Word → Word → Word) : Act Unit :=
  lanewise (shapeAB d a b) fun o n => zx (f (o.wa n) (o.wb n))
/-- A 32-bit function of A, B and C. -/
def tri32 (d : Rn) (a b c : Src) (f : Word → Word → Word → Word) : Act Unit :=
  lanewise (shapeABC d a b c) fun o n => zx (f (o.wa n) (o.wb n) (o.wc n))

/-! ## Arithmetic of one lane -/

/-- The amount of a shift: B[4:0] (R94). -/
def shAmt (b : Word) : Nat := b.toNat % 32

/-- The number whose lowest `n` bits a function gives. -/
def natOfBits (n : Nat) (p : Nat → Bool) : Nat := (List.range n).foldl (fun m i => if p i then m + 2 ^ i else m) 0

/-- Number of 1 bits. -/
def popcount (n : Nat) (x : Nat) : Nat := ((List.range n).filter fun i => x.testBit i).length
/-- Leading zero bits of an n-bit number. -/
def clzNat : (n x : Nat) → Nat
  | 0, _ => 0
  | n + 1, x => if x.testBit n then 0 else 1 + clzNat n x
/-- Trailing zero bits of an n-bit number. -/
def ctzNat (n x : Nat) : Nat := ((List.range n).find? fun i => x.testBit i).getD n

/-- IDIV for operands of `n` bits (R97): the quotient, or the remainder. -/
def idiv {n : Nat} (uns rem : Bool) (a b : BitVec n) : BitVec n :=
  if b = 0 then (if rem then a else BitVec.allOnes n)
  else if uns then (if rem then a.umod b else a.udiv b)
  else if a = BitVec.intMin n && b = BitVec.allOnes n then (if rem then 0 else a)
  else if rem then a.srem b else a.sdiv b

/-- Is A below B? -/
def less {n : Nat} (uns : Bool) (a b : BitVec n) : Bool := if uns then a.ult b else a.slt b

/-- ICOND (R74, R102). -/
def icond {n : Nat} (cc : ICond) (uns : Bool) (a b : BitVec n) : Bool :=
  match cc with
  | .eq => a == b
  | .ne => a != b
  | .lt => less uns a b
  | .le => !less uns b a
  | .gt => less uns b a
  | .ge => !less uns a b

/-- LUT3 and PLOG: the bit of the table that three bits select (R104). -/
def lutBit (tt : BitVec 8) (a b c : Bool) : Bool := tt.getLsbD (4 * a.toNat + 2 * b.toNat + c.toNat)

def lut3 (tt : BitVec 8) (a b c : Word) : Word :=
  BitVec.ofNat 32 (natOfBits 32 fun i => lutBit tt (a.getLsbD i) (b.getLsbD i) (c.getLsbD i))

/-- FSH (R105). -/
def funnel (right clamp : Bool) (a b : Word) (amt : Nat) : Word :=
  let x := dword b a
  let n := if clamp then min (amt % 64) 32 else amt % 64 % 32
  if right then (x >>> n).truncate 32 else ((x <<< n) >>> 32).truncate 32

/-- BFX (R106). -/
def bfx (signed : Bool) (a : Word) (pos len : Nat) : Word :=
  let k := min len (32 - pos)
  let f := bits a.toNat pos k
  if k = 0 then 0
  else if signed && f.testBit (k - 1) then BitVec.ofNat 32 (f + (2 ^ 32 - 2 ^ k)) else BitVec.ofNat 32 f

/-- BFI (R106). -/
def bfi (a b : Word) (pos len : Nat) : Word :=
  let k := min len (32 - pos)
  let m : Word := BitVec.ofNat 32 ((2 ^ k - 1) * 2 ^ pos)
  (b &&& ~~~m) ||| ((a <<< pos) &&& m)

/-- The position and length in a lane (R106). -/
def posLenGet (pl : PosLen) (c : Word) : Nat × Nat :=
  match pl with
  | .reg _ => (bits c.toNat 0 5, bits c.toNat 8 6)
  | .imm p l => (p.toNat, l.toNat)

def posLenUses : PosLen → List Use
  | .reg c => [useC c]
  | .imm _ _ => []

def fshUses : FshAmt → List Use
  | .reg c => [useC c]
  | .imm _ => []

def fshGet (m : FshAmt) (c : Word) : Nat :=
  match m with
  | .reg _ => c.toNat % 64
  | .imm n => n.toNat

/-- A byte as a number, unsigned or signed. -/
def byteInt (uns : Bool) (w : Word) (i : Nat) : Int :=
  let b : BitVec 8 := (w >>> (8 * i)).truncate 8
  if uns then (b.toNat : Int) else b.toInt

/-- IDOT4 (R100). -/
def idot4 (na nb sat : Bool) (a b c : Word) : Word :=
  let uns := na && nb
  let s0 : Int := if uns then (c.toNat : Int) else c.toInt
  let s := (List.range 4).foldl (fun s i => s + byteInt na a i * byteInt nb b i) s0
  let t := if !sat then s
    else if uns then max 0 (min s (2 ^ 32 - 1))
    else max (-(2 ^ 31)) (min s (2 ^ 31 - 1))
  BitVec.ofInt 32 t

/-- Combine a comparison with predicate C (R102). -/
def combine (m : Comb) (l : Lane) (x : Bool) : Bool :=
  match m with
  | .none => x
  | .and p => x && l.pred p
  | .or p => x || l.pred p
  | .xor p => x != l.pred p

/-- Write a predicate in the lanes of ACTIVE (R88). -/
def Crew.writePred (c : Crew) (i : Issue) (p : Nat) (f : Nat → Lane → Bool) : Crew :=
  c.mapLanes i.act fun n l => l.setPred p (f n l)

/-- The predicates of a lane as a number, `p47` as 1. -/
def Lane.predNat (l : Lane) : Nat := (l.preds ||| (1#48 <<< 47)).toNat

/-! ## Moves and selection (R91 to R93) -/

/-- NOP (R91). -/
def execNop (s : State) : Host.Outcome State Fault Refusal := Act.run (lanewise ⟨none, []⟩ fun _ _ => 0) s

/-- MOV (R92). -/
def execMov (d : Rn) (a : Src) (s : State) : Host.Outcome State Fault Refusal := Act.run (un32 d a id) s

/-- MOVI (R92). -/
def execMovi (d : Rn) (imm : BitVec 18) (s : State) : Host.Outcome State Fault Refusal :=
  Act.run (lanewise ⟨some (d, 1), []⟩ fun _ _ => zx (imm.signExtend 32)) s

/-- SEL (R93): both sources are read in every lane. -/
def execSel (d : Rn) (a b : Src) (p : Nat) (w64 : Bool) (s : State) : Host.Outcome State Fault Refusal :=
  Act.run (do
    let sh := shapeAB d a b (if w64 then 2 else 1)
    let o ← begin' sh fine false false
    finish sh o fun c i => c.writeDst i sh fun n => if (c.lane n).any (·.pred p) then o.fa n else o.fb n) s

/-! ## Integer arithmetic (R94 to R101) -/

/-- IADD (R94). -/
def execIadd (d : Rn) (a b : Src) (s : State) : Host.Outcome State Fault Refusal := Act.run (bin32 d a b (· + ·)) s

/-- ISUB (R94). -/
def execIsub (d : Rn) (a b : Src) (s : State) : Host.Outcome State Fault Refusal := Act.run (bin32 d a b (· - ·)) s

/-- IADDI (R95). -/
def execIaddi (d a : Rn) (la : Bool) (imm : BitVec 10) (s : State) : Host.Outcome State Fault Refusal :=
  Act.run (un32 d ⟨a, la, false⟩ (· + imm.signExtend 32)) s

/-- IMUL (R94). -/
def execImul (d : Rn) (a b : Src) (s : State) : Host.Outcome State Fault Refusal := Act.run (bin32 d a b (· * ·)) s

/-- IMULH (R96). -/
def execImulh (d : Rn) (a b : Src) (n : Bool) (s : State) : Host.Outcome State Fault Refusal :=
  Act.run (bin32 d a b fun x y =>
    let p : DWord := if n then x.zeroExtend 64 * y.zeroExtend 64 else x.signExtend 64 * y.signExtend 64
    (p >>> 32).truncate 32) s

/-- IMAD (R96). -/
def execImad (d : Rn) (a b c : Src) (s : State) : Host.Outcome State Fault Refusal :=
  Act.run (tri32 d a b c fun x y z => x * y + z) s

/-- IMADW (R96). -/
def execImadw (d : Rn) (a b c : Src) (n : Bool) (s : State) : Host.Outcome State Fault Refusal :=
  Act.run (lanewise ⟨some (d, 2), [useA a, useB b, useC c 2]⟩ fun o l =>
    if n then (o.wa l).zeroExtend 64 * (o.wb l).zeroExtend 64 + o.fc l
    else (o.wa l).signExtend 64 * (o.wb l).signExtend 64 + o.fc l) s

/-- IDIV (R97): its result is written when it completes. -/
def execIdiv (d : Rn) (a b : Src) (rem n w64 : Bool) (lh : BitVec 4) (s : State) : Host.Outcome State Fault Refusal :=
  Act.run (issueLong (.idiv d a b rem n w64 lh) (shapeAB d a b (if w64 then 2 else 1)) fine lh.toNat false) s

/-- A pair or single choice between A and B. -/
def pick (d : Rn) (a b : Src) (n w64 max : Bool) : Act Unit :=
  lanewise (shapeAB d a b (if w64 then 2 else 1)) fun o l =>
    let lt := if w64 then less n (o.fa l) (o.fb l) else less n (o.wa l) (o.wb l)
    if lt != max then o.fa l else o.fb l

/-- IMIN (R98). -/
def execImin (d : Rn) (a b : Src) (n w64 : Bool) (s : State) : Host.Outcome State Fault Refusal :=
  Act.run (pick d a b n w64 false) s

/-- IMAX (R98). -/
def execImax (d : Rn) (a b : Src) (n w64 : Bool) (s : State) : Host.Outcome State Fault Refusal :=
  Act.run (pick d a b n w64 true) s

/-- ABS (R99). -/
def execAbs (d : Rn) (a : Src) (s : State) : Host.Outcome State Fault Refusal :=
  Act.run (un32 d a fun x => if x.msb then -x else x) s

/-- NEG (R99). -/
def execNeg (d : Rn) (a : Src) (s : State) : Host.Outcome State Fault Refusal := Act.run (un32 d a fun x => -x) s

/-- POPC (R99). -/
def execPopc (d : Rn) (a : Src) (s : State) : Host.Outcome State Fault Refusal :=
  Act.run (un32 d a fun x => BitVec.ofNat 32 (popcount 32 x.toNat)) s

/-- CLZ (R99). -/
def execClz (d : Rn) (a : Src) (s : State) : Host.Outcome State Fault Refusal :=
  Act.run (un32 d a fun x => BitVec.ofNat 32 (clzNat 32 x.toNat)) s

/-- CTZ (R99). -/
def execCtz (d : Rn) (a : Src) (s : State) : Host.Outcome State Fault Refusal :=
  Act.run (un32 d a fun x => BitVec.ofNat 32 (ctzNat 32 x.toNat)) s

/-- BREV (R99). -/
def execBrev (d : Rn) (a : Src) (s : State) : Host.Outcome State Fault Refusal :=
  Act.run (un32 d a BitVec.reverse) s

/-- NOT (R99). -/
def execNot (d : Rn) (a : Src) (s : State) : Host.Outcome State Fault Refusal := Act.run (un32 d a fun x => ~~~x) s

/-- SX8 (R99). -/
def execSx8 (d : Rn) (a : Src) (s : State) : Host.Outcome State Fault Refusal :=
  Act.run (un32 d a fun x => (x.truncate 8).signExtend 32) s

/-- SX16 (R99). -/
def execSx16 (d : Rn) (a : Src) (s : State) : Host.Outcome State Fault Refusal :=
  Act.run (un32 d a fun x => (x.truncate 16).signExtend 32) s

/-- ZX8 (R99). -/
def execZx8 (d : Rn) (a : Src) (s : State) : Host.Outcome State Fault Refusal :=
  Act.run (un32 d a fun x => x &&& 0xFF) s

/-- ZX16 (R99). -/
def execZx16 (d : Rn) (a : Src) (s : State) : Host.Outcome State Fault Refusal :=
  Act.run (un32 d a fun x => x &&& 0xFFFF) s

/-- SX32 (R99). -/
def execSx32 (d : Rn) (a : Src) (s : State) : Host.Outcome State Fault Refusal :=
  Act.run (lanewise (shapeA d a 2 1) fun o l => (o.wa l).signExtend 64) s

/-- A function of the A pair with a pair result, or with a result of one register. -/
def un64 (d : Rn) (a : Src) (wd : Nat) (f : DWord → DWord) : Act Unit := lanewise (shapeA d a wd 2) fun o l => f (o.fa l)

/-- ABS.64 (R99). -/
def execAbs64 (d : Rn) (a : Src) (s : State) : Host.Outcome State Fault Refusal :=
  Act.run (un64 d a 2 fun x => if x.msb then -x else x) s

/-- NEG.64 (R99). -/
def execNeg64 (d : Rn) (a : Src) (s : State) : Host.Outcome State Fault Refusal := Act.run (un64 d a 2 fun x => -x) s

/-- POPC.64 (R99). -/
def execPopc64 (d : Rn) (a : Src) (s : State) : Host.Outcome State Fault Refusal :=
  Act.run (un64 d a 1 fun x => BitVec.ofNat 64 (popcount 64 x.toNat)) s

/-- CLZ.64 (R99). -/
def execClz64 (d : Rn) (a : Src) (s : State) : Host.Outcome State Fault Refusal :=
  Act.run (un64 d a 1 fun x => BitVec.ofNat 64 (clzNat 64 x.toNat)) s

/-- CTZ.64 (R99). -/
def execCtz64 (d : Rn) (a : Src) (s : State) : Host.Outcome State Fault Refusal :=
  Act.run (un64 d a 1 fun x => BitVec.ofNat 64 (ctzNat 64 x.toNat)) s

/-- BREV.64 (R99). -/
def execBrev64 (d : Rn) (a : Src) (s : State) : Host.Outcome State Fault Refusal :=
  Act.run (un64 d a 2 BitVec.reverse) s

/-- NOT.64 (R99). -/
def execNot64 (d : Rn) (a : Src) (s : State) : Host.Outcome State Fault Refusal := Act.run (un64 d a 2 fun x => ~~~x) s

/-! ## Compare and set (R102, R103) -/

/-- A comparison of one lane. -/
def cmpLane (o : Opn) (l : Nat) (cc : ICond) (n w64 : Bool) : Bool :=
  if w64 then icond cc n (o.fa l) (o.fb l) else icond cc n (o.wa l) (o.wb l)

/-- ICMP (R102). -/
def execIcmp (pd : Nat) (a b : Src) (cc : ICond) (n w64 : Bool) (comb : Comb) (s : State) :
    Host.Outcome State Fault Refusal :=
  Act.run (do
    let w := if w64 then 2 else 1
    let sh : Shape := ⟨none, [useA a w, useB b w]⟩
    let o ← begin' sh fine false false
    finish sh o fun c i => c.writePred i pd fun k l => combine comb l (cmpLane o k cc n w64)) s

/-- ISET (R103). -/
def execIset (d : Rn) (a b : Src) (cc : ICond) (n w64 mask : Bool) (s : State) : Host.Outcome State Fault Refusal :=
  Act.run (do
    let w := if w64 then 2 else 1
    lanewise ⟨some (d, 1), [useA a w, useB b w]⟩ fun o l =>
      if cmpLane o l cc n w64 then (if mask then 0xFFFFFFFF else 1) else 0) s

/-! ## Logic and shifts (R94, R104 to R106) -/

/-- AND (R94). -/
def execAnd (d : Rn) (a b : Src) (s : State) : Host.Outcome State Fault Refusal := Act.run (bin32 d a b (· &&& ·)) s

/-- OR (R94). -/
def execOr (d : Rn) (a b : Src) (s : State) : Host.Outcome State Fault Refusal := Act.run (bin32 d a b (· ||| ·)) s

/-- XOR (R94). -/
def execXor (d : Rn) (a b : Src) (s : State) : Host.Outcome State Fault Refusal := Act.run (bin32 d a b (· ^^^ ·)) s

/-- ANDN (R94). -/
def execAndn (d : Rn) (a b : Src) (s : State) : Host.Outcome State Fault Refusal :=
  Act.run (bin32 d a b fun x y => x &&& ~~~y) s

/-- LUT3 (R104). -/
def execLut3 (d : Rn) (a b c : Src) (tt : BitVec 8) (s : State) : Host.Outcome State Fault Refusal :=
  Act.run (tri32 d a b c (lut3 tt)) s

/-- SHL (R94). -/
def execShl (d : Rn) (a b : Src) (s : State) : Host.Outcome State Fault Refusal :=
  Act.run (bin32 d a b fun x y => x <<< shAmt y) s

/-- SHR (R94). -/
def execShr (d : Rn) (a b : Src) (s : State) : Host.Outcome State Fault Refusal :=
  Act.run (bin32 d a b fun x y => x >>> shAmt y) s

/-- SAR (R94). -/
def execSar (d : Rn) (a b : Src) (s : State) : Host.Outcome State Fault Refusal :=
  Act.run (bin32 d a b fun x y => x.sshiftRight (shAmt y)) s

/-- ROT (R94). -/
def execRot (d : Rn) (a b : Src) (s : State) : Host.Outcome State Fault Refusal :=
  Act.run (bin32 d a b fun x y => x.rotateLeft (shAmt y)) s

/-- FSH (R105). -/
def execFsh (d : Rn) (a b : Src) (amt : FshAmt) (right clamp : Bool) (s : State) : Host.Outcome State Fault Refusal :=
  Act.run (lanewise ⟨some (d, 1), [useA a, useB b] ++ fshUses amt⟩ fun o l =>
    zx (funnel right clamp (o.wa l) (o.wb l) (fshGet amt (o.wc l)))) s

/-- BFX (R106). -/
def execBfx (d : Rn) (a : Src) (signed : Bool) (pl : PosLen) (s : State) : Host.Outcome State Fault Refusal :=
  Act.run (lanewise ⟨some (d, 1), useA a :: posLenUses pl⟩ fun o l =>
    let p := posLenGet pl (o.wc l)
    zx (bfx signed (o.wa l) p.1 p.2)) s

/-- BFI (R106). -/
def execBfi (d : Rn) (a b : Src) (pl : PosLen) (s : State) : Host.Outcome State Fault Refusal :=
  Act.run (lanewise ⟨some (d, 1), [useA a, useB b] ++ posLenUses pl⟩ fun o l =>
    let p := posLenGet pl (o.wc l)
    zx (bfi (o.wa l) (o.wb l) p.1 p.2)) s

/-- LEA (R101). -/
def execLea (d : Rn) (a b : Src) (shift : BitVec 3) (zeroExt : Bool) (off : BitVec 11) (s : State) :
    Host.Outcome State Fault Refusal :=
  Act.run (lanewise ⟨some (d, 2), [useA a 2, useB b]⟩ fun o l =>
    let x : DWord := if zeroExt then (o.wb l).zeroExtend 64 else (o.wb l).signExtend 64
    o.fa l + (x <<< shift.toNat) + off.signExtend 64) s

/-- IDOT4 (R100). -/
def execIdot4 (d : Rn) (a b c : Src) (na nb sat : Bool) (s : State) : Host.Outcome State Fault Refusal :=
  Act.run (tri32 d a b c (idot4 na nb sat)) s

/-! ## Predicates (R107, R108) -/

/-- PLOG (R107). -/
def execPlog (pd pa pb pc : Nat) (tt : BitVec 8) (s : State) : Host.Outcome State Fault Refusal :=
  Act.run (do
    let sh : Shape := ⟨none, []⟩
    let o ← begin' sh fine false false
    finish sh o fun c i => c.writePred i pd fun _ l => lutBit tt (l.pred pa) (l.pred pb) (l.pred pc)) s

/-- A destination computed from a lane's predicates. -/
def fromPreds (d : Rn) (f : Lane → Nat) : Act Unit := do
  let sh : Shape := ⟨some (d, 1), []⟩
  let o ← begin' sh fine false false
  finish sh o fun c i => c.writeDst i sh fun n => BitVec.ofNat 64 (((c.lane n).map f).getD 0)

/-- Predicates `lo` to `lo + count - 1` set from the bits of A. -/
def toPreds (a : Src) (lo count : Nat) : Act Unit := do
  let sh : Shape := ⟨none, [useA a]⟩
  let o ← begin' sh fine false false
  finish sh o fun c i => c.mapLanes i.act fun n l =>
    (List.range count).foldl (fun l k => l.setPred (lo + k) ((o.wa n).getLsbD k)) l

/-- PMOV.get0 (R108). -/
def execPmovGet0 (d : Rn) (s : State) : Host.Outcome State Fault Refusal :=
  Act.run (fromPreds d fun l => bits l.predNat 0 32) s

/-- PMOV.get1 (R108). -/
def execPmovGet1 (d : Rn) (s : State) : Host.Outcome State Fault Refusal :=
  Act.run (fromPreds d fun l => bits l.predNat 32 16) s

/-- PMOV.set0 (R108). -/
def execPmovSet0 (a : Src) (s : State) : Host.Outcome State Fault Refusal := Act.run (toPreds a 0 32) s

/-- PMOV.set1 (R108). -/
def execPmovSet1 (a : Src) (s : State) : Host.Outcome State Fault Refusal := Act.run (toPreds a 32 15) s

/-- PMOV, predicate to register (R108). -/
def execPmovPredToReg (d : Rn) (p : Nat) (s : State) : Host.Outcome State Fault Refusal :=
  Act.run (fromPreds d fun l => b1 (l.pred p)) s

/-- PMOV, register to predicate (R108). -/
def execPmovRegToPred (p : Nat) (a : Src) (s : State) : Host.Outcome State Fault Refusal :=
  Act.run (do
    let sh : Shape := ⟨none, [useA a]⟩
    let o ← begin' sh fine false false
    finish sh o fun c i => c.writePred i p fun n _ => o.wa n != 0) s

end Sys2Proof.Machine
end

