-- ==== Sys2Proof/Machine/Flags.lean ====
section
/-! DEFINITION. FPCR (R132, R133): rounding modes, the flags and how an issue merges them. -/

namespace Sys2Proof.Machine

/-- FPCR.RMODE (R132). -/
inductive RMode where
  | rne | rz | rd | ru
deriving DecidableEq, Repr, Inhabited

/-- The sticky flags (R137). -/
structure Flags where
  iv : Bool
  dz : Bool
  of : Bool
  uf : Bool
  nx : Bool
deriving DecidableEq, Repr, Inhabited

def Flags.none : Flags := ⟨false, false, false, false, false⟩
def Flags.invalid (b : Bool) : Flags := ⟨b, false, false, false, false⟩
def Flags.or (a b : Flags) : Flags := ⟨a.iv || b.iv, a.dz || b.dz, a.of || b.of, a.uf || b.uf, a.nx || b.nx⟩

/-- The flags at their places in FPCR (R132). -/
def Flags.word (f : Flags) : Word :=
  BitVec.ofNat 32 (b1 f.iv * 4096 + b1 f.dz * 2048 + b1 f.of * 1024 + b1 f.uf * 512 + b1 f.nx * 256)

/-- What governs an operation: rounding, FTZ and NANP. -/
structure FpEnv where
  mode : RMode
  ftz : Bool
  nanp : Bool
deriving DecidableEq, Repr, Inhabited

def modeOf (n : Nat) : RMode :=
  match n with
  | 0 => .rne
  | 1 => .rz
  | 2 => .rd
  | _ => .ru

/-- The environment that FPCR and an RM override give (R132, R134). -/
def envOf (fpcr : Word) (rm : Rm) : FpEnv :=
  { mode := match rm with
      | .fpcr => modeOf (bits fpcr.toNat 0 2)
      | .rne => .rne
      | .rz => .rz
      | .rd => .rd,
    ftz := fpcr.getLsbD 2, nanp := fpcr.getLsbD 3 }

/-- Merge the flags of the lanes of a set into FPCR (R133). -/
def Crew.mergeFlags (c : Crew) (m : LaneMask) (f : Nat → Flags) : Crew :=
  { c with fpcr := (lanesOf m).foldl (fun w n => w ||| (f n).word) c.fpcr }

/-- A write of FPCR: RMODE, FTZ, NANP are taken, the flags are cleared by ones (R132). -/
def fpcrWrite (old v : Word) : Word := (old &&& 0x1F00 &&& ~~~v) ||| (v &&& 0xF)

/-- A lane-by-lane floating-point instruction (R138): the results, and the flags of the lanes of ACTIVE. -/
def fpLanes (sh : Shape) (rm : Rm) (f : FpEnv → Opn → Nat → DWord × Flags) : Act Unit := do
  let o ← begin' sh fine false false
  finish sh o fun c i =>
    let env := envOf c.fpcr rm
    (c.writeDst i sh fun n => (f env o n).1).mergeFlags i.act fun n => (f env o n).2

end Sys2Proof.Machine
end

