-- ==== Sys2Proof/Machine/Float.lean ====
section
/-! DEFINITION. The arithmetic of the number formats (R128 to R137): exact values, rounding, and the operations of
04_number_formats.md on one lane. -/

namespace Sys2Proof.Machine

/-! ## Formats and values (R128) -/

/-- A format: width, precision, the exponent of its least quantum, the bits of its largest finite magnitude, of its
infinity and of its canonical NaN. -/
structure Fmt where
  w : Nat
  p : Nat
  qmin : Int
  maxB : Nat
  infB : Option Nat
  nanB : Nat
deriving DecidableEq, Repr

def fp64 : Fmt := ⟨64, 53, -1074, 0x7FEFFFFFFFFFFFFF, some 0x7FF0000000000000, 0x7FF8000000000000⟩
def fp32 : Fmt := ⟨32, 24, -149, 0x7F7FFFFF, some 0x7F800000, 0x7FC00000⟩
def fp16 : Fmt := ⟨16, 11, -24, 0x7BFF, some 0x7C00, 0x7E00⟩
def bf16 : Fmt := ⟨16, 8, -133, 0x7F7F, some 0x7F80, 0x7FC0⟩
def e4m3 : Fmt := ⟨8, 4, -9, 0x7E, none, 0x7F⟩
def e5m2 : Fmt := ⟨8, 3, -16, 0x7B, some 0x7C, 0x7E⟩
def e2m1 : Fmt := ⟨4, 2, -1, 7, none, 0⟩

/-- A value: NaN (signalling or not), infinity, or the number `±m × 2^e`. -/
inductive Val where
  | nan (sig : Bool)
  | inf (neg : Bool)
  | fin (neg : Bool) (m : Nat) (e : Int)
deriving DecidableEq, Repr, Inhabited

/-- The value of bits (R128). -/
def decodeF (f : Fmt) (b : Nat) : Val :=
  let neg := b.testBit (f.w - 1)
  let mag := b % 2 ^ (f.w - 1)
  if f.maxB < mag then
    if f.infB == some mag then .inf neg else .nan (f.infB.isSome && !mag.testBit (f.p - 2))
  else
    let ef := mag / 2 ^ (f.p - 1)
    let fr := mag % 2 ^ (f.p - 1)
    if ef = 0 then .fin neg fr f.qmin else .fin neg (fr + 2 ^ (f.p - 1)) (f.qmin + ef - 1)

def Val.isNan : Val → Bool
  | .nan _ => true
  | _ => false
def Val.isSnan : Val → Bool
  | .nan b => b
  | _ => false
def Val.isInf : Val → Bool
  | .inf _ => true
  | _ => false
def Val.neg? : Val → Bool
  | .nan _ => false
  | .inf n => n
  | .fin n _ _ => n
def Val.isZero : Val → Bool
  | .fin _ m _ => m == 0
  | _ => false
def Val.negate : Val → Val
  | .nan b => .nan b
  | .inf n => .inf !n
  | .fin n m e => .fin (!n) m e
def Val.negIf (b : Bool) (v : Val) : Val := if b then v.negate else v

/-- An FP32 operand: a subnormal reads as zero under FTZ (R135). -/
def read32 (env : FpEnv) (w : Word) : Val :=
  match decodeF fp32 w.toNat with
  | .fin n m e => if env.ftz && m < 2 ^ 23 then .fin n 0 e else .fin n m e
  | v => v

/-! ## Rounding (R134, R135) -/

/-- Does a magnitude with remainder `r` of `2^k` above quantum `n` round up? -/
def roundUp (mode : RMode) (neg : Bool) (n r k : Nat) : Bool :=
  r != 0 &&
  match mode with
  | .rne => 2 ^ k < 2 * r || (2 * r == 2 ^ k && n % 2 == 1)
  | .rz => false
  | .rd => neg
  | .ru => !neg

/-- `m × 2^e` to a multiple of `2^q`: the multiple, and whether it is inexact. -/
def toQuantum (mode : RMode) (neg : Bool) (m : Nat) (e q : Int) : Nat × Bool :=
  if q ≤ e then (m * 2 ^ (e - q).toNat, false)
  else
    let k := (q - e).toNat
    let n := m / 2 ^ k
    let r := m % 2 ^ k
    (if roundUp mode neg n r k then n + 1 else n, r != 0)

/-- Does overflow give infinity (or what stands for it), and not the largest finite number (R134)? -/
def overToInf (mode : RMode) (neg : Bool) : Bool :=
  match mode with
  | .rne => true
  | .rz => false
  | .rd => neg
  | .ru => !neg

/-- The magnitude bits of a non-zero number rounded once, with its flags; `none` for a result that is infinity. -/
def roundMag (f : Fmt) (mode : RMode) (ftz neg : Bool) (m : Nat) (e : Int) : Option Nat × Flags :=
  let qu : Int := e + (Nat.log2 m : Int) + 1 - f.p
  let q := max qu f.qmin
  let (n, inexact) := toQuantum mode neg m e q
  let (nu, _) := toQuantum mode neg m e qu
  let tiny := decide (qu < f.qmin) && !(decide (f.qmin ≤ qu + 1) && nu == 2 ^ f.p)
  let b := (q - f.qmin).toNat * 2 ^ (f.p - 1) + n
  if ftz && tiny then (some 0, ⟨false, false, false, true, true⟩)
  else if f.maxB < b then
    (if overToInf mode neg then none else some f.maxB, ⟨false, false, true, false, true⟩)
  else (some b, ⟨false, false, false, tiny && inexact, inexact⟩)

def signBit (f : Fmt) (neg : Bool) : Nat := if neg then 2 ^ (f.w - 1) else 0

/-- A value in a format with infinities, rounded once (R134); a NaN is canonical. -/
def roundTo (f : Fmt) (mode : RMode) (ftz : Bool) (v : Val) : Nat × Flags :=
  match v with
  | .nan _ => (f.nanB, .none)
  | .inf n => (f.infB.getD f.maxB + signBit f n, .none)
  | .fin n m e =>
    if m = 0 then (signBit f n, .none)
    else
      let (b, fl) := roundMag f mode ftz n m e
      (b.getD (f.infB.getD f.maxB) + signBit f n, fl)

/-- A result in FP32, with R136 for NaNs that arise from NaN operands: `poison` says that one is the poison pattern. -/
def round32 (env : FpEnv) (poison : Bool) (v : Val) : DWord × Flags :=
  if v.isNan && env.nanp && poison then (0x7FA5A5A5, .none)
  else
    let (b, fl) := roundTo fp32 env.mode env.ftz v
    (BitVec.ofNat 64 b, fl)

def isPoison (w : Word) : Bool := w == poisonWord

/-! ## Exact arithmetic -/

/-- A product, and whether it is invalid. -/
def mulV (a b : Val) : Val × Bool :=
  match a, b with
  | .nan s, .nan t => (.nan (s || t), false)
  | .nan s, .inf _ => (.nan s, false)
  | .nan s, .fin _ _ _ => (.nan s, false)
  | .inf _, .nan s => (.nan s, false)
  | .fin _ _ _, .nan s => (.nan s, false)
  | .inf m, .inf n => (.inf (m != n), false)
  | .inf m, .fin n k _ => if k = 0 then (.nan false, true) else (.inf (m != n), false)
  | .fin n k _, .inf m => if k = 0 then (.nan false, true) else (.inf (m != n), false)
  | .fin m j e, .fin n k g => (.fin (m != n) (j * k) (e + g), false)

def leastInt : List Int → Int
  | [] => 0
  | [x] => x
  | x :: y :: l => min x (leastInt (y :: l))

/-- The exact sum of finite terms; an exact zero takes the common sign, else the sign of the mode (R134). -/
def sumFin (mode : RMode) (ts : List (Bool × Nat × Int)) : Val :=
  let e := leastInt (ts.map (·.2.2))
  let s : Int := (ts.map fun t => (if t.1 then -1 else 1) * ((t.2.1 * 2 ^ (t.2.2 - e).toNat : Nat) : Int)).sum
  if s = 0 then
    if ts.all (·.1) then .fin true 0 e
    else if ts.all fun t => !t.1 then .fin false 0 e
    else .fin (mode == .rd) 0 e
  else .fin (decide (s < 0)) s.natAbs e

/-- A sum of terms, and whether it is invalid (infinities of both signs). -/
def sumV (mode : RMode) (ts : List Val) : Val × Bool :=
  let pos := ts.contains (.inf false)
  let neg := ts.contains (.inf true)
  if ts.any Val.isNan then (.nan false, pos && neg)
  else if pos && neg then (.nan false, true)
  else if pos then (.inf false, false)
  else if neg then (.inf true, false)
  else (sumFin mode (ts.filterMap fun v => match v with
    | .fin n m e => some (n, m, e)
    | _ => none), false)

/-- A quotient: dividing leaves enough bits to round, with a sticky bit. -/
def divV (a b : Val) : Val × Flags :=
  match a, b with
  | .nan _, _ => (.nan false, .none)
  | _, .nan _ => (.nan false, .none)
  | .inf _, .inf _ => (.nan false, .invalid true)
  | .inf m, .fin n _ _ => (.inf (m != n), .none)
  | .fin m _ _, .inf n => (.fin (m != n) 0 0, .none)
  | .fin m j e, .fin n k g =>
    if k = 0 then (if j = 0 then (.nan false, .invalid true) else (.inf (m != n), ⟨false, true, false, false, false⟩))
    else
      let x := j * 2 ^ 128
      (.fin (m != n) (2 * (x / k) + (if x % k = 0 then 0 else 1)) (e - g - 129), .none)

/-- Compare two numbers (not NaN): below, equal or above. -/
def compareV (a b : Val) : Ordering :=
  match a, b with
  | .inf m, .inf n => if m == n then .eq else if m then .lt else .gt
  | .inf m, _ => if m then .lt else .gt
  | _, .inf n => if n then .gt else .lt
  | .fin m j e, .fin n k g =>
    let l := min e g
    let x : Int := (if m then -1 else 1) * ((j * 2 ^ (e - l).toNat : Nat) : Int)
    let y : Int := (if n then -1 else 1) * ((k * 2 ^ (g - l).toNat : Nat) : Int)
    compare x y
  | _, _ => .eq

/-- FCOND (R74, R142). -/
def fcond (cc : FCond) (a b : Val) : Bool :=
  let un := a.isNan || b.isNan
  let o := compareV a b
  match cc with
  | .eq => !un && o == .eq
  | .ne => un || o != .eq
  | .lt => !un && o == .lt
  | .le => !un && o != .gt
  | .gt => !un && o == .gt
  | .ge => !un && o != .lt
  | .un => un
  | .ord => !un

/-- minimumNumber and maximumNumber (R141): which operand is taken; none when both are NaN. -/
def minMax (max : Bool) (a b : Val) : Option Bool :=
  match a.isNan, b.isNan with
  | true, true => none
  | true, false => some true
  | false, true => some false
  | false, false =>
    if a.isZero && b.isZero then some (if max then a.neg? && !b.neg? else b.neg? && !a.neg?)
    else
      match compareV a b with
      | .lt => some max
      | .gt => some !max
      | .eq => some false

/-! ## FP32 and FP64 operations -/

/-- A multiply-add with one rounding (R140, R152): the value and its IV. -/
def fmaV (mode : RMode) (np nc : Bool) (a b c : Val) : Val × Bool :=
  let (p, bad) := mulV a b
  let (v, bad2) := sumV mode [p.negIf np, c.negIf nc]
  (v, bad || bad2 || a.isSnan || b.isSnan || c.isSnan)

def add32 (env : FpEnv) (x y : Word) : DWord × Flags :=
  let (a, b) := (read32 env x, read32 env y)
  let (v, bad) := sumV env.mode [a, b]
  let (r, fl) := round32 env (isPoison x || isPoison y) v
  (r, fl.or (.invalid (bad || a.isSnan || b.isSnan)))

def sub32 (env : FpEnv) (x y : Word) : DWord × Flags :=
  let (a, b) := (read32 env x, read32 env y)
  let (v, bad) := sumV env.mode [a, b.negate]
  let (r, fl) := round32 env (isPoison x || isPoison y) v
  (r, fl.or (.invalid (bad || a.isSnan || b.isSnan)))

def mul32 (env : FpEnv) (x y : Word) : DWord × Flags :=
  let (a, b) := (read32 env x, read32 env y)
  let (v, bad) := mulV a b
  let (r, fl) := round32 env (isPoison x || isPoison y) v
  (r, fl.or (.invalid (bad || a.isSnan || b.isSnan)))

/-- FFMA (R140). The poison pattern as an operand passes on, with 0 times infinity too (R136, log entry 32). -/
def fma32 (env : FpEnv) (np nc : Bool) (x y z : Word) : DWord × Flags :=
  let (v, bad) := fmaV env.mode np nc (read32 env x) (read32 env y) (read32 env z)
  let (r, fl) := round32 env (isPoison x || isPoison y || isPoison z) v
  (r, fl.or (.invalid bad))

def div32 (env : FpEnv) (x y : Word) : DWord × Flags :=
  let (a, b) := (read32 env x, read32 env y)
  let (v, f0) := divV a b
  let (r, fl) := round32 env (isPoison x || isPoison y) v
  (r, (fl.or f0).or (.invalid (a.isSnan || b.isSnan)))

/-- FMIN and FMAX (R141). -/
def minMax32 (max : Bool) (env : FpEnv) (x y : Word) : DWord × Flags :=
  let (a, b) := (read32 env x, read32 env y)
  let fl := Flags.invalid (a.isSnan || b.isSnan)
  match minMax max a b with
  | none => ((round32 env (isPoison x || isPoison y) (.nan false)).1, fl)
  | some second => ((round32 ⟨.rne, false, false⟩ false (if second then b else a)).1, fl)

def round64 (mode : RMode) (v : Val) : DWord × Flags :=
  let (b, fl) := roundTo fp64 mode false v
  (BitVec.ofNat 64 b, fl)

def read64 (x : DWord) : Val := decodeF fp64 x.toNat

def add64 (env : FpEnv) (x y : DWord) : DWord × Flags :=
  let (a, b) := (read64 x, read64 y)
  let (v, bad) := sumV env.mode [a, b]
  let (r, fl) := round64 env.mode v
  (r, fl.or (.invalid (bad || a.isSnan || b.isSnan)))

def mul64 (env : FpEnv) (x y : DWord) : DWord × Flags :=
  let (a, b) := (read64 x, read64 y)
  let (v, bad) := mulV a b
  let (r, fl) := round64 env.mode v
  (r, fl.or (.invalid (bad || a.isSnan || b.isSnan)))

def fma64 (env : FpEnv) (np nc : Bool) (x y z : DWord) : DWord × Flags :=
  let (v, bad) := fmaV env.mode np nc (read64 x) (read64 y) (read64 z)
  let (r, fl) := round64 env.mode v
  (r, fl.or (.invalid bad))

def minMax64 (max : Bool) (x y : DWord) : DWord × Flags :=
  let (a, b) := (read64 x, read64 y)
  let fl := Flags.invalid (a.isSnan || b.isSnan)
  match minMax max a b with
  | none => (BitVec.ofNat 64 fp64.nanB, fl)
  | some second => (if second then y else x, fl)

/-- The flags of FCMP and DCMP (R142). -/
def cmpFlags (sig : Bool) (a b : Val) : Flags := .invalid (a.isSnan || b.isSnan || (sig && (a.isNan || b.isNan)))

/-- FRINT (R143): integral values keep the sign of A; never NX. -/
def rint32 (env : FpEnv) (x : Word) : DWord × Flags :=
  match read32 env x with
  | .nan s => ((round32 env (isPoison x) (.nan s)).1, .invalid s)
  | .inf n => ((round32 env false (.inf n)).1, .none)
  | .fin n m e =>
    let v : Val := if 0 ≤ e then .fin n m e else .fin n (toQuantum env.mode n m e 0).1 0
    ((round32 env false v).1, .none)

/-- FSAT (R143). -/
def fsat32 (env : FpEnv) (x : Word) : DWord :=
  match read32 env x with
  | .nan _ => 0
  | .inf n => if n then 0 else 0x3F800000
  | .fin n m e => if n || m = 0 then 0 else if compareV (.fin n m e) (.fin false 1 0) == .gt then 0x3F800000 else zx x

/-- FCLASS, from the raw bits (R143). -/
def fclass32 (x : Word) : Nat :=
  match decodeF fp32 x.toNat with
  | .nan s => if s then 1 else 2
  | .inf n => if n then 4 else 512
  | .fin n m _ =>
    if m = 0 then (if n then 32 else 64)
    else if m < 2 ^ 23 then (if n then 16 else 128)
    else if n then 8 else 256

/-! ## The functions of FSPEC (R145)

The results are the exact values rounded once. They are computed to `fxBits` bits of fraction, far more than the distance
of any FP32 operand's result from a rounding boundary (log entry 12). -/

def fxBits : Nat := 480

/-- The integer square root of a number below `4^k`. -/
def isqrt (x : Nat) : (k : Nat) → Nat → Nat
  | 0, r => r
  | k + 1, r => if (r + 2 ^ k) * (r + 2 ^ k) ≤ x then isqrt x k (r + 2 ^ k) else isqrt x k r

/-- Σ z^(2k+1) / (2k+1), alternating when `alt`, for k from `k` on; `t` is z^(2k+1) and `z2` is z², to `fxBits` bits. -/
def atanSeries (alt : Bool) (z2 : Nat) : (fuel k : Nat) → (t : Nat) → Int
  | 0, _, _ => 0
  | fuel + 1, k, t =>
    let term : Int := (t / (2 * k + 1) : Nat)
    (if alt && k % 2 == 1 then -term else term) + atanSeries alt z2 fuel (k + 1) (t * z2 / 2 ^ fxBits)

/-- ln 2 = 2 artanh(1/3). -/
def ln2Fx : Nat := (2 * atanSeries false (2 ^ fxBits / 9) 160 0 (2 ^ fxBits / 3)).toNat

/-- π / 2 = 8 arctan(1/5) - 2 arctan(1/239). -/
def halfPiFx : Nat :=
  (8 * atanSeries true (2 ^ fxBits / 25) 110 0 (2 ^ fxBits / 5) -
    2 * atanSeries true (2 ^ fxBits / 57121) 40 0 (2 ^ fxBits / 239)).toNat

/-- Σ r^n / n!, from n on, every `step`-th term; `t` is r^n / n!. -/
def expSeries (alt : Bool) (r step : Nat) : (fuel n : Nat) → (t : Nat) → (sign : Bool) → Int
  | 0, _, _, _ => 0
  | fuel + 1, n, t, sg =>
    let t1 := t * r / 2 ^ fxBits / (n + 1)
    let t2 := if step = 2 then t1 * r / 2 ^ fxBits / (n + 2) else t1
    (if sg then -(t : Int) else (t : Int)) + expSeries alt r step fuel (n + step) t2 (alt && !sg)

def expFx (r : Nat) : Nat := (expSeries false r 1 200 0 (2 ^ fxBits) false).toNat
def sinFx (r : Nat) : Nat := (expSeries true r 2 80 1 r false).toNat
def cosFx (r : Nat) : Nat := (expSeries true r 2 80 0 (2 ^ fxBits) false).toNat

/-- A magnitude `m × 2^e` as a multiple of `2^-fxBits`. -/
def toFx (m : Nat) (e : Int) : Nat := (toQuantum .rz false m e (-(fxBits : Int))).1

/-- A computed value that is not exact: the bit below it is set. -/
def approx (neg : Bool) (x : Nat) (shift : Int) : Val := .fin neg (2 * x + 1) (shift - fxBits - 1)

/-- 2^x of a finite operand. -/
def exp2V (n : Bool) (m : Nat) (e : Int) : Val :=
  if 0 ≤ e && 1024 < m * 2 ^ e.toNat || e < 0 && 1024 < m / 2 ^ (-e).toNat then
    (if n then .fin false 1 (-1024) else .fin false 1 1024)
  else
    let x := toFx m e
    let k := x / 2 ^ fxBits
    let f := x % 2 ^ fxBits
    if f = 0 then .fin false 1 (if n then -(k : Int) else k)
    else if n then approx false (expFx ((2 ^ fxBits - f) * ln2Fx / 2 ^ fxBits)) (-(k : Int) - 1)
    else approx false (expFx (f * ln2Fx / 2 ^ fxBits)) k

/-- log2 of a positive number. -/
def log2V (m : Nat) (e : Int) : Val :=
  let l := Nat.log2 m
  let k : Int := e + l
  if m = 2 ^ l then .fin (decide (k < 0)) k.natAbs 0
  else
    let z := (m - 2 ^ l) * 2 ^ fxBits / (m + 2 ^ l)
    let ln := 2 * atanSeries false (z * z / 2 ^ fxBits) 160 0 z
    let v : Int := k * 2 ^ fxBits + ln * 2 ^ fxBits / ln2Fx
    approx (decide (v < 0)) v.natAbs 0

/-- sin, or cos, of a finite non-zero number. -/
def sinV (cos n : Bool) (m : Nat) (e : Int) : Val :=
  let x := toFx m e
  let k := x / halfPiFx + (if cos then 1 else 0)
  let r := x % halfPiFx
  let v := if k % 2 == 1 then cosFx r else sinFx r
  let down := 2 ≤ k % 4
  approx (if cos then down else down != n) v 0

/-- tanh of a finite non-zero number below 9. -/
def tanhV (n : Bool) (m : Nat) (e : Int) : Val :=
  let t := expFx (2 * toFx m e)
  approx n ((t - 2 ^ fxBits) * 2 ^ fxBits / (t + 2 ^ fxBits)) 0

/-- Square root of a positive number, or its reciprocal. -/
def sqrtV (recip : Bool) (m : Nat) (e : Int) : Val :=
  let (m, e) := if e % 2 = 0 then (m, e) else (2 * m, e - 1)
  if recip then
    let x := 2 ^ 256 / m
    let r := isqrt x 130 0
    .fin false (2 * r + (if r * r * m = 2 ^ 256 then 0 else 1)) (-(e / 2) - 129)
  else
    let x := m * 2 ^ 128
    let r := isqrt x 80 0
    .fin false (2 * r + (if r * r = x then 0 else 1)) (e / 2 - 65)

/-- The value of a function at a number, with DZ and IV of the table of R145. -/
def specV (fn : SpecFn) (v : Val) : Val × Flags :=
  let dz : Flags := ⟨false, true, false, false, false⟩
  let iv := Flags.invalid true
  match fn, v with
  | _, .nan _ => (.nan false, .none)
  | .rcp, .inf n => (.fin n 0 0, .none)
  | .rcp, .fin n m e => if m = 0 then (.inf n, dz) else ((divV (.fin n 1 0) (.fin false m e)).1, .none)
  | .rsq, .inf n => if n then (.nan false, iv) else (.fin false 0 0, .none)
  | .rsq, .fin n m e => if m = 0 then (.inf n, dz) else if n then (.nan false, iv) else (sqrtV true m e, .none)
  | .sqrt, .inf n => if n then (.nan false, iv) else (.inf false, .none)
  | .sqrt, .fin n m e =>
    if m = 0 then (.fin n 0 0, .none) else if n then (.nan false, iv) else (sqrtV false m e, .none)
  | .exp2, .inf n => if n then (.fin false 0 0, .none) else (.inf false, .none)
  | .exp2, .fin n m e => if m = 0 then (.fin false 1 0, .none) else (exp2V n m e, .none)
  | .log2, .inf n => if n then (.nan false, iv) else (.inf false, .none)
  | .log2, .fin n m e => if m = 0 then (.inf true, dz) else if n then (.nan false, iv) else (log2V m e, .none)
  | .sin, .inf _ => (.nan false, iv)
  | .sin, .fin n m e => if m = 0 then (.fin n 0 0, .none) else (sinV false n m e, .none)
  | .cos, .inf _ => (.nan false, iv)
  | .cos, .fin n m e => if m = 0 then (.fin false 1 0, .none) else (sinV true n m e, .none)
  | .tanh, .inf n => (.fin n 1 0, .none)
  | .tanh, .fin n m e =>
    if m = 0 then (.fin n 0 0, .none)
    else if compareV (.fin false m e) (.fin false 9 0) == .lt then (tanhV n m e, .none)
    else (.fin n 1 0, .none)

/-- FSPEC of one lane, with its flags (R145). -/
def spec32 (env : FpEnv) (fn : SpecFn) (x : Word) : DWord × Flags :=
  let a := read32 env x
  let (v, f0) := specV fn a
  let (r, fl) := round32 (if fn == .sqrt then env else { env with mode := .rne }) (isPoison x) v
  let fl1 : Flags := if fn == .sqrt then fl else ⟨false, false, fl.of, fl.uf && env.ftz, false⟩
  (r, (fl1.or f0).or (.invalid a.isSnan))

/-! ## Conversion (R147, R148) -/

/-- The format of a floating type. -/
def fmtOf : Ty → Option Fmt
  | .f32 => some fp32
  | .f16 => some fp16
  | .bf16 => some bf16
  | .e4m3 => some e4m3
  | .e5m2 => some e5m2
  | .e2m1 => some e2m1
  | .f64 => some fp64
  | _ => none

/-- The width of a type in bits. -/
def tyWidth : Ty → Nat
  | .f32 | .i32 | .n32 => 32
  | .f16 | .bf16 | .i16 | .n16 => 16
  | .e4m3 | .e5m2 | .i8 | .n8 => 8
  | .e2m1 => 4
  | .f64 | .i64 | .n64 => 64

def tySigned : Ty → Bool
  | .i64 | .i32 | .i16 | .i8 => true
  | _ => false

/-- The range of an integer type (R131). -/
def intRange (t : Ty) : Int × Int :=
  if tySigned t then (-(2 ^ (tyWidth t - 1)), 2 ^ (tyWidth t - 1) - 1) else (0, 2 ^ tyWidth t - 1)

def clampInt (t : Ty) (v : Int) : Int := max (intRange t).1 (min v (intRange t).2)

/-- An integer as bits of a type. -/
def intBits (t : Ty) (v : Int) : Nat := (v % 2 ^ tyWidth t).toNat

/-- The integer of bits of a type. -/
def bitsInt (t : Ty) (b : Nat) : Int :=
  if tySigned t && b.testBit (tyWidth t - 1) then (b : Int) - 2 ^ tyWidth t else b

def ofOverflow : Flags := ⟨false, false, true, false, true⟩

/-- A number or infinity to a floating type (R148). `src` says that the source is floating. -/
def toFloat (env : FpEnv) (t : Ty) (f : Fmt) (nsat : Bool) (v : Val) : Nat × Flags :=
  let ftz := env.ftz && t == .f32
  match t with
  | .e4m3 | .e5m2 =>
    if !nsat then
      match v with
      | .nan _ => (f.nanB, .none)
      | .inf n => (f.maxB + signBit f n, ofOverflow)
      | .fin n m e =>
        if m = 0 then (signBit f n, .none)
        else
          let (b, fl) := roundMag f env.mode false n m e
          (b.getD f.maxB + signBit f n, fl)
    else if t == .e5m2 then
      match v with
      | .inf n => (f.infB.getD f.maxB + signBit f n, .invalid true)
      | _ => roundTo f env.mode false v
    else
      match v with
      | .nan _ => (f.nanB, .none)
      | .inf _ => (f.nanB, .invalid true)
      | .fin n m e =>
        if m = 0 then (signBit f n, .none)
        else
          let (b, fl) := roundMag f env.mode false n m e
          (match b with
            | some b => b + signBit f n
            | none => f.nanB, fl)
  | .e2m1 =>
    match v with
    | .nan _ => (0, .invalid true)
    | .inf n => (f.maxB + signBit f n, ofOverflow)
    | .fin n m e =>
      if m = 0 then (signBit f n, .none)
      else
        let (b, fl) := roundMag f env.mode false n m e
        (b.getD f.maxB + signBit f n, fl)
  | _ => roundTo f env.mode ftz v

/-- A value to an integer type (R148). -/
def toInteger (env : FpEnv) (t : Ty) (v : Val) : Nat × Flags :=
  match v with
  | .nan _ => (0, .invalid true)
  | .inf n => (intBits t (if n then (intRange t).1 else (intRange t).2), .invalid true)
  | .fin n m e =>
    let (k, inexact) := toQuantum env.mode n m e 0
    let x : Int := if n then -(k : Int) else k
    if clampInt t x = x then (intBits t x, ⟨false, false, false, false, inexact⟩)
    else (intBits t (clampInt t x), .invalid true)

/-- Convert one element (R148): the bits of the result and the flags. -/
def convert (env : FpEnv) (dty sty : Ty) (nsat : Bool) (b : Nat) : Nat × Flags :=
  match fmtOf dty, fmtOf sty with
  | some f, some g =>
    let v := if sty == .f32 then read32 env (BitVec.ofNat 32 b) else decodeF g b
    let (r, fl) := toFloat env dty f nsat v
    (r, fl.or (.invalid v.isSnan))
  | some f, none =>
    let x := bitsInt sty b
    toFloat env dty f nsat (.fin (decide (x < 0)) x.natAbs 0)
  | none, some g =>
    let v := if sty == .f32 then read32 env (BitVec.ofNat 32 b) else decodeF g b
    toInteger env dty v
  | none, none => (intBits dty (clampInt dty (bitsInt sty b)), .none)

/-! ## Packed and narrow operations (R149 to R151) -/

/-- Element of a register: `w` bits at place `i`. -/
def elemOf (x w i : Nat) : Nat := x / 2 ^ (w * i) % 2 ^ w

/-- Replace an element. -/
def setElem (x w i v : Nat) : Nat := x - elemOf x w i * 2 ^ (w * i) + v % 2 ^ w * 2 ^ (w * i)

/-- The element of B that meets element `e` (R149). -/
def selElem (sel : BitVec 2) (e : Nat) : Nat :=
  match sel.toNat with
  | 0 => e
  | 1 => 1 - e
  | 2 => 0
  | _ => 1

/-- A packed operation on the two elements, each rounded once (R149). -/
def packed (env : FpEnv) (bf : Bool) (sel : BitVec 2) (op : Val → Val → Val → Val × Bool) (x y z : Word) :
    DWord × Flags :=
  let f := if bf then bf16 else fp16
  let one (e : Nat) : Nat × Flags :=
    let a := decodeF f (elemOf x.toNat 16 e)
    let b := decodeF f (elemOf y.toNat 16 (selElem sel e))
    let c := decodeF f (elemOf z.toNat 16 e)
    let (v, bad) := op a b c
    let (r, fl) := roundTo f env.mode false v
    (r, fl.or (.invalid bad))
  (BitVec.ofNat 64 ((one 1).1 * 2 ^ 16 + (one 0).1), (one 0).2.or (one 1).2)

/-- A dot product added to an FP32 accumulator with one rounding (R150). -/
def dotAcc (env : FpEnv) (xs ys : List Val) (z : Word) : DWord × Flags :=
  let c := read32 env z
  let ps := (xs.zip ys).map fun p => mulV p.1 p.2
  let (v, bad) := sumV env.mode (c :: ps.map (·.1))
  let (r, fl) := round32 env (isPoison z) v
  (r, fl.or (.invalid (bad || ps.any (·.2) || xs.any Val.isSnan || ys.any Val.isSnan || c.isSnan)))

def elemsOf (f : Fmt) (x n : Nat) : List Val := (List.range n).map fun i => decodeF f (elemOf x f.w i)

/-- MXSCL (R151). -/
def mxscl32 (env : FpEnv) (x : Word) (s : Nat) : DWord × Flags :=
  let a := read32 env x
  if s = 255 then ((round32 env (isPoison x) (.nan false)).1, .invalid true)
  else
    let (v, _) := mulV a (.fin false 1 ((s : Int) - 127))
    let (r, fl) := round32 env (isPoison x) v
    (r, fl.or (.invalid a.isSnan))

end Sys2Proof.Machine
end

