-- ==== Sys2Proof/Machine/Fp.lean ====
section
/-! DEFINITION. The floating-point instructions (R139 to R153). -/

namespace Sys2Proof.Machine

/-- An FP32 function of A and B under FPCR. -/
def fbin (d : Rn) (a b : Src) (f : FpEnv → Word → Word → DWord × Flags) : Act Unit :=
  fpLanes (shapeAB d a b) .fpcr fun env o n => f env (o.wa n) (o.wb n)

/-- A function of A alone under FPCR. -/
def funa (d : Rn) (a : Src) (f : FpEnv → Word → DWord × Flags) : Act Unit :=
  fpLanes (shapeA d a) .fpcr fun env o n => f env (o.wa n)

/-- An FP64 shape: every operand a pair, a literal the high word (R55). -/
def shape64 (d : Rn) (srcs : List Use) : Shape := ⟨some (d, 2), srcs⟩

/-- FADD (R139). -/
def execFadd (d : Rn) (a b : Src) (s : State) : Host.Outcome State Fault Refusal := Act.run (fbin d a b add32) s

/-- FSUB (R139). -/
def execFsub (d : Rn) (a b : Src) (s : State) : Host.Outcome State Fault Refusal := Act.run (fbin d a b sub32) s

/-- FMUL (R139). -/
def execFmul (d : Rn) (a b : Src) (s : State) : Host.Outcome State Fault Refusal := Act.run (fbin d a b mul32) s

/-- FFMA (R140). -/
def execFfma (d : Rn) (a b c : Src) (np nc : Bool) (rm : Rm) (s : State) : Host.Outcome State Fault Refusal :=
  Act.run (fpLanes (shapeABC d a b c) rm fun env o n => fma32 env np nc (o.wa n) (o.wb n) (o.wc n)) s

/-- FMIN (R141). -/
def execFmin (d : Rn) (a b : Src) (s : State) : Host.Outcome State Fault Refusal := Act.run (fbin d a b (minMax32 false)) s

/-- FMAX (R141). -/
def execFmax (d : Rn) (a b : Src) (s : State) : Host.Outcome State Fault Refusal := Act.run (fbin d a b (minMax32 true)) s

/-- A comparison into a predicate, with its flags (R142). -/
def fcmpLanes (pd : Nat) (srcs : List Use) (cc : FCond) (sig : Bool) (comb : Comb)
    (vals : FpEnv → Opn → Nat → Val × Val) : Act Unit := do
  let sh : Shape := ⟨none, srcs⟩
  let o ← begin' sh fine false false
  finish sh o fun c i =>
    let env := envOf c.fpcr .fpcr
    (c.writePred i pd fun n l => combine comb l (fcond cc (vals env o n).1 (vals env o n).2)).mergeFlags i.act fun n =>
      cmpFlags sig (vals env o n).1 (vals env o n).2

/-- FCMP (R142). -/
def execFcmp (pd : Nat) (a b : Src) (cc : FCond) (sig : Bool) (comb : Comb) (s : State) :
    Host.Outcome State Fault Refusal :=
  Act.run (fcmpLanes pd [useA a, useB b] cc sig comb fun env o n => (read32 env (o.wa n), read32 env (o.wb n))) s

/-- FABS (R143). -/
def execFabs (d : Rn) (a : Src) (s : State) : Host.Outcome State Fault Refusal :=
  Act.run (un32 d a fun x => x &&& 0x7FFFFFFF) s

/-- FNEG (R143). -/
def execFneg (d : Rn) (a : Src) (s : State) : Host.Outcome State Fault Refusal :=
  Act.run (un32 d a fun x => x ^^^ 0x80000000) s

/-- FSAT (R143). -/
def execFsat (d : Rn) (a : Src) (s : State) : Host.Outcome State Fault Refusal :=
  Act.run (funa d a fun env x => (fsat32 env x, .none)) s

/-- FCLASS (R143). -/
def execFclass (d : Rn) (a : Src) (s : State) : Host.Outcome State Fault Refusal :=
  Act.run (un32 d a fun x => BitVec.ofNat 32 (fclass32 x)) s

/-- FRINT.rne (R143). -/
def execFrintRne (d : Rn) (a : Src) (s : State) : Host.Outcome State Fault Refusal :=
  Act.run (funa d a fun env => rint32 { env with mode := .rne }) s

/-- FRINT.rz (R143). -/
def execFrintRz (d : Rn) (a : Src) (s : State) : Host.Outcome State Fault Refusal :=
  Act.run (funa d a fun env => rint32 { env with mode := .rz }) s

/-- FRINT.rd (R143). -/
def execFrintRd (d : Rn) (a : Src) (s : State) : Host.Outcome State Fault Refusal :=
  Act.run (funa d a fun env => rint32 { env with mode := .rd }) s

/-- FRINT.ru (R143). -/
def execFrintRu (d : Rn) (a : Src) (s : State) : Host.Outcome State Fault Refusal :=
  Act.run (funa d a fun env => rint32 { env with mode := .ru }) s

/-- FRINT in FPCR.RMODE (R143). -/
def execFrint (d : Rn) (a : Src) (s : State) : Host.Outcome State Fault Refusal := Act.run (funa d a rint32) s

/-- FSPEC (R144, R145): its result and flags come at completion. -/
def execFspec (d : Rn) (a : Src) (fn : SpecFn) (rm : Rm) (lh : BitVec 4) (s : State) : Host.Outcome State Fault Refusal :=
  Act.run (issueLong (.fspec d a fn rm lh) (shapeA d a) fine lh.toNat false) s

/-- FDIV (R146): its result and flags come at completion. -/
def execFdiv (d : Rn) (a b : Src) (rm : Rm) (lh : BitVec 4) (s : State) : Host.Outcome State Fault Refusal :=
  Act.run (issueLong (.fdiv d a b rm lh) (shapeAB d a b) fine lh.toNat false) s

/-- CVT (R147, R148). -/
def execCvt (d : Rn) (a b : Src) (dty sty : Ty) (nsat : Bool) (rm : Rm) (de se : BitVec 3) (s : State) :
    Host.Outcome State Fault Refusal :=
  Act.run (do
    let wd := if tyWidth dty = 64 then 2 else 1
    let ws := if tyWidth sty = 64 then 2 else 1
    let narrow := tyWidth dty < 32
    let srcs := useA a ws (sty == .f64) :: (if narrow then [useB b] else [])
    fpLanes ⟨some (d, wd), srcs⟩ rm fun env o n =>
      let x := if tyWidth sty = 64 then (o.fa n).toNat else elemOf (o.wa n).toNat (tyWidth sty) se.toNat
      let (y, fl) := convert env dty sty nsat x
      (BitVec.ofNat 64 (if narrow then setElem (o.wb n).toNat (tyWidth dty) de.toNat y else y), fl)) s

/-- PKADD (R149). -/
def execPkadd (d : Rn) (a b : Src) (bf : Bool) (sel : BitVec 2) (rm : Rm) (s : State) :
    Host.Outcome State Fault Refusal :=
  Act.run (fpLanes (shapeAB d a b) rm fun env o n =>
    packed env bf sel (fun x y _ => let (v, bad) := sumV env.mode [x, y]; (v, bad || x.isSnan || y.isSnan))
      (o.wa n) (o.wb n) 0) s

/-- PKMUL (R149). -/
def execPkmul (d : Rn) (a b : Src) (bf : Bool) (sel : BitVec 2) (rm : Rm) (s : State) :
    Host.Outcome State Fault Refusal :=
  Act.run (fpLanes (shapeAB d a b) rm fun env o n =>
    packed env bf sel (fun x y _ => let (v, bad) := mulV x y; (v, bad || x.isSnan || y.isSnan)) (o.wa n) (o.wb n) 0) s

/-- PKFMA (R149). -/
def execPkfma (d : Rn) (a b c : Src) (bf : Bool) (sel : BitVec 2) (rm : Rm) (s : State) :
    Host.Outcome State Fault Refusal :=
  Act.run (fpLanes (shapeABC d a b c) rm fun env o n =>
    packed env bf sel (fmaV env.mode false false) (o.wa n) (o.wb n) (o.wc n)) s

/-- FDOT4 (R150). -/
def execFdot4 (d : Rn) (a b c : Src) (aE5 bE5 : Bool) (rm : Rm) (s : State) : Host.Outcome State Fault Refusal :=
  Act.run (fpLanes (shapeABC d a b c) rm fun env o n =>
    dotAcc env (elemsOf (if aE5 then e5m2 else e4m3) (o.wa n).toNat 4)
      (elemsOf (if bE5 then e5m2 else e4m3) (o.wb n).toNat 4) (o.wc n)) s

/-- FDOT8 (R150). -/
def execFdot8 (d : Rn) (a b c : Src) (rm : Rm) (s : State) : Host.Outcome State Fault Refusal :=
  Act.run (fpLanes (shapeABC d a b c) rm fun env o n =>
    dotAcc env (elemsOf e2m1 (o.wa n).toNat 8) (elemsOf e2m1 (o.wb n).toNat 8) (o.wc n)) s

/-- MXSCL (R151). -/
def execMxscl (d : Rn) (a b : Src) (sel : BitVec 2) (rm : Rm) (s : State) : Host.Outcome State Fault Refusal :=
  Act.run (fpLanes (shapeAB d a b) rm fun env o n => mxscl32 env (o.wa n) (elemOf (o.wb n).toNat 8 sel.toNat)) s

/-- DADD (R152). -/
def execDadd (d : Rn) (a b : Src) (rm : Rm) (s : State) : Host.Outcome State Fault Refusal :=
  Act.run (fpLanes (shape64 d [useA a 2 true, useB b 2 true]) rm fun env o n => add64 env (o.fa n) (o.fb n)) s

/-- DMUL (R152). -/
def execDmul (d : Rn) (a b : Src) (rm : Rm) (s : State) : Host.Outcome State Fault Refusal :=
  Act.run (fpLanes (shape64 d [useA a 2 true, useB b 2 true]) rm fun env o n => mul64 env (o.fa n) (o.fb n)) s

/-- DFMA (R152). -/
def execDfma (d : Rn) (a b c : Src) (np nc : Bool) (rm : Rm) (s : State) : Host.Outcome State Fault Refusal :=
  Act.run (fpLanes (shape64 d [useA a 2 true, useB b 2 true, useC c 2 true]) rm fun env o n =>
    fma64 env np nc (o.fa n) (o.fb n) (o.fc n)) s

/-- DCMP (R153). -/
def execDcmp (pd : Nat) (a b : Src) (cc : FCond) (sig : Bool) (comb : Comb) (s : State) :
    Host.Outcome State Fault Refusal :=
  Act.run (fcmpLanes pd [useA a 2 true, useB b 2 true] cc sig comb fun _ o n => (read64 (o.fa n), read64 (o.fb n))) s

/-- DMIN (R153). -/
def execDmin (d : Rn) (a b : Src) (s : State) : Host.Outcome State Fault Refusal :=
  Act.run (fpLanes (shape64 d [useA a 2 true, useB b 2 true]) .fpcr fun _ o n => minMax64 false (o.fa n) (o.fb n)) s

/-- DMAX (R153). -/
def execDmax (d : Rn) (a b : Src) (s : State) : Host.Outcome State Fault Refusal :=
  Act.run (fpLanes (shape64 d [useA a 2 true, useB b 2 true]) .fpcr fun _ o n => minMax64 true (o.fa n) (o.fb n)) s

end Sys2Proof.Machine
end

