-- ==== Sys2Proof/Machine/LaneNet.lean ====
section
/-! DEFINITION. The lane network: neighbours, shuffles, votes, scans and matches (R156 to R173). -/

namespace Sys2Proof.Machine

/-- The width a W code gives (R157). -/
def subWidth (w : SubW) : Nat := 2 ^ (w.code + 1)

/-- A sub-group wider than the crew is ILLOPND (R157). -/
def wideFor (w : SubW) : State → Crew → Issue → Bool := fun _ c _ => c.width < subWidth w

/-- The lanes of ACTIVE in the sub-group of a lane, ascending. -/
def groupOf (act : LaneMask) (w l : Nat) : List Nat := (lanesOf act).filter fun n => n / w == l / w

/-- An instruction whose destination in each lane is computed from every lane's operands and from ACTIVE. -/
def crossLane (sh : Shape) (bad : State → Crew → Issue → Bool) (f : Crew → Issue → Opn → Nat → DWord) : Act Unit := do
  let o ← begin' sh bad false false
  finish sh o fun c i => c.writeDst i sh (f c i o)

/-- The value where a lane has no neighbour: zero, its own, or the one given (R160). -/
def edge (bnd : Bnd) (own wrap : Word) : Word :=
  match bnd with
  | .zero => 0
  | .own => own
  | .wrap => wrap

/-- NBR within sub-groups (R160). -/
def execNbr (d : Rn) (a : Src) (right : Bool) (bnd : Bnd) (w : SubW) (s : State) : Host.Outcome State Fault Refusal :=
  Act.run (crossLane (shapeA d a) (wideFor w) fun _ i o l =>
    let g := groupOf i.act (subWidth w) l
    let n := if right then (g.filter (l < ·)).head? else (g.filter (· < l)).getLast?
    zx (match n with
      | some m => o.wa m
      | none => edge bnd (o.wa l) (o.wa ((if right then g.head? else g.getLast?).getD l)))) s

/-! ## The chain (R161 to R165) -/

/-- The publish step of one lane (R163): the state after it, and whether the lane must wait. -/
def State.chainPublish (s : State) (t : Team) (idx : Nat) (v : Word) : State × Bool :=
  let h := s.chainOf t
  let pos := h.pos t idx
  let k := (s.chainSlot h pos).cnt + 1
  if (s.chainSlot h pos).published k then (s, false)
  else if s.retained h pos then (s, true)
  else (s.setChain t.uid idx fun c => { c with pub := some (k, v) }, false)

/-- The read step of one lane (R163): what it reads, or none where it must wait. -/
def State.chainRead (s : State) (t : Team) (idx : Nat) (right : Bool) (bnd : Bnd) (own : Word) : Option Word :=
  let h := s.chainOf t
  let pos := h.pos t idx
  let k := (s.chainSlot h pos).cnt + 1
  match h.next pos right (bnd == .wrap) with
  | none => some (edge bnd own own)
  | some q =>
    match (s.chainSlot h q).pub with
    | some (j, v) =>
      if j = k then some v else if (s.chainSlot h q).exited then some (edge bnd own own) else none
    | none => if (s.chainSlot h q).exited then some (edge bnd own own) else none

/-- A lane's thread: its team and index. -/
def State.threadOf (s : State) (c : Crew) (n : Nat) : Option (Team × Nat) :=
  (c.lane n).bind fun l => (s.team? l.team).map fun t => (t, l.idx)

/-- NBR along the chain (R163): every lane publishes, then every lane reads; lanes that find no value end their segments
at the NBR, which then publishes nothing again. It waits for earlier translations alone (R158), and a re-injected one ends
segments too, with the guarded runs that the lanes had before it (log entry 31). -/
def execNbrChain (d : Rn) (a : Src) (right : Bool) (bnd : Bnd) (s : State) : Host.Outcome State Fault Refusal :=
  Act.run (do
    let sh := shapeA d a
    let o ← begin' sh (fun _ c i => 0 < c.depthAt i.s) true false
    let i ← theIssue
    let c ← theCrew
    let pub := (lanesOf i.act).foldl (fun (p : State × List Nat) n =>
      match p.1.threadOf c n with
      | some (t, k) =>
        let (s1, w) := p.1.chainPublish t k (o.wa n)
        (s1, if w then p.2 ++ [n] else p.2)
      | none => p) (← get, [])
    set pub.1
    let s1 ← get
    let reads := ((lanesOf i.act).filter fun n => !pub.2.contains n).map fun n =>
      (n, (s1.threadOf c n).bind fun t => s1.chainRead t.1 t.2 right bnd (o.wa n))
    let wait := maskOf fun n => pub.2.contains n || reads.any fun r => r.1 == n && r.2.isNone
    modify State.rewake
    if wait != 0 && (mustStay c i && i.entry.isNone) then waitHere
    else do
      forEach reads fun r => match r.2, s1.threadOf c r.1 with
        | some _, some (t, k) => modify fun s => s.setChain t.uid k fun x => { x with cnt := x.cnt + 1 }
        | _, _ => pure ()
      modCrew fun c => c.endLanes wait fun n l =>
        endAt c i.pc (.neighbour right (bnd == .wrap)) (match i.entry with
          | some e => nth e.runs n none
          | none => l.run)
      modify State.rewake
      setCur fun i => { i with s := i.s &&& ~~~wait, act := i.act &&& ~~~wait }
      if wait != 0 && (i.s &&& ~~~wait) == 0 then do
        modCrew fun c =>
          if i.entry.isSome then c.advance i (entryOf c i o) else c.noteSel i
        stop
      else finish sh o fun c i => c.writeDst i sh fun n => zx (((reads.lookup n).join).getD 0)) s

/-! ## SHFL (R166, R167) -/

/-- The source position and its validity for position `p` of width `w`: from the index, read as signed or unsigned. -/
def shflPos (mode : ShMode) (w p : Nat) (si : Int) (ui : Nat) : Nat × Bool :=
  match mode with
  | .pick => (ui % w, decide (ui < w))
  | .slide => (((p + si) % w).toNat, decide (0 ≤ p + si && p + si < w))
  | .flip => ((p ^^^ ui) % w, decide (ui < w))
  | .turn => ((p + ui) % w, true)

/-- The index of a lane: signed for SLIDE, else unsigned (R167). -/
def shflIdx (idx : ShIdx) (b : Word) : Int × Nat :=
  match idx with
  | .reg _ => (b.toInt, b.toNat)
  | .imm n => (n.toInt, n.toNat % 64)

/-- Which lane SHFL reads, and whether the result is valid. -/
def shflFrom (idx : ShIdx) (mode : ShMode) (w : Nat) (act : LaneMask) (o : Opn) (l : Nat) : Nat × Bool :=
  let x := shflIdx idx (o.wb l)
  let (j, ok) := shflPos mode w (l % w) x.1 x.2
  let src := l - l % w + j
  if has act src then (src, ok) else (l, false)

/-- SHFL (R166, R167). -/
def execShfl (d : Rn) (a : Src) (idx : ShIdx) (mode : ShMode) (w : SubW) (pc : Option Nat) (s : State) :
    Host.Outcome State Fault Refusal :=
  Act.run (do
    let sh : Shape := ⟨some (d, 1), useA a :: (match idx with
      | .reg b => [useB b]
      | .imm _ => [])⟩
    let o ← begin' sh (wideFor w) false false
    finish sh o fun c i =>
      let src := shflFrom idx mode (subWidth w) i.act o
      let c1 := c.writeDst i sh fun n => zx (o.wa (src n).1)
      match pc with
      | some p => c1.writePred i p fun n _ => (src n).2
      | none => c1) s

/-! ## Votes, ballots and masks (R168 to R170) -/

def predAt (c : Crew) (p n : Nat) : Bool := (c.lane n).any (·.pred p)

/-- PJOIN (R168). -/
def execPjoin (pd pa : Nat) (mode : JoinMode) (w : SubW) (s : State) : Host.Outcome State Fault Refusal :=
  Act.run (do
    let sh : Shape := ⟨none, []⟩
    let o ← begin' sh (wideFor w) false false
    finish sh o fun c i => c.writePred i pd fun n _ =>
      let g := (groupOf i.act (subWidth w) n).map (predAt c pa)
      match mode with
      | .every => g.all id
      | .some => g.any id
      | .same => g.all id || !g.any id
      | .odd => (g.filter id).length % 2 == 1) s

/-- The mask of the lanes of ACTIVE where a predicate holds (R169). -/
def laneMask (c : Crew) (i : Issue) (p : Nat) : DWord := maskOf fun n => has i.act n && predAt c p n

/-- LMASK.lo (R169). -/
def execLmaskLo (d : Rn) (p : Nat) (s : State) : Host.Outcome State Fault Refusal :=
  Act.run (crossLane ⟨some (d, 1), []⟩ fine fun c i _ _ => laneMask c i p) s

/-- LMASK.hi (R169). -/
def execLmaskHi (d : Rn) (p : Nat) (s : State) : Host.Outcome State Fault Refusal :=
  Act.run (crossLane ⟨some (d, 1), []⟩ fine fun c i _ _ => laneMask c i p >>> 32) s

/-- LMASK.64 (R169). -/
def execLmask64 (d : Rn) (p : Nat) (s : State) : Host.Outcome State Fault Refusal :=
  Act.run (crossLane ⟨some (d, 2), []⟩ fine fun c i _ _ => laneMask c i p) s

/-- PRANK (R169). -/
def execPrank (d : Rn) (p : Nat) (w : SubW) (incl : Bool) (s : State) : Host.Outcome State Fault Refusal :=
  Act.run (crossLane ⟨some (d, 1), []⟩ (wideFor w) fun c i _ l =>
    BitVec.ofNat 64 (((groupOf i.act (subWidth w) l).filter fun m =>
      (m < l || (incl && m == l)) && predAt c p m).length)) s

/-- A predicate written true in one lane of ACTIVE and false in the others (R170). -/
def leadPred (pd : Nat) (one : List Nat → Option Nat) : Act Unit := do
  let sh : Shape := ⟨none, []⟩
  let o ← begin' sh fine false false
  finish sh o fun c i => c.writePred i pd fun n _ => one (lanesOf i.act) == some n

/-- LEAD (R170). -/
def execLead (pd : Nat) (s : State) : Host.Outcome State Fault Refusal := Act.run (leadPred pd List.head?) s

/-- LEAD.last (R170). -/
def execLeadLast (pd : Nat) (s : State) : Host.Outcome State Fault Refusal := Act.run (leadPred pd List.getLast?) s

/-! ## Scans and reductions (R171, R172) -/

def redIsFloat : RedOp → Bool
  | .addF32 | .minF32 | .maxF32 => true
  | _ => false

/-- The identities (R171). -/
def redIdentity : RedOp → Word
  | .addI32 => 0
  | .addF32 => 0x80000000
  | .minI32 => 0x7FFFFFFF
  | .minN32 => 0xFFFFFFFF
  | .maxI32 => 0x80000000
  | .maxN32 => 0
  | .minF32 => 0x7F800000
  | .maxF32 => 0xFF800000
  | .and => 0xFFFFFFFF
  | .or => 0
  | .xor => 0

/-- One combination (R171). -/
def redStep (env : FpEnv) (op : RedOp) (acc x : Word) : Word × Flags :=
  let f (r : DWord × Flags) : Word × Flags := (r.1.truncate 32, r.2)
  match op with
  | .addI32 => (acc + x, .none)
  | .addF32 => f (add32 env acc x)
  | .minI32 => (if acc.slt x then acc else x, .none)
  | .minN32 => (if acc.ult x then acc else x, .none)
  | .maxI32 => (if acc.slt x then x else acc, .none)
  | .maxN32 => (if acc.ult x then x else acc, .none)
  | .minF32 => f (minMax32 false env acc x)
  | .maxF32 => f (minMax32 true env acc x)
  | .and => (acc &&& x, .none)
  | .or => (acc ||| x, .none)
  | .xor => (acc ^^^ x, .none)

/-- The first value of a group (R172). -/
def redFirst (env : FpEnv) (op : RedOp) (x : Word) : Word × Flags :=
  if redIsFloat op then
    let v := read32 env x
    let (r, fl) := round32 env (isPoison x) v
    (r.truncate 32, fl.or (.invalid v.isSnan))
  else (x, .none)

/-- Scan a group in order: for each lane the value before it, the value with it, and its step's flags. -/
def scan (env : FpEnv) (op : RedOp) (o : Opn) : (first : Bool) → (acc : Word) → List Nat → List (Nat × Word × Word × Flags)
  | _, _, [] => []
  | first, acc, l :: ls =>
    let (r, fl) := if first then redFirst env op (o.wa l) else redStep env op acc (o.wa l)
    (l, acc, r, fl) :: scan env op o false r ls

/-- ACCUM and FOLD: the scan of each lane's group, the lane's own result taken from it, and every step's flags. -/
def reduce (d : Rn) (a : Src) (op : RedOp) (w : SubW) (res : List (Nat × Word × Word × Flags) → Nat → Word) :
    Act Unit := do
  let sh := shapeA d a
  let o ← begin' sh (wideFor w) false false
  finish sh o fun c i =>
    let env := envOf c.fpcr .fpcr
    let grp (l : Nat) := scan env op o true (redIdentity op) (groupOf i.act (subWidth w) l)
    (c.writeDst i sh fun l => zx (res (grp l) l)).mergeFlags i.act fun l =>
      (((grp l).find? (·.1 == l)).map (·.2.2.2)).getD .none

/-- ACCUM (R171, R172). -/
def execAccum (d : Rn) (a : Src) (op : RedOp) (excl : Bool) (w : SubW) (s : State) : Host.Outcome State Fault Refusal :=
  Act.run (reduce d a op w fun g l =>
    match g.find? (·.1 == l) with
    | some r => if excl then r.2.1 else r.2.2.1
    | none => 0) s

/-- FOLD (R171, R172). -/
def execFold (d : Rn) (a : Src) (op : RedOp) (w : SubW) (s : State) : Host.Outcome State Fault Refusal :=
  Act.run (reduce d a op w fun g _ => ((g.getLast?).map (·.2.2.1)).getD 0) s

/-! ## MATCH (R173) -/

/-- The lanes of a lane's group that hold its value. -/
def matchSet (i : Issue) (o : Opn) (w64 : Bool) (w l : Nat) : List Nat :=
  (groupOf i.act w l).filter fun m => if w64 then o.fa m == o.fa l else o.wa m == o.wa l

/-- MATCH (R173). -/
def execMatchv (d : Rn) (a : Src) (w64 : Bool) (w : SubW) (pc : Option Nat) (form : MatchForm) (s : State) :
    Host.Outcome State Fault Refusal :=
  Act.run (do
    let sh := shapeA d a (if form == .mask then 2 else 1) (if w64 then 2 else 1)
    let o ← begin' sh (wideFor w) false false
    finish sh o fun c i =>
      let eq := matchSet i o w64 (subWidth w)
      let c1 := c.writeDst i sh fun l =>
        match form with
        | .mask => maskOf fun n => (eq l).contains n
        | .lead => BitVec.ofNat 64 ((eq l).headD l)
        | .count => BitVec.ofNat 64 (eq l).length
      match pc with
      | some p => c1.writePred i p fun l _ => (eq l).length == (groupOf i.act (subWidth w) l).length
      | none => c1) s

end Sys2Proof.Machine
end

