-- ==== Sys2Proof/Machine/Access.lean ====
section
/-! DEFINITION. Accesses: where the bytes of an access lie (R209 to R211, R221, R249, R282, R283, R314), what a load
reads (R225, R322, R323), what a store writes (R204, R225, R226), atomics (R216, R327), and the acquire and release of
R213. -/

namespace Sys2Proof.Machine

/-! ## The team's view -/

/-- A byte in the team's view: its own uncommitted byte, or the package-scope one (R218, R225, R286). -/
def State.view (s : State) (team a : Nat) : Byte := (s.ownByte team a).getD (s.mem.cells.get a)

def State.viewNat (s : State) (team : Nat) (pas : List Nat) : Nat := leNat (pas.map (s.view team))

/-- A byte of a team's scratchpad allocation. -/
def State.scrByte (s : State) (team off : Nat) : Byte := ((s.team? team).map fun t => t.scratch.get off).getD 0

/-- The present byte at a place in the team's view; nothing reads 0. -/
def State.placeByte (s : State) (team : Nat) : Place → Byte
  | .mem pa => s.view team pa
  | .scr t off => s.scrByte t off
  | .void => 0

/-! ## Where the bytes lie -/

/-- What an access asks: its space and address, its bytes and alignment, the right it needs, and whether bytes past an
allocation trap (they do not for a copy, R221). -/
structure Ask where
  space : Space
  ea : Nat
  n : Nat
  al : Nat
  need : Need
  bounded : Bool
deriving DecidableEq, Repr

/-- Spaces whose base is a single register (R209). -/
def oneReg : Space → Bool
  | .scratch | .remote => true
  | _ => false

/-- The words of a base register in a space. -/
def baseW (sp : Space) : Nat := if oneReg sp then 1 else 2

/-- An effective address (R214): 32-bit for a single base, else 64-bit. -/
def eaOf (sp : Space) (base : DWord) (off : Int) : Nat :=
  if oneReg sp then (base.truncate 32 + BitVec.ofInt 32 off).toNat else (base + BitVec.ofInt 64 off).toNat

/-- All answers of a list; a trap stands before a fault (R211). -/
def Chk.every {α : Type} (l : List (Chk α)) : Chk (List α) :=
  match l.findSome? fun c => match c with
    | .trap a b => some (a, b)
    | _ => none with
  | some (a, b) => .trap a b
  | none => Chk.all id l

/-- The bytes of a range of an allocation: a bounded access may not run past it. -/
def State.scrPlaces (s : State) (team off n : Nat) (bounded : Bool) : Chk (List (Option Place)) :=
  match s.team? team with
  | none => .trap PROT 0
  | some t =>
    if bounded && t.res.ssize < off + n then .trap PROT 0
    else .ok ((List.range n).map fun i => if off + i < t.res.ssize then some (.scr team (off + i)) else none)

/-- The member of the team's set with a SETIDX (R18, R248, R249); the team itself under its own. -/
def State.member? (s : State) (t : Team) (k : Nat) : Option Team :=
  match s.grid? t.grid with
  | none => none
  | some g =>
    if g.setIdx t.index = k then some t
    else if g.lr.tset ≤ k then none
    else s.sched.teams.find? fun u => u.grid == t.grid && u.index == t.index / g.lr.tset * g.lr.tset + k

/-- A cluster-remote address (R209, R249). -/
def State.remPlaces (s : State) (team ea n : Nat) (bounded : Bool) : Chk (List (Option Place)) :=
  if ea / 2 ^ 27 != 0 then .trap PROT 0
  else
    match (s.team? team).bind fun t => s.member? t (bits ea 24 3) with
    | some u => s.scrPlaces u.uid (bits ea 0 24) n bounded
    | none => .trap PROT 0

/-- A global or constant address: 56 bits, translated (R209, R211). The bytes of an access lie in one page. -/
def State.globPlaces (s : State) (ctx ea n : Nat) (need : Need) : Chk (List (Option Place)) :=
  (s.chkVa ctx ea need).bind fun pa => .ok ((List.range n).map fun i => some (.mem (pa + i)))

/-- A byte of a table or an index, translated. -/
def State.tabByte (s : State) (ctx va : Nat) (need : Need) : Chk Nat := s.chkVa ctx va need

/-- The element size code and the index size of a window (R281). -/
def Window.isz (w : Window) : Nat := if w.itype < 2 then 4 else 8

/-- An index word read as ITYPE, when it is in range (R282). -/
def Window.index (w : Window) (raw : Nat) : Option Nat :=
  let neg := (w.itype = 1 && 2 ^ 31 ≤ raw) || (w.itype = 3 && 2 ^ 63 ≤ raw)
  if neg || w.tlen ≤ raw then none else some raw

/-- What a gather-window access maps to (R282, R283): its slot, the policy, its bytes, and the positions whose index is
out of range. -/
structure Gathered where
  slot : Nat
  policy : Nat
  places : List (Option Place)
  bad : List Nat
deriving DecidableEq, Repr

def State.gather (s : State) (ctx team : Nat) (a : Ask) : Chk Gathered :=
  if a.ea / 2 ^ 35 != 0 then .trap PROT 0
  else
    let slot := bits a.ea 32 3
    let o := a.ea % 2 ^ 32
    match ((s.team? team).bind fun t => (t.windows[slot]?).join) with
    | none => .trap PROT 0
    | some w =>
      if w.count * w.es < o + a.n || (a.need.w && !w.scat) then .trap PROT 0
      else
        let ps := (List.range ((o + a.n - 1) / w.es - o / w.es + 1)).map (o / w.es + ·)
        let idx (p : Nat) : Chk (Nat × Option Nat) :=
          (s.chkVa ctx (w.ibase + p * w.isz) Need.read).bind fun pa =>
            Chk.ok (p, w.index (s.viewNat team ((List.range w.isz).map (pa + ·))))
        (Chk.every (ps.map idx)).bind fun xs =>
          let byte (i : Nat) : Chk (Option Place) :=
            match (xs.lookup ((o + i) / w.es)).join with
            | none => .ok (some .void)
            | some x => (s.chkVa ctx (w.tbase + x * w.es + (o + i) % w.es) a.need).bind fun pa => .ok (some (.mem pa))
          (Chk.every ((List.range a.n).map byte)).bind fun bs =>
            .ok ⟨slot, w.policy, bs, (xs.filter fun x => x.2.isNone).map (·.1)⟩

/-- The fields of CTL of a key region (R301): heads, dimension, tables, signature bits, key type and its size. -/
def KSlot.nh (k : KSlot) : Nat := bits k.ctl.toNat 0 8 + 1
def KSlot.nd (k : KSlot) : Nat := bits k.ctl.toNat 8 8 + 1
def KSlot.kt (k : KSlot) : Nat := bits k.ctl.toNat 16 2
def KSlot.nl (k : KSlot) : Nat := bits k.ctl.toNat 18 3 + 1
def KSlot.nb (k : KSlot) : Nat := bits k.ctl.toNat 24 4
def KSlot.es (k : KSlot) : Nat := if k.kt = 2 then 1 else 2
/-- The bytes of the key array (R302). -/
def KSlot.size (k : KSlot) : Nat := k.tmax * k.nh * k.nd * k.es

def State.kslot? (s : State) (ctx k : Nat) : Option KSlot := (s.ctx? ctx).bind fun c => c.keys.find? (·.num == k)

/-- A key-region address (R314). -/
def State.keyPlaces (s : State) (ctx : Nat) (a : Ask) : Chk (List (Option Place)) :=
  if a.ea / 2 ^ 35 != 0 then .trap PROT 0
  else
    match s.kslot? ctx (bits a.ea 32 3) with
    | none => .trap PROT 0
    | some k =>
      let o := a.ea % 2 ^ 32
      if k.size < o + a.n then .trap PROT 0 else s.globPlaces ctx (k.kbase + o) a.n a.need

/-- A generic address resolves by its top byte (R210). -/
def State.genPlaces (s : State) (c : Crew) (team : Nat) (a : Ask) : Chk (List (Option Place)) :=
  let top := a.ea / 2 ^ 56
  if top = 0 then s.globPlaces c.ctx a.ea a.n a.need
  else if (top != 0xFE && top != 0xFD) || bits a.ea 32 24 != 0 then .trap PROT 0
  else if notTeamLocal c then .trap ILLOPND 0
  else if top = 0xFE then s.scrPlaces team (a.ea % 2 ^ 32) a.n a.bounded
  else s.remPlaces team (a.ea % 2 ^ 32) a.n a.bounded

/-- The checks of an access of a crew's lane in the order of R211, and the places of its bytes. -/
def State.resolve (s : State) (c : Crew) (team : Nat) (a : Ask) : Chk (List (Option Place)) :=
  (need (a.ea % a.al == 0) MISALIGN).bind fun _ =>
    match a.space with
    | .generic => s.genPlaces c team a
    | .global | .constant => s.globPlaces c.ctx a.ea a.n a.need
    | .scratch => s.scrPlaces team a.ea a.n a.bounded
    | .remote => s.remPlaces team a.ea a.n a.bounded
    | .gwin => (s.gather c.ctx team a).bind fun g =>
        if !g.bad.isEmpty && g.policy = 1 then .trap GATHER_BOUND g.slot else .ok g.places
    | .key => s.keyPlaces c.ctx a

/-- Latch the lowest out-of-range position of a window (R285). -/
def Window.latch (w : Window) (bad : List Nat) : Window :=
  match leastNat bad with
  | none => w
  | some p => { w with pos := if w.bad then min w.pos p else p, bad := true }

/-- Latch in one slot of a team. -/
def Team.latch (t : Team) (slot : Nat) (bad : List Nat) : Team :=
  { t with windows := t.windows.mapIdx fun i w => if i = slot then w.map (Window.latch · bad) else w }

/-- The latch of R283 step 4 for one access that passed the steps before it. -/
def State.latchFor (s : State) (ctx team : Nat) (a : Ask) : State :=
  if a.space = .gwin && a.ea % a.al == 0 then
    match s.gather ctx team a with
    | .ok g => s.updTeam team fun t => t.latch g.slot g.bad
    | _ => s
  else s

/-! ## Loads of class C (R214, R322, R323) -/

/-- The number by which the model knows the snapshot of a crew: its core's, or a Cox context's own (R322). -/
def Crew.snap (c : Crew) : Nat := if c.cox.isSome then 1000 + c.id else c.core

/-- The physical core whose Cox, or which itself, makes the crew's accesses. -/
def State.coreFor (_s : State) (c : Crew) : Nat := c.core

/-- Below what instant the loads of a core return nothing: the last refresh of its snapshot (R322), and of some words what
a narrower acquire made visible (R326). -/
structure Fresh where
  floor : Nat
  view : List (Nat × Nat)
deriving DecidableEq, Repr, Inhabited

def State.freshOf (s : State) (c : Crew) : Fresh := ⟨(s.core c.snap).floor, (s.core c.snap).view⟩

/-- What a lane has seen and what it wrote (R323), as its `seen` and `wrote`. -/
abbrev Sight := List (Nat × Nat) × List Nat

/-- The words of some bytes. -/
def wordsOf (as : List Nat) : List Nat := (as.map fun a => a / 4 * 4).eraseDups

/-- The earliest instant above `f` that a list of words and instants allows for these bytes. -/
def raiseFloor (f : Nat) (seen : List (Nat × Nat)) (as : List Nat) : Nat :=
  as.foldl (fun f a => max f ((seen.lookup (a / 4 * 4)).getD 0)) f

/-- The earliest instant that a lane's load of these bytes may return. -/
def Fresh.floorFor (f : Fresh) (seen : List (Nat × Nat)) (as : List Nat) : Nat :=
  raiseFloor (raiseFloor f.floor f.view as) seen as

/-- Note the instants that a load returned (R323). -/
def seenAfter (floor t : Nat) (as : List Nat) (seen : List (Nat × Nat)) : List (Nat × Nat) :=
  if t ≤ floor then seen
  else
    let ws := wordsOf as
    (ws.map fun w => (w, max t ((seen.lookup w).getD 0))) ++ seen.filter fun p => !ws.contains p.1

/-- Read a chunk of at most 8 bytes at one instant: uncommitted bytes of the team, else the values at an instant that
nothing else fixes (R322). Uncommitted bytes once read are missed by no later load of the lane (R323). -/
def readChunk (team : Nat) (f : Fresh) (v : Sight) (ps : List Place) : Act (List Byte × Sight) := do
  let s ← get
  let as := ps.filterMap fun p => match p with
    | .mem pa => if (s.ownByte team pa).isNone then some pa else none
    | _ => none
  let own := ps.filterMap fun p => match p with
    | .mem pa => if (s.ownByte team pa).isSome then some pa else none
    | _ => none
  let ts := s.mem.instants (f.floorFor v.1 as) as
  let k ← choose ts.length
  let t := nth ts k f.floor
  pure (ps.map fun p => match p with
      | .mem pa => (s.ownByte team pa).getD (s.mem.byteAt t pa)
      | p => s.placeByte team p,
    seenAfter f.floor t as v.1, if own.isEmpty then v.2 else (wordsOf own ++ v.2).eraseDups)

/-- Cut a list into chunks of 8. -/
def chunks8 {α : Type} : (fuel : Nat) → List α → List (List α)
  | 0, _ => []
  | _, [] => []
  | n + 1, l => l.take 8 :: chunks8 n (l.drop 8)

/-- A load of class C: each aligned half of 8 bytes is read at one instant (R214). -/
def readC (team : Nat) (f : Fresh) : List (List Place) → Sight → Act (List Byte × Sight)
  | [], v => pure ([], v)
  | c :: cs, v => do
    let (b, v1) ← readChunk team f v c
    let (bs, v2) ← readC team f cs v1
    pure (b ++ bs, v2)

/-- Is the line of a byte poisoned (R279)? -/
def MemSys.bad (m : MemSys) (pa : Nat) : Bool := m.poison.any (·.1 == lineOf pa)

/-- Do the places read a byte of a poisoned line, other than the team's own uncommitted bytes (R279)? -/
def State.readsPoison (s : State) (team : Nat) (ps : List Place) : Bool :=
  !s.mem.poison.isEmpty && ps.any fun p => match p with
    | .mem pa => s.mem.bad pa && (s.ownByte team pa).isNone
    | _ => false

/-- Are words read at their home slices in a poisoned line (R216, R219, R279, R305)? A replay reads its own bytes. -/
def State.homePoison (s : State) (team : Nat) (pas : List Nat) : Bool :=
  if s.isReplay team then s.readsPoison team (pas.map Place.mem) else pas.any s.mem.bad

/-- An uncorrectable error is consumed: the team's ECCU is the next step (R279, R365). -/
def State.consume (s : State) (team : Nat) : State := { s with agenda := .eccConsumed (.team team) :: s.agenda }

/-! ## Stores -/

/-- A scratchpad byte written. With the last byte of its data word (`last`), the update of the row's parity word is
queued, unless the parity bank is retired (R204, R206). -/
def State.scrWrite (s : State) (team off : Nat) (b : Byte) (last : Bool) : State :=
  match s.team? team with
  | none => s
  | some t =>
    let p := t.res.sbase + off
    let row := (p / 256, p / 32 % 8)
    let s1 := s.updTeam team fun t => { t with scratch := t.scratch.set off b }
    if !last || (s.core t.core).banks.contains (32 + row.2) then s1
    else s1.updCore t.core fun c => { c with stale := c.stale ++ [row] }

/-- Write bytes at offsets of an allocation, in order. -/
def State.scrPut (s : State) (team : Nat) : List (Nat × Byte) → State
  | [] => s
  | (o, b) :: r => (s.scrWrite team o b !(r.head?.any fun q => q.1 / 8 == o / 8)).scrPut team r

/-- Does the next place lie in the same data word of a scratchpad (R201)? -/
def Place.sameWord (t off : Nat) : List Place → Bool
  | .scr u k :: _ => u == t && k / 8 == off / 8
  | _ => false

/-- Why a store cannot go on: a commit of one line, or of all lines, that it causes is not complete. -/
inductive Blocked where
  | line (la : Nat)
  | all
deriving DecidableEq, Repr

/-- Put one byte into the team's commit buffer, after the line or forced commit that it causes (R225, R226). -/
def State.bufByte (s : State) (team core : Nat) (crew : Option Nat) (dom pa : Nat) (b : Byte) : Except Blocked State :=
  match s.team? team with
  | none => .ok s
  | some t =>
    let la := lineOf pa
    let add (s : State) := .ok (s.updTeam team fun t => { t with buf := bufAdd dom la [(pa, b)] t.buf })
    match t.buf.find? (·.addr == la) with
    | some l =>
      if l.dom = dom then add s
      else
        match s.commitNow team core crew (·.addr == la) with
        | (s1, true) => add s1
        | _ => .error (.line la)
    | none =>
      if s.lineCap team ≤ t.buf.length || Config.llcFull (t.buf.map (·.addr)) la then
        match s.commitNow team core crew (fun _ => true) with
        | (s1, true) => add s1
        | _ => .error .all
      else add s

/-- Write bytes at places, in order. -/
def State.storeBytes (s : State) (team core : Nat) (crew : Option Nat) (dom : Nat) :
    List (Place × Byte) → Except Blocked State
  | [] => .ok s
  | (p, b) :: ps =>
    match p with
    | .void => s.storeBytes team core crew dom ps
    | .scr t off => (s.scrWrite t off b !(Place.sameWord t off (ps.map (·.1)))).storeBytes team core crew dom ps
    | .mem pa =>
      match s.bufByte team core crew dom pa b with
      | .ok s1 => s1.storeBytes team core crew dom ps
      | .error e => .error e

/-- What remains of a store that is blocked: the commit it needs has begun, and nothing else has happened. -/
def State.blockedBy (s : State) (team core : Nat) (crew : Option Nat) (b : Blocked) : State :=
  match b with
  | .line la => (s.commitNow team core crew (·.addr == la)).1
  | .all => (s.commitNow team core crew fun _ => true).1

/-! ## Atomics (R215, R216, R327) -/

/-- The lines of a team that atomics at these places must commit first; false while one is not complete. -/
def State.commitLines (s : State) (team core : Nat) (crew : Option Nat) : List Nat → State × Bool
  | [] => (s, true)
  | la :: ls =>
    match s.commitNow team core crew (·.addr == la) with
    | (s1, true) => s1.commitLines team core crew ls
    | (s1, false) => (s1, false)

/-- The global bytes of some places, and their lines. -/
def memBytes (ps : List Place) : List Nat :=
  ps.filterMap fun p => match p with
    | .mem pa => some pa
    | _ => none

def memLines (ps : List Place) : List Nat := ((memBytes ps).map lineOf).eraseDups

/-- The uncommitted lines of a team among some: those in its buffer, and those of its commits that are not complete. -/
def State.heldLines (s : State) (team : Nat) (ls : List Nat) : List Nat :=
  ls.filter fun la => ((s.team? team).any fun t => t.buf.any (·.addr == la)) ||
    s.eng.commits.any fun k => k.team == team && k.lines.any (·.addr == la)

/-- Global work of a team outside its commit buffer: the write enters the histories, RESTART is cleared, and the grid
has written (R216, R219, R229, R352). A replay's work stays its own (R376). -/
def State.homeWrite (s : State) (team : Nat) (bs : List (Nat × Byte)) : State :=
  match s.team? team with
  | some t =>
    if t.audit.replay.isSome then ((s.updTeam team (auditAdd bs)).clearRestart team).exclude team
    else (((s.pkgWrite bs (some t.author)).clearRestart team).exclude team).updGrid t.grid fun g => { g with wrote := true }
  | none => s.pkgWrite bs

/-- One read-modify-write of a word at its bank or home slice: the state and the old value. -/
def State.rmw (s : State) (team : Nat) (ps : List Place) (f : Nat → Nat) : State × Nat :=
  let old := leNat (ps.map (s.placeByte team))
  let bs := ps.zip (leBytes ps.length (f old))
  let mems := bs.filterMap fun p => match p.1 with
    | .mem pa => some (pa, p.2)
    | _ => none
  let s1 := (bs.mapIdx fun i p => (i, p)).foldl (fun s q => match q.2.1 with
    | .scr t off => s.scrWrite t off q.2.2 (q.1 + 1 == ps.length)
    | _ => s) s
  (if mems.isEmpty then s1 else s1.homeWrite team mems, old)

/-! ## Acquire and release (R213) -/

/-- Does the scope reach the package? -/
def wide : Scope → Bool
  | .package | .system => true
  | _ => false

/-- The teams of a crew. -/
def Crew.teams (c : Crew) : List Nat := c.teamsIn (BitVec.allOnes 64)

/-- Does a scope below the package reach a team from one of the crew's (R325)? -/
def State.reaches (s : State) (c : Crew) (sc : Scope) (who : Nat × Nat) : Bool :=
  c.teams.any fun u => (s.team? u).any fun t => t.grid == who.1 && (t.index == who.2 ||
    (sc == .cluster && (s.grid? t.grid).any fun g => (g.setOf t.index).isSome && g.setOf t.index == g.setOf who.2))

/-- Two lists of words and instants, with the later instant of each word. -/
def laterView (a b : List (Nat × Nat)) : List (Nat × Nat) :=
  a.foldl (fun v p => if (v.lookup p.1).any (p.2 ≤ ·) then v else p :: v.filter (·.1 != p.1)) b

/-- The words of a team's uncommitted bytes, in its buffer or in a commit that has begun. -/
def State.uncommitted (s : State) (team : Nat) : List Nat :=
  wordsOf ((((((s.team? team).map (·.buf)).getD []) ++ (s.eng.commits.filter (·.team == team)).flatMap (·.lines)).flatMap
    (·.bytes)).map (·.1))

/-- A lane's later loads miss no byte that its team has not committed yet (R225, R326). -/
def State.noteLane (s : State) (l : Lane) : Lane :=
  match s.uncommitted l.team with
  | [] => l
  | ws => { l with wrote := (ws ++ l.wrote).eraseDups }

def State.noteOwn (s : State) (crew : Nat) : State :=
  s.updCrew crew fun c => { c with lanes := c.lanes.map (Option.map s.noteLane) }

/-- The acquire's part on its core (R213): at package and system scope the snapshot is refreshed. At a narrower one what
the teams in its reach wrote into the histories, and what the cores of their crews had acquired, is seen from now on (R325,
R326, log entry 116). -/
def State.refresh (s : State) (c : Crew) (sc : Scope) : State :=
  if wide sc then s.updCore c.snap fun k => { k with floor := s.mem.now, view := [] }
  else
    let ks := (s.crews.filter fun d => d.teams.any fun u => (s.team? u).any fun t => s.reaches c sc t.author).map fun d =>
      s.core d.snap
    let mine := (s.mem.hist.filter fun h => h.who.any (s.reaches c sc)).map fun h => (h.addr / 4 * 4, h.t)
    s.updCore c.snap fun k => { k with
      floor := ks.foldl (fun f q => max f q.floor) k.floor,
      view := ks.foldl (fun v q => laterView q.view v) (laterView mine k.view) }

/-- An acquire of a crew (R213, R325). -/
def State.acquire (s : State) (c : Crew) (sc : Scope) : State := (s.refresh c sc).noteOwn c.id

/-- Are the stores, ATOMs and REDs that the crew issued before `serial` acknowledged, and at package scope every commit
that it has issued complete (R213), at system scope with its lines for host pages at the host's coherence point (R336)?
Scatter stores are counted (R286). -/
def State.released (s : State) (c : Crew) (serial : Nat) (sc : Scope) : Bool :=
  (c.pipe.inflight.all fun o => o.done || serial ≤ o.entry.serial ||
    match o.instr with
    | .st1 .. | .st2 .. | .st4 .. | .st8 .. | .st16 .. | .atom .. | .tst .. => false
    | _ => true) &&
  (!wide sc || s.eng.commits.all fun k => k.crew != some c.id) &&
  (sc != .system || s.eng.hostDue.all fun k => k.2 != some c.id)

def isAcq : Order → Bool
  | .acquire | .acqRel => true
  | _ => false
def isRel : Order → Bool
  | .release | .acqRel => true
  | _ => false

end Sys2Proof.Machine
end

