-- ==== Sys2Proof/Machine/Loads.lean ====
section
/-! DEFINITION. LD, ST, ATOM, RED, CPY, LDWP, FENCE and PHASE (R214 to R229). LD, ST, ATOM and CPY are issued here; their
translation and completion stand in LongEv.lean. -/

namespace Sys2Proof.Machine

/-! ## Shapes -/

/-- The words of a data group of `n` bytes (R214). -/
def dataW (n : Nat) : Nat := if n = 16 then 4 else if n = 8 then 2 else 1

def Issue.blu (i : Issue) : Bool := i.mem.any (·.blu)
def Issue.dlu (i : Issue) : Bool := i.mem.any (·.dlu)

/-- The base operand: a pair or a single register by the space (R79), freed by BLU. -/
def baseUse (i : Issue) (sp : Space) (r : Rn) (lu : Bool) : Use := ⟨0, r, baseW sp, lu || i.blu, false⟩

/-- Is the space one that the instruction does not accept here: outside its list, or local in a segment that is not
team-local (R23, R209)? -/
def spaceBad (c : Crew) (ok : List Space) (sp : Space) : Bool := !ok.contains sp || (oneReg sp && notTeamLocal c)

def ldSpaces : List Space := [.generic, .global, .scratch, .remote, .constant, .gwin, .key]
def stSpaces : List Space := [.generic, .global, .scratch, .remote, .gwin]
def atomSpaces : List Space := [.generic, .global, .scratch, .remote]

/-- An instruction whose shape depends on the MEM fields in force. -/
def withAttr (f : Issue → Crew → MemAttr → Act Unit) : Act Unit := do
  let i ← theIssue
  let c ← theCrew
  f i c (c.attr i)

/-- LD (R214). -/
def issueLd (instr : Instr) (n : Nat) (t a : Rn) (lh : BitVec 4) : Act Unit :=
  withAttr fun i _ m =>
    issueLong instr ⟨some (t, dataW n), [baseUse i m.space a false]⟩ (fun _ c _ => spaceBad c ldSpaces m.space) lh.toNat true

/-- ST (R214): the data is read at issue. -/
def issueSt (instr : Instr) (n : Nat) (t a : Rn) (lh : BitVec 4) : Act Unit :=
  withAttr fun i _ m =>
    issueLong instr ⟨none, [baseUse i m.space a false, ⟨1, t, dataW n, i.dlu, false⟩]⟩
      (fun _ c _ => spaceBad c stSpaces m.space) lh.toNat true

/-- LD1 (R214). -/
def execLd1 (t a : Rn) (off : BitVec 7) (lh : BitVec 4) (s : State) : Host.Outcome State Fault Refusal :=
  Act.run (issueLd (.ld1 t a off lh) 1 t a lh) s
/-- LD2 (R214). -/
def execLd2 (t a : Rn) (off : BitVec 7) (lh : BitVec 4) (s : State) : Host.Outcome State Fault Refusal :=
  Act.run (issueLd (.ld2 t a off lh) 2 t a lh) s
/-- LD4 (R214). -/
def execLd4 (t a : Rn) (off : BitVec 7) (lh : BitVec 4) (s : State) : Host.Outcome State Fault Refusal :=
  Act.run (issueLd (.ld4 t a off lh) 4 t a lh) s
/-- LD8 (R214). -/
def execLd8 (t a : Rn) (off : BitVec 7) (lh : BitVec 4) (s : State) : Host.Outcome State Fault Refusal :=
  Act.run (issueLd (.ld8 t a off lh) 8 t a lh) s
/-- LD16 (R214). -/
def execLd16 (t a : Rn) (off : BitVec 7) (lh : BitVec 4) (s : State) : Host.Outcome State Fault Refusal :=
  Act.run (issueLd (.ld16 t a off lh) 16 t a lh) s
/-- ST1 (R214). -/
def execSt1 (t a : Rn) (off : BitVec 7) (lh : BitVec 4) (s : State) : Host.Outcome State Fault Refusal :=
  Act.run (issueSt (.st1 t a off lh) 1 t a lh) s
/-- ST2 (R214). -/
def execSt2 (t a : Rn) (off : BitVec 7) (lh : BitVec 4) (s : State) : Host.Outcome State Fault Refusal :=
  Act.run (issueSt (.st2 t a off lh) 2 t a lh) s
/-- ST4 (R214). -/
def execSt4 (t a : Rn) (off : BitVec 7) (lh : BitVec 4) (s : State) : Host.Outcome State Fault Refusal :=
  Act.run (issueSt (.st4 t a off lh) 4 t a lh) s
/-- ST8 (R214). -/
def execSt8 (t a : Rn) (off : BitVec 7) (lh : BitVec 4) (s : State) : Host.Outcome State Fault Refusal :=
  Act.run (issueSt (.st8 t a off lh) 8 t a lh) s
/-- ST16 (R214). -/
def execSt16 (t a : Rn) (off : BitVec 7) (lh : BitVec 4) (s : State) : Host.Outcome State Fault Refusal :=
  Act.run (issueSt (.st16 t a off lh) 16 t a lh) s

/-! ## ATOM and RED (R215, R216) -/

/-- The environment of `fadd.f32` at memory: RNE, subnormals kept, canonical NaN (R215). -/
def memEnv : FpEnv := ⟨.rne, false, false⟩

/-- A minimum or maximum of two `w`-bit words. -/
def pickNat (w : Nat) (signed max : Bool) (x y : Nat) : Nat :=
  let lt := if signed then (BitVec.ofNat w x).slt (BitVec.ofNat w y) else decide (x < y)
  if lt != max then x else y

/-- The new value of a word of `w` bits that holds `old` (R215). -/
def redValue (op : RedMem) (w b old : Nat) : Nat :=
  match op with
  | .add => (old + b) % 2 ^ w
  | .and => old &&& b
  | .or => old ||| b
  | .xor => old ^^^ b
  | .minI => pickNat w true false old b
  | .minN => pickNat w false false old b
  | .maxI => pickNat w true true old b
  | .maxN => pickNat w false true old b
  | .faddF32 => ((add32 memEnv (BitVec.ofNat 32 old) (BitVec.ofNat 32 b)).1.truncate 32 : Word).toNat

def atomValue (op : AtomOp) (w b cmp old : Nat) : Nat :=
  match op with
  | .add => redValue .add w b old
  | .and => redValue .and w b old
  | .or => redValue .or w b old
  | .xor => redValue .xor w b old
  | .minI => redValue .minI w b old
  | .minN => redValue .minN w b old
  | .maxI => redValue .maxI w b old
  | .maxN => redValue .maxN w b old
  | .exch => b
  | .cas _ => if old = cmp then b else old
  | .faddF32 => redValue .faddF32 w b old

/-- The size in bytes of an atomic, and its words. -/
def atomN (w64 : Bool) : Nat := if w64 then 8 else 4
def atomW (w64 : Bool) : Nat := if w64 then 2 else 1

/-- The compare operand of CAS. -/
def casUse (op : AtomOp) (w64 : Bool) : List Use :=
  match op with
  | .cas c => [useC c (atomW w64)]
  | _ => []

/-- ATOM (R215): its access and old value come at completion. -/
def execAtom (d : Rn) (a b : Src) (op : AtomOp) (w64 : Bool) (lh : BitVec 4) (off : BitVec 11) (s : State) :
    Host.Outcome State Fault Refusal :=
  Act.run (withAttr fun i _ m =>
    issueLong (.atom d a b op w64 lh off)
      ⟨some (d, atomW w64),
        [baseUse i m.space a.r a.lu, ⟨1, b.r, atomW w64, b.lu || i.dlu, false⟩] ++ casUse op w64⟩
      (fun _ c _ => spaceBad c atomSpaces m.space) lh.toNat true) s

/-- The low `n` bytes of an operand as a number. -/
def lowNat (n : Nat) (x : DWord) : Nat := x.toNat % 2 ^ (8 * n)

/-- A lane's later loads of words see them from now on (R323). -/
def Lane.seeNow (l : Lane) (now : Nat) (ps : List Place) : Lane :=
  let ws := (ps.filterMap fun p => match p with
    | .mem pa => some (pa / 4 * 4)
    | _ => none).eraseDups
  { l with seen := (ws.map fun w => (w, now)) ++ l.seen.filter fun p => !ws.contains p.1 }

/-- Perform read-modify-writes lane by lane in ascending order (R215): answers the old values. -/
def rmwLanes (k : Nat) (c : Crew) (f : Nat → Nat → Nat) : List (Nat × List Place) → Act (List (Nat × Nat))
  | [] => pure []
  | (n, ps) :: rest => do
    let s ← get
    let (s1, old) := s.rmw (c.teamOf n) ps (f n)
    set (s1.updCrew k fun c => c.mapLanes (1#64 <<< n) fun _ l => l.seeNow s1.mem.now ps)
    let r ← rmwLanes k c f rest
    pure ((n, old) :: r)

/-- The line commits that atomics of some lanes need, for every team among them (R216). -/
def State.commitFor (s : State) (core : Nat) (c : Crew) : List (Nat × List Place) → State × Bool
  | [] => (s, true)
  | (n, ps) :: rest =>
    let team := c.teamOf n
    match s.commitLines team core (some c.id) (s.heldLines team (memLines ps)) with
    | (s1, true) => s1.commitFor core c rest
    | (s1, false) => (s1, false)

/-- Set how far the instruction has come, and wait. -/
def waitStage (n : Nat) : Act Unit := do
  modCrew fun c => { c with pipe := { c.pipe with stage := n } }
  waitHere

/-- RED (R215, R216): performed at issue; one on a peer's page waits until the peer has performed it (R406). -/
def execRed (a b : Src) (op : RedMem) (w64 : Bool) (off : BitVec 11) (s : State) : Host.Outcome State Fault Refusal :=
  Act.run (withAttr fun i _ m => do
    let sh : Shape := ⟨none, [baseUse i m.space a.r a.lu, ⟨1, b.r, atomW w64, b.lu || i.dlu, false⟩]⟩
    let o ← begin' sh (fun _ c _ => spaceBad c atomSpaces m.space) true false
    let c ← theCrew
    let s ← get
    let n := atomN w64
    if isRel m.order && !s.released c c.pipe.serial m.scope then waitHere
    else
      let ls ← settle o fun _ l =>
        s.resolve c (c.teamOf l) ⟨m.space, eaOf m.space (o.fa l) off.toInt, n, n, Need.both, true⟩
      let ps := ls.map fun p => (p.1, p.2.filterMap id)
      let c ← theCrew
      match ps.find? fun p => s.homePoison (c.teamOf p.1) (memBytes p.2) with
      | some p => modify fun s => s.consume (c.teamOf p.1)
      | none =>
        let (s1, ok) := (← get).commitFor (s.coreFor c) c ps
        set s1
        let what := XferFor.op c.id c.pipe.serial
        let far := ps.filter fun p => (memBytes p.2).any isPeerPa
        if !ok then waitHere
        else if !far.isEmpty && c.pipe.stage = 0 then do
          set (far.foldl (fun s p => s.askAtomic (some c.grid) what (.red op) n (lowNat n (o.fb p.1)) (memBytes p.2)) s1)
          waitStage 1
        else if !far.isEmpty && !s1.answered what then waitHere
        else
          let _ ← rmwLanes c.id c (fun l old => redValue op (8 * n) (lowNat n (o.fb l)) old) ps
          onlyIf (isAcq m.order) (modify fun s => s.acquire c m.scope)
          finish sh o fun c _ => c) s

/-! ## CPY (R217, R218) -/

def cpyN : CpySize → Nat
  | .b4 => 4
  | .b8 => 8
  | .b16 => 16

/-- What a CPY does not accept (R217): its spaces, and a reduction to a space that is not global. -/
def cpyBad (c : Crew) (rd : CpyRed) (dsp ssp : Space) : Bool :=
  spaceBad c [.generic, .global, .scratch, .remote] dsp ||
  spaceBad c [.generic, .global, .scratch, .remote, .constant, .gwin] ssp ||
  (rd != .none && dsp != .generic && dsp != .global)

/-- CPY (R217, R218): the counts rise at issue; the copies start once the addresses are translated. A lane with 64
copies on the token makes the issue wait. -/
def execCpy (a b : Src) (size : CpySize) (tok : BitVec 3) (rd : CpyRed) (ty : RedTy) (dsp ssp : Space) (lh : BitVec 4)
    (s : State) : Host.Outcome State Fault Refusal :=
  Act.run (withAttr fun i c _ => do
    let full := (lanesOf i.act).any fun n => (c.lane n).any fun l => 64 ≤ (nth l.toks tok.toNat ⟨0, false⟩).count
    if full then waitHere
    else do
      issueLong (.cpy a b size tok rd ty dsp ssp lh)
        ⟨none, [baseUse i dsp a.r a.lu, ⟨1, b.r, baseW ssp, b.lu || i.dlu, false⟩]⟩
        (fun _ c _ => cpyBad c rd dsp ssp) lh.toNat true
      modCrew fun c => c.mapLanes i.act fun _ l => l.tokCount tok.toNat (· + 1)) s

/-! ## LDWP (R223) -/

/-- LDWP (R223): the channel's write pointer, for the team of the lowest lane of ACTIVE. -/
def execLdwp (d : Rn) (ch : BitVec 3) (s : State) : Host.Outcome State Fault Refusal :=
  Act.run (do
    let sh : Shape := ⟨some (d, 1), []⟩
    let o ← begin' sh fine true false
    let i ← theIssue
    let c ← theCrew
    let s ← get
    match (lowest i.act).bind fun l => (s.team? (c.teamOf l)).map fun t => t.chans.find? (·.num == ch.toNat) with
    | none => finish sh o fun c _ => c
    | some none => raise o ILLOPND 0 i.act
    | some (some k) => finish sh o fun c i => c.writeDst i sh fun _ => BitVec.ofNat 64 (k.base + k.done)) s

/-! ## FENCE (R224) -/

def fenceShape : Shape := ⟨none, []⟩

/-- FENCE.acq (R213, R224). -/
def execFenceAcq (sc : Scope) (s : State) : Host.Outcome State Fault Refusal :=
  Act.run (do
    let o ← begin' fenceShape fine true false
    let i ← theIssue
    let c ← theCrew
    onlyIf (i.act != 0) (modify fun s => s.acquire c sc)
    finish fenceShape o fun c _ => c) s

/-- Wait until a release of the crew at a scope is made (R213). -/
def releaseHere (sc : Scope) : Act Unit := do
  let i ← theIssue
  let c ← theCrew
  if i.act != 0 && !(← get).released c c.pipe.serial sc then waitHere else pure ()

/-- FENCE.rel (R213, R224). -/
def execFenceRel (sc : Scope) (s : State) : Host.Outcome State Fault Refusal :=
  Act.run (do
    let o ← begin' fenceShape fine true false
    releaseHere sc
    finish fenceShape o fun c _ => c) s

/-- FENCE.acqrel (R224): release, then acquire. -/
def execFenceAcqrel (sc : Scope) (s : State) : Host.Outcome State Fault Refusal :=
  Act.run (do
    let o ← begin' fenceShape fine true false
    releaseHere sc
    let i ← theIssue
    let c ← theCrew
    onlyIf (i.act != 0) (modify fun s => s.acquire c sc)
    finish fenceShape o fun c _ => c) s

/-- Has every access of a class that the crew started been performed (R224, R262, R271, R286, R287, R313)? -/
def State.classDone (s : State) (c : Crew) (i : Issue) (sc : Scope) (w : Cls) : Bool :=
  let teams := c.teamsIn i.act
  (c.pipe.inflight.all fun o => o.done || o.cls != some w) &&
  match w with
  | .c => s.released c c.pipe.serial sc
  | .y =>
    ((lanesOf i.act).all fun n => (c.lane n).all fun l => l.toks.all (·.count == 0)) &&
    (c.cox.isNone || teams.all fun u => (s.team? u).all fun t => t.chans.all fun k => k.src.isEmpty)
  | .x =>
    (s.eng.mxops.all fun m => m.crew != c.id) &&
    s.eng.drains.all fun d => d.crew != c.id || !wide sc || (d.port.isSome && sc == .package)
  | .s => s.eng.sops.all fun p => !teams.contains p.team
  | .k => s.eng.kops.all fun k => k.crew != c.id
  | .g => s.eng.copies.all fun k => k.crew != c.id || !k.win

/-- FENCE.x (R224, R334): the class-w accesses of the crew are performed. With r = C the L1 is invalidated: later loads see
what the crew's team, its engines among it, wrote (log entry 28). -/
def execFenceX (sc : Scope) (w r : Cls) (s : State) : Host.Outcome State Fault Refusal :=
  Act.run (do
    let o ← begin' fenceShape fine true false
    let i ← theIssue
    let c ← theCrew
    let s ← get
    if i.act != 0 && !s.classDone c i sc w then waitHere
    else do
      onlyIf (i.act != 0 && r == .c) (modify fun s => s.acquire c .team)
      finish fenceShape o fun c _ => c) s

/-! ## PHASE (R226 to R228, R328, R329) -/

/-- Is an address inside an idempotent region of the grid (R343)? -/
def Grid.inIdem (g : Grid) (pc : Nat) : Bool := g.idem.any fun r => r.1 ≤ pc && pc < r.2

/-- Begin the commits of PHASE: RESTART is cleared unless all of the team's lanes are in idempotent regions. -/
def State.phaseBegin (s : State) (c : Crew) (i : Issue) (team : Nat) : State :=
  let inside := (lanesOf i.act).all fun n => c.teamOf n != team ||
    ((s.team? team).bind fun t => s.grid? t.grid).any fun g => c.depthAt i.s == 0 && g.inIdem i.pc
  let s1 := if inside then s else s.clearRestart team
  if (s1.team? team).any fun t => !t.buf.isEmpty then s1.beginCommit team c.core (some c.id) fun _ => true else s1

/-- PHASE (R227): release; commits; their completion; for ADVANCE the phase number and its copies. -/
def phase (advance : Bool) : Act Unit := do
  let o ← begin' fenceShape fine true false
  let i ← theIssue
  let c ← theCrew
  let s ← get
  let dom := (c.attr i).pdom
  let teams := c.teamsIn i.act
  if i.act == 0 then finish fenceShape o fun c _ => c
  else if c.pipe.stage = 0 && !s.released c c.pipe.serial .package then waitHere
  else if c.pipe.stage = 0 && !(teams.all s.commitsDone) then waitHere
  else do
    onlyIf (c.pipe.stage = 0) (set (teams.foldl (fun s u => s.phaseBegin c i u) s))
    let s ← get
    if c.pipe.stage ≤ 1 && (s.eng.commits.any fun k => k.crew == some c.id) then waitStage 1
    else if !advance then finish fenceShape o fun c _ => c
    else
      match s.ctx? c.ctx with
      | none => finish fenceShape o fun c _ => c
      | some cx =>
        if c.pipe.stage ≤ 1 then do
          let n := nth cx.pn dom 0 + 1
          modify fun s => s.updCtx cx.id fun x => { x with pn := setNth x.pn dom n }
          waitStage (2 + n.toNat)
        else
          let n : Word := BitVec.ofNat 32 (c.pipe.stage - 2)
          if (List.range 4).all fun b => serialLe n (cx.pnAt b dom) then finish fenceShape o fun c _ => c
          else waitHere

/-- PHASE.commit (R227). -/
def execPhaseCommit (s : State) : Host.Outcome State Fault Refusal := Act.run (phase false) s

/-- PHASE.advance (R227, R328). -/
def execPhaseAdvance (s : State) : Host.Outcome State Fault Refusal := Act.run (phase true) s

end Sys2Proof.Machine
end

