-- ==== Sys2Proof/Machine/Tiles.lean ====
section
/-! DEFINITION. Tile instructions (R230 to R237). TLD and TST are issued here; their translation and completion stand in
LongEv.lean. -/

namespace Sys2Proof.Machine

/-- The element size (R230). -/
def tyEs : TileTy → Nat
  | .f32 | .i32 => 4
  | .f16 | .bf16 => 2

/-- A configured tile of a team. -/
def Team.tile? (t : Team) (n : Nat) : Option Tile := t.tiles.find? fun x => x.num == n && x.st != 0

def Team.putTile (t : Team) (x : Tile) : Team := { t with tiles := putBy Tile.num x t.tiles }

/-- Element (i, j) of a tile in row-major order. -/
def Tile.at (x : Tile) (i j : Nat) : Word := nth x.elems (i * x.cols + j) 0

/-- Write one element; 16-bit types take the low half. -/
def Tile.put (x : Tile) (i j : Nat) (w : Word) : Tile :=
  { x with elems := setNth x.elems (i * x.cols + j) (if tyEs x.ty = 2 then w &&& 0xFFFF else w) }

def Tile.dirty (x : Tile) : Tile := { x with st := 2 }

/-- The team whose tiles an issue reaches: that of its lanes, which is one (R23, R175), or the Cox context's. -/
def Crew.tileTeam (c : Crew) (i : Issue) : Nat := c.teamOf ((lowest i.s).getD 0)

/-- Is a tile number at or above the team's count (R230)? -/
def tileBad (n : Nat) (s : State) (c : Crew) (i : Issue) : Bool :=
  (s.team? (c.tileTeam i)).all fun t => t.res.ntiles ≤ n

/-- An instruction that reaches a tile waits for an incomplete TLD or TST on it (R237), and a Cox context's for its
earlier matrix operations on it (R262). -/
def tileBusy (s : State) (c : Crew) (n : Nat) : Bool :=
  (c.pipe.inflight.any fun o => !o.done && match o.instr with
    | .tld t _ _ _ _ => t.toNat == n
    | .tst t _ _ _ _ => t.toNat == n
    | _ => false) ||
  (c.cox.isSome && s.eng.mxops.any fun m => m.crew == c.id && m.tile == n)

def waitTile (n : Nat) : Act Unit := do
  let c ← theCrew
  if tileBusy (← get) c n then waitHere else pure ()

/-- Act once on the team of an issue, when a lane acts. -/
def onTile (f : Team → Team) : Act Unit := do
  let i ← theIssue
  let c ← theCrew
  onlyIf (i.act != 0) (modify fun s => s.updTeam (c.tileTeam i) f)

/-- A fresh tile: every element zero, NEXTSEQ 0 (R231, R270). -/
def Tile.zeroed (n : Nat) (ty : TileTy) (rows cols : Nat) : Tile := ⟨n, 1, ty, rows, cols, List.replicate (rows * cols) 0, 0⟩

/-- TCFG (R231). -/
def execTcfg (tile : BitVec 8) (ty : TileTy) (rows cols : BitVec 6) (s : State) : Host.Outcome State Fault Refusal :=
  Act.run (do
    let o ← begin' fenceShape (tileBad tile.toNat) true false
    waitTile tile.toNat
    onTile fun t => t.putTile (.zeroed tile.toNat ty (rows.toNat + 1) (cols.toNat + 1))
    finish fenceShape o fun c _ => c) s

/-- The tile of an issue, or TILE_UNCFG in the lanes of ACTIVE (R230). -/
def needTile (o : Opn) (n : Nat) : Act Tile := do
  let i ← theIssue
  let c ← theCrew
  match ((← get).team? (c.tileTeam i)).bind (·.tile? n) with
  | some x => pure x
  | none => raise o TILE_UNCFG 0 i.act

/-- TZERO (R232). -/
def execTzero (tile : BitVec 8) (s : State) : Host.Outcome State Fault Refusal :=
  Act.run (do
    let o ← begin' fenceShape (tileBad tile.toNat) true false
    waitTile tile.toNat
    let i ← theIssue
    if i.act == 0 then finish fenceShape o fun c _ => c
    else do
      let x ← needTile o tile.toNat
      onTile fun t => t.putTile (.zeroed tile.toNat x.ty x.rows x.cols)
      finish fenceShape o fun c _ => c) s

/-- TREL (R232). -/
def execTrel (tile : BitVec 8) (s : State) : Host.Outcome State Fault Refusal :=
  Act.run (do
    let o ← begin' fenceShape (tileBad tile.toNat) true false
    waitTile tile.toNat
    onTile fun t => { t with tiles := t.tiles.filter fun x => x.num != tile.toNat }
    finish fenceShape o fun c _ => c) s

def tyCode : TileTy → Nat
  | .f32 => 0
  | .f16 => 1
  | .bf16 => 2
  | .i32 => 3

/-- The word of TSTAT (R233). -/
def statWord : Option Tile → Nat
  | none => 0
  | some x => (x.cols - 1) * 2 ^ 12 + (x.rows - 1) * 2 ^ 6 + tyCode x.ty * 2 ^ 4 + x.st

/-- TSTAT (R233). -/
def execTstat (d : Rn) (tile : BitVec 8) (s : State) : Host.Outcome State Fault Refusal :=
  Act.run (do
    let sh : Shape := ⟨some (d, 1), []⟩
    let o ← begin' sh (tileBad tile.toNat) false false
    waitTile tile.toNat
    let s ← get
    finish sh o fun c i => c.writeDst i sh fun _ =>
      BitVec.ofNat 64 (statWord ((s.team? (c.tileTeam i)).bind (·.tile? tile.toNat)))) s

/-! ## TWR and TRD (R189, R234, R235) -/

/-- The slice index: a constant, or B of the lowest lane of ACTIVE (R234). -/
def sliceIdx (idx : SliceIdx) (o : Opn) (act : LaneMask) : Nat :=
  match idx with
  | .imm i => i.toNat
  | .reg _ => (o.wb ((lowest act).getD 0)).toNat

def sliceUses : SliceIdx → List Use
  | .imm _ => []
  | .reg b => [useB b]

/-- The number of elements of a slice and of the registers that hold it. -/
def sliceLen (x : Tile) (col : Bool) : Nat := if col then x.rows else x.cols
def groupLen (n w : Nat) : Nat := (n + w - 1) / max w 1

/-- The place of element `e` of slice `k` of a tile. -/
def slicePos (col : Bool) (k e : Nat) : Nat × Nat := if col then (e, k) else (k, e)

/-- Must the operand of TWR and TRD name a `v` or an `h` register, and does it not (R234)? -/
def notVector (r : Rn) : Bool :=
  match r with
  | .win _ => false
  | _ => true

/-- The execution-time checks of R235: an unconfigured tile, a bad index, a group past the names or the budget. -/
def sliceChecks (o : Opn) (tile : Nat) (col : Bool) (k : Nat) (r : Rn) : Act Tile := do
  let i ← theIssue
  let c ← theCrew
  let x ← needTile o tile
  let h := 0 < c.depthAt i.s
  let g := groupLen (sliceLen x col) c.width
  if (if col then x.cols else x.rows) ≤ k then raise o ILLOPND 0 i.act
  else if badGroup c h r g 1 then raise o ILLOPND 0 i.act
  else if overBudget c h r g then raise o REGNAME 0 i.act
  else pure x

/-- The width of the group that an issue of TWR or TRD finds: one register while the tile is unconfigured (R58). -/
def State.groupOfTile (s : State) (c : Crew) (i : Issue) (tile : Nat) (col : Bool) : Nat :=
  match (s.team? (c.tileTeam i)).bind (·.tile? tile) with
  | some x => groupLen (sliceLen x col) c.width
  | none => 1

/-- The lanes that register `k` of a slice of `n` elements reaches. -/
def regLanes (act : LaneMask) (w n k : Nat) : LaneMask := act &&& maskOf fun l => l < w && k * w + l < n

/-- TWR (R234, R235): each lane of ACTIVE writes its elements of the slice. A group of one or two registers is taken from
the captured operand, a wider one from the registers (R189). While the tile is unconfigured the group is one register, which
every lane of ACTIVE reads (R58, log entry 92), and a trap's entry captures the first two (R189). -/
def execTwr (tile : BitVec 8) (a : Src) (col : Bool) (idx : SliceIdx) (s : State) : Host.Outcome State Fault Refusal :=
  Act.run (do
    let i ← theIssue
    let c ← theCrew
    let s ← get
    let h := 0 < c.depthAt i.s
    let shape := (s.team? (c.tileTeam i)).bind (·.tile? tile.toNat)
    let n := (shape.map fun x => sliceLen x col).getD c.width
    let g := groupLen n c.width
    let sh : Shape := ⟨none, ⟨0, a.r, g, a.lu, false⟩ :: sliceUses idx⟩
    let read (k l : Nat) := c.readWord (nameOf c.wb h a.r) k l false 1
    let o0 ← issueChecks sh (fun s c i => notVector a.r || tileBad tile.toNat s c i) true false false
      (some ((a.r, 1, 1) :: (sliceUses idx).map fun u => (u.r, 1, 1)))
    let two := 1 < g || shape.isNone
    let taken := (List.range c.width).map fun l =>
      if has i.act l then dword (read 0 l).1 (if two then (read 1 l).1 else 0) else 0
    let o := if i.entry.isSome then o0 else { o0 with a := taken }
    taggedBy o fun c l =>
      if (List.range g).any (fun k => has (regLanes i.act c.width n k) l && (read k l).2) then some a.r.code
      else if has (lowRead c i) l then c.taggedField h (sliceUses idx) l else none
    waitTile tile.toNat
    if i.act == 0 then finish sh o fun c _ => c
    else do
      let x ← sliceChecks o tile.toNat col (sliceIdx idx o i.act) a.r
      let k := sliceIdx idx o i.act
      let word (r l : Nat) : Word := if g ≤ 2 then wordOf (o.fa l) r else (read r l).1
      let es := (List.range (sliceLen x col)).filter fun e => has i.act (e % c.width)
      let y := es.foldl (fun y e =>
        let (p, q) := slicePos col k e
        y.put p q (word (e / c.width) (e % c.width))) x
      onTile fun t => t.putTile (if es.isEmpty then x else y.dirty)
      finish sh o fun c _ => c) s

/-- TRD (R234, R235): each lane of ACTIVE receives its elements of the slice. -/
def execTrd (d : Rn) (tile : BitVec 8) (col : Bool) (idx : SliceIdx) (s : State) : Host.Outcome State Fault Refusal :=
  Act.run (do
    let i ← theIssue
    let c ← theCrew
    let s ← get
    let h := 0 < c.depthAt i.s
    let g := s.groupOfTile c i tile.toNat col
    let sh : Shape := ⟨some (d, g), sliceUses idx⟩
    let o ← issueChecks sh (fun s c i => notVector d || tileBad tile.toNat s c i) false false false
      (some ((d, 1, 1) :: (sliceUses idx).map fun u => (u.r, 1, 1)))
    taggedReads o sh h lowRead
    waitTile tile.toNat
    if i.act == 0 then finish sh o fun c _ => c
    else do
      let x ← sliceChecks o tile.toNat col (sliceIdx idx o i.act) d
      roomFor sh h false
      let k := sliceIdx idx o i.act
      finish sh o fun c i => (List.range g).foldl (fun c r =>
        c.writeName ((nameOf c.wb h d).plus r) (regLanes i.act c.width (sliceLen x col) r) fun l =>
          let (p, q) := slicePos col k (r * c.width + l)
          x.at p q) c) s

/-! ## TLD and TST (R236) -/

def tldSpaces : List Space := [.generic, .global, .scratch, .remote, .constant]
def tstSpaces : List Space := [.generic, .global, .scratch, .remote]

/-- Issue TLD or TST: it waits for incomplete work on the tile, whatever its lookahead (R237). MEM's DLU has no use here
(R70, R71). -/
def issueTileMem (instr : Instr) (tile : Nat) (a b : Src) (ok : List Space) (lh : BitVec 4) : Act Unit :=
  withAttr fun i _ m => do
    waitTile tile
    issueLong instr ⟨none, [baseUse i m.space a.r a.lu, useB b]⟩
      (fun s c i => tileBad tile s c i || spaceBad c ok m.space) lh.toNat true lowRead

/-- TLD (R236). -/
def execTld (tile : BitVec 8) (a b : Src) (cm : Bool) (lh : BitVec 4) (s : State) : Host.Outcome State Fault Refusal :=
  Act.run (issueTileMem (.tld tile a b cm lh) tile.toNat a b tldSpaces lh) s

/-- TST (R236). -/
def execTst (tile : BitVec 8) (a b : Src) (cm : Bool) (lh : BitVec 4) (s : State) : Host.Outcome State Fault Refusal :=
  Act.run (issueTileMem (.tst tile a b cm lh) tile.toNat a b tstSpaces lh) s

end Sys2Proof.Machine
end

