-- ==== Sys2Proof/Machine/LongEv.lean ====
section
/-! DEFINITION. Long-latency work after its issue: TRANSLATION_COMPLETE (R22, R178, R211) and LONG_LATENCY_COMPLETE (R57,
R64, R97, R145, R146, R213 to R216, R236). -/

namespace Sys2Proof.Machine

/-! ## What each lane accesses -/

/-- The bytes that a lane's access stores to and the bytes it loads. -/
abbrev Plan := List (Option Place) × List (Option Place)

/-- A load or store of `n` bytes at an offset of `off` units of its size. -/
def ldAsk (o : LongOp) (lane n : Nat) (off : BitVec 7) (nd : Need) : Ask :=
  ⟨o.attr.space, eaOf o.attr.space (nth o.entry.a lane 0) (off.toInt * n), n, n, nd, true⟩

/-- The elements of a tile in the order of TLD and TST (R236). -/
def tileOrder (x : Tile) (cm : Bool) : List (Nat × Nat) :=
  if cm then (List.range x.cols).flatMap fun j => (List.range x.rows).map fun i => (i, j)
  else (List.range x.rows).flatMap fun i => (List.range x.cols).map fun j => (i, j)

/-- The elements' addresses for TLD and TST, checked in the lowest lane (R236). -/
def State.tilePlan (s : State) (c : Crew) (o : LongOp) (lane tile : Nat) (cm : Bool) (nd : Need) : Chk (List (Option Place)) :=
  let team := c.teamOf lane
  match (s.team? team).bind (·.tile? tile) with
  | none => .trap TILE_UNCFG 0
  | some x =>
    let es := tyEs x.ty
    let base := nth o.entry.a lane 0
    let stride := ((nth o.entry.b lane 0).truncate 32 : Word).toNat
    if (eaOf o.attr.space base 0) % es != 0 || stride % es != 0 then .trap MISALIGN 0
    else
      let step (p : Nat × Nat) : Nat := if cm then p.2 * stride + p.1 * es else p.1 * stride + p.2 * es
      (Chk.every ((tileOrder x cm).map fun p =>
        s.resolve c team ⟨o.attr.space, eaOf o.attr.space base (step p), es, es, nd, true⟩)).bind fun l => .ok l.flatten

/-- The asks of a lane that may meet a gather window (R283). -/
def LongOp.asks (o : LongOp) (lane : Nat) : List Ask :=
  match o.instr with
  | .ld1 _ _ off _ => [ldAsk o lane 1 off Need.read]
  | .ld2 _ _ off _ => [ldAsk o lane 2 off Need.read]
  | .ld4 _ _ off _ => [ldAsk o lane 4 off Need.read]
  | .ld8 _ _ off _ => [ldAsk o lane 8 off Need.read]
  | .ld16 _ _ off _ => [ldAsk o lane 16 off Need.read]
  | .st1 _ _ off _ => [ldAsk o lane 1 off Need.write]
  | .st2 _ _ off _ => [ldAsk o lane 2 off Need.write]
  | .st4 _ _ off _ => [ldAsk o lane 4 off Need.write]
  | .st8 _ _ off _ => [ldAsk o lane 8 off Need.write]
  | .st16 _ _ off _ => [ldAsk o lane 16 off Need.write]
  | .atom _ _ _ _ w64 _ off =>
    [⟨o.attr.space, eaOf o.attr.space (nth o.entry.a lane 0) off.toInt, atomN w64, atomN w64, Need.both, true⟩]
  | .cpy _ _ size _ rd _ dsp ssp _ =>
    let z := cpyN size
    [⟨dsp, eaOf dsp (nth o.entry.a lane 0) 0, z, z, if rd = .none then Need.write else Need.both, false⟩,
     ⟨ssp, eaOf ssp (nth o.entry.b lane 0) 0, z, z, Need.read, false⟩]
  | _ => []

def isStore : Instr → Bool
  | .st1 .. | .st2 .. | .st4 .. | .st8 .. | .st16 .. => true
  | _ => false

/-- The checks of a lane at translation (R211, R217, R236, R283, R314) and the bytes of its access. -/
def State.planLane (s : State) (c : Crew) (o : LongOp) (lane : Nat) : Chk Plan :=
  let team := c.teamOf lane
  match o.instr with
  | .tld t _ _ cm _ =>
    if lowest o.entry.part = some lane then (s.tilePlan c o lane t.toNat cm Need.read).bind fun l => .ok ([], l)
    else .ok ([], [])
  | .tst t _ _ cm _ =>
    if lowest o.entry.part = some lane then (s.tilePlan c o lane t.toNat cm Need.write).bind fun l => .ok (l, [])
    else .ok ([], [])
  | .cpy _ _ _ _ rd _ _ _ _ =>
    match o.asks lane with
    | [d, r] =>
      (s.resolve c team d).bind fun ds =>
        (need (rd == .none || ds.all fun p => match p with
          | some (.mem _) => true
          | _ => false) ILLOPND).bind fun _ => (s.resolve c team r).bind fun rs => .ok (ds, rs)
    | _ => .ok ([], [])
  | i =>
    (Chk.every ((o.asks lane).map (s.resolve c team))).bind fun ls =>
      .ok (if isStore i then (ls.flatten, []) else ([], ls.flatten))

/-! ## TRANSLATION_COMPLETE -/

/-- The next operation of a crew to be translated, in program order, where no lane of it waits for a fault. -/
def State.toTranslate (s : State) (c : Crew) : Option LongOp :=
  match c.pipe.inflight.find? fun o => !o.translated with
  | some o =>
    let early := c.pipe.traps.any fun t => t.serial < o.entry.serial
    let stuck := (lanesOf o.entry.part).any fun n => (c.lane n).any fun l => l.faultOn.any s.faultOpen
    if stuck || (early && o.cls == some .y) then none else some o
  | none => none

/-- Replace an operation in flight; one that is done and whose windows have closed is forgotten. -/
def Crew.putOp (c : Crew) (o : LongOp) : Crew :=
  let ops := c.pipe.inflight.map fun p => if p.entry.serial = o.entry.serial then o else p
  { c with pipe := { c.pipe with inflight := ops.filter fun p => !(p.done && p.left.all (· == 0)) } }

def Crew.dropOp (c : Crew) (serial : Nat) : Crew :=
  { c with pipe := { c.pipe with inflight := c.pipe.inflight.filter fun p => p.entry.serial != serial } }

/-- Take lanes out of an operation and of an entry. -/
def Entry.without (e : Entry) (m : LaneMask) : Entry := { e with part := e.part &&& ~~~m, s := e.s &&& ~~~m }

/-- The lanes `m` fault at an operation (R22): they end their segments before it, with the mappings held then, and
every later effect in them is discarded, traps raised in the window among them; flags merged into the crew's FPCR stay (log
entry 104). -/
def Crew.faultLanesAt (c : Crew) (o : LongOp) (m : LaneMask) (key : Nat → Option FaultKey) : Crew :=
  let later := c.pipe.inflight.filter fun p => o.entry.serial < p.entry.serial
  let c1 := c.undoTokens (o :: later) m
  let c2 := c1.mapLanes m fun n l =>
    let old := (o.ckpt.lanes[n]?).join
    let l1 := (restoreLane (some l) old).getD l
    { l1 with ending := some ⟨o.entry.pc, o.ckpt.wb, (old.map (·.run)).getD l.run, ((key n).map Wait.fault).getD .none, c.teamLocal,
                none, false, some o.ckpt.regs⟩ }
  let c3 := c2.closeWindows m
  { c3 with pipe := { c3.pipe with
      inflight := c3.pipe.inflight.map fun p =>
        if o.entry.serial ≤ p.entry.serial then { p with entry := p.entry.without m } else p,
      issued := c3.pipe.issued.map fun e => if o.entry.serial ≤ e.serial then e.without m else e,
      traps := c3.pipe.traps.filterMap fun t =>
        if t.serial < o.entry.serial then some t
        else if (t.s &&& ~~~m) == 0 then none
        else some { t with s := t.s &&& ~~~m, emask := t.emask &&& ~~~m, entry := t.entry.map (·.without m) } } }

/-- A trap that an operation raises at its translation (R178). -/
def LongOp.trap (o : LongOp) (code arg grade : Nat) (m : LaneMask) : Trap :=
  { serial := o.entry.serial, emul := false, code := code, arg := arg, emask := m, s := o.entry.s, pc := o.entry.pc,
    len := o.entry.len, entry := some o.entry, ckpt := o.ckpt, tok := none, grade := grade, query := [], eop := 0, efields := 0, eimm := 0, epfx := 0 }

/-- Start the copies of a translated CPY (R218). -/
def State.startCopies (s : State) (c : Crew) (o : LongOp) (ls : List (Nat × Plan)) : State :=
  match o.instr with
  | .cpy _ _ _ tok rd ty _ ssp _ =>
    let id0 := s.clock.nextId
    let mk (i : Nat) (p : Nat × Plan) : Copy :=
      ⟨id0 + i, c.teamOf p.1, if c.cox.isSome then none else (c.lane p.1).map (·.idx), c.id, tok.toNat, p.2.1, p.2.2, rd, ty,
        o.attr.pdom, c.core, o.entry.serial, ssp == .gwin, 0⟩
    { s with clock := { s.clock with nextId := id0 + ls.length },
             eng := { s.eng with copies := s.eng.copies ++ ls.mapIdx mk } }
  | _ => s

/-- An operation has passed translation in the lanes that did not fault. -/
def State.passed (s : State) (c : Crew) (o : LongOp) (ls : List (Nat × Plan)) : State :=
  let copy := o.cls == some .y
  let p : LongOp :=
    { o with
      translated := true, done := copy || ls.isEmpty,
      dst := ls.map (fun x => (x.1, x.2.1)), src := ls.map (fun x => (x.1, x.2.2)) }
  (s.setCrew (c.putOp p).release).startCopies c o ls

/-- What translation finds in each lane of an operation. -/
def State.planOp (s : State) (c : Crew) (o : LongOp) : List (Nat × Chk Plan) :=
  (lanesOf o.entry.part).filterMap fun n => (c.lane n).map fun l =>
    let old := (((o.ckpt.lanes[n]?).join).map (·.unres)).getD []
    (n, (s.planLane c o n).served (l.unres ++ old))

/-- Would translation raise a trap while a lookahead window of the operation is open (R63, R178)? -/
def State.trapsInWindow (s : State) (c : Crew) (o : LongOp) : Bool :=
  o.left.any (0 < ·) && (trapOf (s.planOp c o)).isSome

/-- Translate an operation (R22, R178, R211). -/
def State.translateClean (s : State) (c : Crew) (o : LongOp) : State :=
  let rs := s.planOp c o
  let s1 := (lanesOf o.entry.part).foldl (fun s n => (o.asks n).foldl (fun s a => s.latchFor c.ctx (c.teamOf n) a) s) s
  match trapOf rs with
  | some (code, arg, m) =>
    (s1.setCrew ((c.undoTokens [o] (BitVec.allOnes 64)).dropOp o.entry.serial)).queueTrap c.id
      (o.trap code arg (s.gradeP (c.teamOf ((lowest o.entry.s).getD 0))) m)
  | none =>
    let fl := faultLanes rs
    let s2 := fl.foldl (fun s p => s.addFault p.2.1 p.2.2.1 p.2.2.2) s1
    let m := maskOf fun n => fl.any (·.1 == n)
    if fl.isEmpty then s2.passed c o (okLanes rs)
    else if c.cox.isSome || 0 < c.depthAt o.entry.s || o.replay then
      s2.setCrew (c.mapLanes m fun n l => { l with faultOn := (fl.find? (·.1 == n)).map (·.2.1) })
    else
      let c1 := c.faultLanesAt o m fun n => (fl.find? (·.1 == n)).map (·.2.1)
      let o1 : LongOp := { o with entry := o.entry.without m, left := o.left.mapIdx fun n k => if has m n then 0 else k }
      let ls := match o.instr with
        | .tld .. | .tst .. => []
        | _ => okLanes rs
      (s2.setCrew c1).passed c1 o1 ls

/-- Does an access through a gather window read a poisoned index word (R279, R282, R363)? -/
def State.gatherPoison (s : State) (ctx team : Nat) (a : Ask) : Bool :=
  a.space == .gwin && a.ea % a.al == 0 && match s.gather ctx team a, (s.team? team).bind fun t => (t.windows[bits a.ea 32 3]?).join with
    | .ok _, some w =>
      let o := a.ea % 2 ^ 32
      (List.range ((o + a.n - 1) / w.es - o / w.es + 1)).any fun i =>
        match s.chkVa ctx (w.ibase + (o / w.es + i) * w.isz) Need.read with
        | .ok pa => s.readsPoison team ((List.range w.isz).map fun k => .mem (pa + k))
        | _ => false
    | _, _ => false

/-- Translate an operation (R22, R178, R211), where it consumes no poisoned index word (R363). -/
def State.translateOp (s : State) (c : Crew) (o : LongOp) : State :=
  match (lanesOf o.entry.part).find? fun n => (o.asks n).any (s.gatherPoison c.ctx (c.teamOf n)) with
  | some n => s.consume (c.teamOf n)
  | none => s.translateClean c o

/-- TRANSLATION_COMPLETE (R22, R178, R211): the oldest operation of the crew that awaits it. -/
def execTranslationComplete (crew op : Nat) (s : State) : Host.Outcome State Fault Refusal :=
  .next (match (s.crew? crew).bind fun c => (s.toTranslate c).map fun o => (c, o) with
    | some (c, o) => if o.entry.serial = op then s.translateOp c o else s
    | none => s)

/-! ## LONG_LATENCY_COMPLETE -/

/-- Write the results of an operation in its lanes: the other lanes keep what the name held (R64). -/
def Crew.putResults (c : Crew) (o : LongOp) (m : LaneMask) (res : Nat → Nat → Word) : Crew :=
  (o.group.mapIdx fun i k => (i, k)).foldl (fun c p => c.writeName (nameOfKey p.2) m fun l => res l p.1) c

/-- The same in the mappings that a later trap or fault restores. -/
def Ckpt.putResults (k : Ckpt) (c : Crew) (o : LongOp) (m : LaneMask) (res : Nat → Nat → Word) (fl : Word) : Ckpt :=
  let d := ({ c with regs := k.regs, scal := k.scal, hregs := k.hregs }).putResults o m res
  { k with regs := d.regs, scal := d.scal, hregs := d.hregs, fpcr := k.fpcr ||| fl }

/-- An operation completes (R57, R64): its results are written, in the crew's mappings and in those that a later trap or
fault brings back, and its flags are merged (R133). Its previous mappings return to the pool as R200 allows. -/
def Crew.complete (c : Crew) (o : LongOp) (res : Nat → Nat → Word) (fl : Word) : Crew :=
  let m := o.entry.part
  let prev := o.group.map c.holding
  let c1 := c.putResults o m res
  let lanes := c1.lanes.mapIdx fun n l => l.map fun l =>
    match l.ending with
    | some e =>
      if has m n then { l with ending := some { e with regs := e.regs.map fun rs =>
        (({ c with regs := rs }).putResults o (1#64 <<< n) res).regs } }
      else l
    | none => l
  let later (k : Ckpt) := k.putResults c o m res fl
  let c2 : Crew := { c1 with
    lanes := lanes, fpcr := c1.fpcr ||| fl,
    pipe := { c1.pipe with
      inflight := c1.pipe.inflight.map fun p => if o.entry.serial < p.entry.serial then { p with ckpt := later p.ckpt } else p,
      traps := c1.pipe.traps.map fun t => if o.entry.serial < t.serial then { t with ckpt := later t.ckpt } else t,
      held := (o.entry.serial, ((o.group.zip prev).filter fun p => p.1 < 256 && p.2.isSome).length) :: c1.pipe.held } }
  (c2.putOp { o with done := true, prev := prev }).release

/-- The bytes of a group as words. -/
def groupWord (bs : List Byte) (i : Nat) : Word := BitVec.ofNat 32 (leNat ((bs.drop (4 * i)).take 4))

/-- Class-C stores of a lane are remembered until they are committed (R323). -/
def Lane.noteStores (l : Lane) (ps : List Place) : Lane :=
  let ws := ps.filterMap fun p => match p with
    | .mem pa => some (pa / 4 * 4)
    | _ => none
  { l with wrote := (ws ++ l.wrote).eraseDups }

/-- The data of a store in a lane. -/
def LongOp.data (o : LongOp) (lane n : Nat) : List Byte :=
  leBytes n ((nth o.entry.b lane 0).toNat + 2 ^ 64 * (nth o.entry.c lane 0).toNat)

/-- The bytes that TST stores. -/
def tileBytes (x : Tile) (cm : Bool) : List Byte :=
  (tileOrder x cm).flatMap fun p => leBytes (tyEs x.ty) (x.at p.1 p.2).toNat

/-- What an operation stores, lane by lane. -/
def State.storesOf (s : State) (c : Crew) (o : LongOp) : List (Nat × List (Place × Byte)) :=
  o.dst.map fun p =>
    let ps := p.2.filterMap id
    match o.instr with
    | .tst t _ _ cm _ =>
      match (s.team? (c.teamOf p.1)).bind (·.tile? t.toNat) with
      | some x => (p.1, ps.zip (tileBytes x cm))
      | none => (p.1, [])
    | _ => (p.1, ps.zip (o.data p.1 ps.length))

/-- Remember the words that a lane stores to (R323). -/
def State.noteStore (s : State) (crew n : Nat) (ps : List Place) : State :=
  s.updCrew crew fun c => c.mapLanes (1#64 <<< n) fun _ l => l.noteStores ps

/-- Make the stores of some lanes, or answer the team and the commit that they wait for. A lane's stores of class C are
noted with them, so that a commit among them finds them noted (R323). -/
def State.storeLanes (s : State) (c : Crew) (note : Bool) (core dom : Nat) :
    List (Nat × List (Place × Byte)) → Except (Nat × Blocked) State
  | [] => .ok s
  | (n, bs) :: rest =>
    let noted (s : State) : State := if note then s.noteStore c.id n (bs.map (·.1)) else s
    match (noted s).storeBytes (c.teamOf n) core (some c.id) dom bs with
    | .ok s1 => (noted s1).storeLanes c note core dom rest
    | .error b => .error (c.teamOf n, b)

/-- May the operation be performed now (R22, R66, R179, R213, R314)? -/
def State.canPerform (s : State) (c : Crew) (o : LongOp) : Bool :=
  let m := o.entry.part
  o.translated && !o.done &&
  (!o.mem || c.pipe.inflight.all fun p =>
    p.translated || o.entry.serial ≤ p.entry.serial || (p.entry.part &&& m) == 0) &&
  (c.pipe.inflight.all fun p => p.done || !o.after.contains p.entry.serial) &&
  (c.pipe.traps.all fun t => o.entry.serial < t.serial) &&
  (!(o.mem && isRel o.attr.order) || s.released c o.entry.serial o.attr.scope) &&
  (o.cls != some .k || s.eng.kops.all fun k => k.crew != c.id || o.entry.serial < k.serial) &&
  !(o.mem && s.forcing c o.entry.serial) &&
  match o.instr with
  | .st1 .. | .st2 .. | .st4 .. | .st8 .. | .st16 .. | .tst .. =>
    match s.storeLanes c (o.cls == some .c) c.core o.attr.pdom (s.storesOf c o) with
    | .ok _ => true
    | .error (team, _) => s.commitsDone team
  | .atom .. =>
    (s.commitFor c.core c (o.src.map fun p => (p.1, p.2.filterMap id))).2 ||
    (c.teamsIn m).all s.commitsDone
  | _ => true

/-- Read the lanes of a load. -/
def loadLanes (c : Crew) (o : LongOp) (f : Fresh) : List (Nat × List (Option Place)) → Act (List (Nat × List Byte))
  | [] => pure []
  | (n, l) :: rest => do
    let s ← get
    let ps := l.filterMap id
    let team := c.teamOf n
    let bs ← if o.cls == some .c then do
        let v := (((s.crew? c.id).bind fun c => c.lane n).map fun l => (l.seen, l.wrote)).getD ([], [])
        let (bs, v1) ← readC team f (chunks8 ps.length ps) v
        modify fun s => s.updCrew c.id fun c => c.mapLanes (1#64 <<< n) fun _ l => { l with seen := v1.1, wrote := v1.2 }
        pure bs
      else pure (ps.map (s.placeByte team))
    let r ← loadLanes c o f rest
    pure ((n, bs) :: r)

/-- The crew's operation is done: its results and flags, and its acquire (R212, R213). -/
def landOp (k : Nat) (o : LongOp) (res : Nat → Nat → Word) (fl : Word) : Act Unit := do
  modify fun s => s.updCrew k fun c => c.complete o res fl
  let s ← get
  match s.crew? k with
  | some c => onlyIf (o.mem && isAcq o.attr.order && o.cls != some .y) (set (s.acquire c o.attr.scope))
  | none => pure ()

/-- Load a tile (R236). -/
def Tile.load (x : Tile) (cm : Bool) (bs : List Byte) : Tile :=
  let es := tyEs x.ty
  ((tileOrder x cm).mapIdx fun i p => (i, p)).foldl (fun x q =>
    x.put q.2.1 q.2.2 (BitVec.ofNat 32 (leNat ((bs.drop (es * q.1)).take es)))) x |>.dirty

/-- A source operand of an operation that makes no access. -/
def LongOp.opn (o : LongOp) : Opn := ⟨o.entry.a, o.entry.b, o.entry.c⟩

/-- Perform stores, or begin the commit that they wait for. -/
def performStore (c : Crew) (o : LongOp) (s : State) : Act Unit := do
  let st := s.storesOf c o
  match s.storeLanes c (o.cls == some .c) c.core o.attr.pdom st with
  | .error (team, b) => set (s.blockedBy team c.core (some c.id) b)
  | .ok s1 => do
    set s1
    landOp c.id o (fun _ _ => 0) 0

/-- Perform an ATOM, or begin the commits that it waits for. -/
def performAtom (c : Crew) (o : LongOp) (s : State) (op : AtomOp) (w64 : Bool) : Act Unit := do
  let ps := o.src.map fun p => (p.1, p.2.filterMap id)
  let n := atomN w64
  let (s1, ok) := s.commitFor c.core c ps
  set s1
  onlyIf ok (do
    let old ← rmwLanes c.id c (fun l v =>
      atomValue op (8 * n) (lowNat n (o.opn.fb l)) (lowNat n (o.opn.fc l)) v) ps
    landOp c.id o (fun l i => wordOf (BitVec.ofNat 64 ((old.lookup l).getD 0)) i) 0)

/-- Perform a load; for TLD into the tile. -/
def performLoad (c : Crew) (o : LongOp) (s : State) : Act Unit := do
  let ls ← loadLanes c o (s.freshOf c) o.src
  match o.instr with
  | .tld t _ _ cm _ =>
    match ls with
    | (n, bs) :: _ =>
      modify fun s => s.updTeam (c.teamOf n) fun tm =>
        match tm.tile? t.toNat with
        | some x => tm.putTile (x.load cm bs)
        | none => tm
    | [] => pure ()
    landOp c.id o (fun _ _ => 0) 0
  | _ => landOp c.id o (fun l i => groupWord ((ls.lookup l).getD []) i) 0

/-- Results of an operation that makes no access, and its flags (R97, R145, R146). -/
def LongOp.compute (o : LongOp) (l : Nat) : DWord × Flags :=
  let x := o.opn
  match o.instr with
  | .idiv _ _ _ rem n w64 _ =>
    (if w64 then idiv n rem (x.fa l) (x.fb l) else zx (idiv n rem (x.wa l) (x.wb l)), .none)
  | .fspec _ _ fn rm _ => spec32 (envOf o.ckpt.fpcr rm) fn (x.wa l)
  | .fdiv _ _ _ rm _ => div32 (envOf o.ckpt.fpcr rm) (x.wa l) (x.wb l)
  | _ => (0, .none)

/-- Does an operation read a poisoned byte: in the team's view, an ATOM at its home slice (R216, R279)? -/
def LongOp.poisoned (o : LongOp) (s : State) (team : Nat) (ps : List Place) : Bool :=
  match o.instr with
  | .atom .. => s.homePoison team (memBytes ps)
  | _ => s.readsPoison team ps

/-- Perform an operation in flight. -/
def performOp (c : Crew) (o : LongOp) : Act Unit := do
  let s ← get
  match o.src.find? fun p => o.poisoned s (c.teamOf p.1) (p.2.filterMap id) with
  | some p => set (s.consume (c.teamOf p.1))
  | none =>
    match o.instr with
    | .st1 .. | .st2 .. | .st4 .. | .st8 .. | .st16 .. | .tst .. => performStore c o s
    | .atom _ _ _ op w64 _ _ => performAtom c o s op w64
    | .idiv .. | .fspec .. | .fdiv .. =>
      let fl := (lanesOf o.entry.part).foldl (fun f l => f ||| (o.compute l).2.word) 0
      landOp c.id o (fun l i => wordOf (o.compute l).1 i) fl
    | _ => performLoad c o s

/-! ## Accesses to peer pages (R406) -/

/-- Does an operation read a page of a peer? -/
def LongOp.atPeer (o : LongOp) : Bool := o.src.any fun p => (memBytes (p.2.filterMap id)).any isPeerPa

/-- The atomic of an ATOM in a lane as it travels (R406). -/
def peerOpOf (op : AtomOp) (cmp : DWord) : PeerOp :=
  match op with
  | .add => .red .add
  | .and => .red .and
  | .or => .red .or
  | .xor => .red .xor
  | .minI => .red .minI
  | .minN => .red .minN
  | .maxI => .red .maxI
  | .maxN => .red .maxN
  | .exch => .exch
  | .cas _ => .cas cmp
  | .faddF32 => .red .faddF32

/-- Ask the peers for what an operation reads of their pages: lines for a load, the performance of an ATOM at its home slice,
before which the team's uncommitted bytes are committed (R216, R406). -/
def State.askPeers (s : State) (c : Crew) (o : LongOp) : State :=
  let what := XferFor.op c.id o.entry.serial
  let asked (s : State) : State := s.updCrew c.id fun c => c.putOp { o with asked := true }
  match o.instr with
  | .atom _ _ _ op w64 _ _ =>
    let ps := o.src.map fun p => (p.1, p.2.filterMap id)
    match s.commitFor c.core c ps with
    | (s1, false) => s1
    | (s1, true) => asked (ps.foldl (fun s p =>
        s.askAtomic (some c.grid) what (peerOpOf op (o.opn.fc p.1)) (atomN w64) (lowNat (atomN w64) (o.opn.fb p.1))
          (memBytes p.2)) s1)
  | _ => asked (s.askLines (some c.grid) what (peerLines (o.src.flatMap fun p => memBytes (p.2.filterMap id))))

/-- LONG_LATENCY_COMPLETE (R64, R213, R406): an operation of the crew that may be performed; what it reads of a peer's pages is
asked for first. -/
def execLongLatencyComplete (crew op : Nat) (s : State) : Host.Outcome State Fault Refusal :=
  Act.run (match (s.crew? crew).bind fun c => (c.pipe.inflight.find? (·.entry.serial == op)).map fun o => (c, o) with
    | some (c, o) =>
      if !s.canPerform c o then pure ()
      else if o.atPeer && !o.asked then set (s.askPeers c o)
      else if o.atPeer && !s.answered (.op crew op) then pure ()
      else performOp c o
    | none => pure ()) s

end Sys2Proof.Machine
end

