-- ==== Sys2Proof/Machine/Barrier.lean ====
section
/-! DEFINITION. Barriers (R272 to R275). -/

namespace Sys2Proof.Machine

/-- A barrier that nothing has reached yet. -/
def Bar.fresh (n : Nat) : Bar := ⟨n, 0, 0, none, []⟩

def State.bar (s : State) (t : Team) (cluster : Bool) (n : Nat) : Bar := (s.barrier? t cluster n).getD (.fresh n)

def State.putBar (s : State) (t : Team) (cluster : Bool) (b : Bar) : State := s.updBars t cluster (putBy Bar.num b)

/-- The record of an arriver at a barrier (R273). -/
def Bar.rec? (b : Bar) (team : Nat) (idx : Option Nat) : Option Arriver :=
  b.recs.find? fun r => r.team == team && r.idx == idx

def Bar.setRec (b : Bar) (r : Arriver) : Bar :=
  if (b.rec? r.team r.idx).isSome then
    { b with recs := b.recs.map fun q => if q.team == r.team && q.idx == r.idx then r else q }
  else { b with recs := b.recs ++ [r] }

def Bar.dropRec (b : Bar) (team : Nat) (idx : Option Nat) : Bar :=
  { b with recs := b.recs.filter fun q => !(q.team == team && q.idx == idx) }

/-- One arrival with expected count `a` (R273); none where it traps. -/
def Bar.arrive (b : Bar) (team : Nat) (idx : Option Nat) (a : Nat) : Option Bar :=
  if a = 0 || 16384 < a || b.exp.any (· != a) then none
  else
    let r : Arriver := ⟨team, idx, false, b.gen⟩
    let b1 := b.setRec r
    some (if b.count + 1 = a then { b1 with gen := b.gen + 1, count := 0, exp := none }
      else { b1 with count := b.count + 1, exp := some a })

/-- The arrivals of an issue, lane by lane: the barrier after them, and the lanes that trap. -/
def Bar.arriveAll (b : Bar) (team : Nat) (a : Nat → Nat) : List (Nat × Option Nat) → Bar × List Nat
  | [] => (b, [])
  | (n, idx) :: ls =>
    match b.arrive team idx (a n) with
    | some b1 => b1.arriveAll team a ls
    | none =>
      let r := b.arriveAll team a ls
      (r.1, n :: r.2)

/-- The arrivers of an issue: its lanes' threads, or the Cox context. -/
def Crew.arrivers (c : Crew) (m : LaneMask) : List (Nat × Option Nat) :=
  (lanesOf m).filterMap fun n => (c.lane n).map fun l => (n, if c.cox.isSome then none else some l.idx)

/-- The generation that a wait of an arriver is for (R274). -/
def Bar.waitGen (b : Bar) (team : Nat) (idx : Option Nat) : Word := ((b.rec? team idx).map (·.gen)).getD b.gen

/-- Record WAITING for some arrivers. -/
def Bar.waitAll (b : Bar) (team : Nat) (ls : List (Option Nat)) : Bar :=
  ls.foldl (fun b idx => b.setRec ⟨team, idx, true, b.waitGen team idx⟩) b

def Bar.passed (b : Bar) (team : Nat) (idx : Option Nat) : Bool := genPassed b.gen (b.waitGen team idx)

/-- The scope of a barrier (R275). -/
def barScope (cluster : Bool) : Scope := if cluster then .cluster else .team

/-- Is what the crew has issued released at a barrier, its tile effects among it, and of a Cox context all that is class X
(R213, R275)? The source reads of a TDRAIN are performed at its issue (R270). -/
def State.barReleased (s : State) (c : Crew) (cluster : Bool) : Bool :=
  s.released c c.pipe.serial (barScope cluster) &&
  (c.pipe.inflight.all fun o => o.done || match o.instr with
    | .tld .. => false
    | _ => true) &&
  (c.cox.isNone || ((s.eng.mxops.all fun m => m.crew != c.id) && s.eng.drains.all fun d => d.crew != c.id))

/-- The actions of a barrier instruction. -/
inductive BarAct where
  | arrive | wait | sync
deriving DecidableEq, Repr

/-- The lanes that arrive now: all for ARRIVE, none for WAIT, those not yet waiting for SYNC (R274). -/
def Bar.arriving (b : Bar) (team : Nat) (act : BarAct) (ls : List (Nat × Option Nat)) : List (Nat × Option Nat) :=
  match act with
  | .arrive => ls
  | .wait => []
  | .sync => ls.filter fun p => !((b.rec? team p.2).any (·.waiting))

/-- CBAR and TBAR (R272 to R275). -/
def barrierOp (cluster : Bool) (n : Nat) (sh : Shape) (act : BarAct) : Act Unit := do
  let o ← begin' sh fine true false
  let i ← theIssue
  let c ← theCrew
  let s ← get
  let team := c.tileTeam i
  match s.team? team with
  | none => finish sh o fun c _ => c
  | some t =>
    let b := s.bar t cluster n
    let ls := c.arrivers i.act
    let who := b.arriving team act ls
    let (b1, bad) := b.arriveAll team (fun l => (o.wa l).toNat) who
    if i.act == 0 then finish sh o fun c _ => c
    else if !who.isEmpty && !s.barReleased c cluster then waitHere
    else if !bad.isEmpty then raise o ILLOPND 0 (maskOf bad.contains)
    else if act == .arrive then do
      set (s.putBar t cluster b1).rewake
      finish sh o fun c _ => c
    else
      let b2 := b1.waitAll team (ls.map (·.2))
      if ls.all fun p => b2.passed team p.2 then do
        set ((s.putBar t cluster (ls.foldl (fun b p => b.dropRec team p.2) b2)).acquire c (barScope cluster)).rewake
        finish sh o fun c _ => c
      else do
        onlyIf (b2 != b) (set (s.putBar t cluster b2).rewake)
        waitHere

/-- The count operand. -/
def countShape (a : Src) : Shape := ⟨none, [useA a]⟩
/-- The A field of WAIT, which holds `zr`. -/
def zrShape : Shape := ⟨none, []⟩

/-- CBAR.arrive (R274). -/
def execCbarArrive (bar : BitVec 3) (a : Src) (s : State) : Host.Outcome State Fault Refusal :=
  Act.run (barrierOp true bar.toNat (countShape a) .arrive) s
/-- CBAR.wait (R274). -/
def execCbarWait (bar : BitVec 3) (_la _ka : Bool) (s : State) : Host.Outcome State Fault Refusal :=
  Act.run (barrierOp true bar.toNat zrShape .wait) s
/-- CBAR.sync (R274). -/
def execCbarSync (bar : BitVec 3) (a : Src) (s : State) : Host.Outcome State Fault Refusal :=
  Act.run (barrierOp true bar.toNat (countShape a) .sync) s
/-- TBAR.arrive (R274). -/
def execTbarArrive (bar : BitVec 4) (a : Src) (s : State) : Host.Outcome State Fault Refusal :=
  Act.run (barrierOp false bar.toNat (countShape a) .arrive) s
/-- TBAR.wait (R274). -/
def execTbarWait (bar : BitVec 4) (_la _ka : Bool) (s : State) : Host.Outcome State Fault Refusal :=
  Act.run (barrierOp false bar.toNat zrShape .wait) s
/-- TBAR.sync (R274). -/
def execTbarSync (bar : BitVec 4) (a : Src) (s : State) : Host.Outcome State Fault Refusal :=
  Act.run (barrierOp false bar.toNat (countShape a) .sync) s

end Sys2Proof.Machine
end

