-- ==== Sys2Proof/Machine/Cluster.lean ====
section
/-! DEFINITION. Operand queues (R254 to R256), matrix operations (R257 to R262), affine loops and channels (R263 to R267)
and drains (R268 to R271). -/

namespace Sys2Proof.Machine

/-! ## Words of an allocation -/

def State.scrSize (s : State) (team : Nat) : Nat := ((s.team? team).map (·.res.ssize)).getD 0

/-- `n` words of a team's scratchpad. -/
def State.scrWords (s : State) (team off n : Nat) : List Word :=
  (List.range n).map fun i => BitVec.ofNat 32 (leNat ((List.range 4).map fun j => s.scrByte team (off + 4 * i + j)))

def wd (l : List Word) (i : Nat) : Nat := (nth l i 0).toNat

/-- A check that must not hold, else a trap. -/
def deny (bad : Bool) (code : Nat) : Chk Unit := need (!bad) code

/-- Run the checks of an issue that acts for one lane: a trap is raised in the lane; with a fault the lane ends its
segment and the others go past the issue, or the crew waits in place (R22). -/
def settleOne {α : Type} (o : Opn) (lane : Nat) (c : Chk α) (sh : Shape := fenceShape) : Act α := do
  let i ← theIssue
  let crew ← theCrew
  let m : LaneMask := 1#64 <<< lane
  match c.served (((crew.lane lane).map (·.unres)).getD []) with
  | .ok x => pure x
  | .trap code arg => raise o code arg m
  | .fault key va host => do
    modify fun s => s.addFault key va host
    if mustStay crew i then do
      modCrew fun c => c.mapLanes m fun _ l => { l with faultOn := some key }
      waitHere
    else do
      modCrew fun c => c.endLanes m fun _ l => endAt c i.pc (.fault key) l.run
      setCur fun i => { i with s := i.s &&& ~~~m, act := i.act &&& ~~~m }
      if (i.s &&& ~~~m) == 0 then do
        modCrew fun c => c.noteSel i
        stop
      else do
        finish sh o fun c _ => c
        stop

/-! ## Queues -/

def queueBad (q : BitVec 2) (s : State) (c : Crew) (i : Issue) : Bool :=
  (s.team? (c.tileTeam i)).all fun t => t.res.nq ≤ q.toNat

def Team.queue (t : Team) (q : Nat) : List (List Word) := nth t.queues q []
def Team.setQueue (t : Team) (q : Nat) (l : List (List Word)) : Team := { t with queues := setNth t.queues q l }

/-- The checks of a PUSHQ source (R255). -/
def State.pushChk (s : State) (team off : Nat) : Chk Unit :=
  (deny (off % 16 != 0) MISALIGN).bind fun _ => deny (s.scrSize team < off + 256) PROT

def State.push (s : State) (team q off : Nat) : State :=
  (s.updTeam team fun t => t.setQueue q (t.queue q ++ [s.scrWords team off 64])).rewake

/-- PUSHQ (R255). -/
def execPushq (q : BitVec 2) (a : Src) (s : State) : Host.Outcome State Fault Refusal :=
  Act.run (do
    let sh : Shape := ⟨none, [useA a]⟩
    let o ← begin' sh (queueBad q) true false
    let i ← theIssue
    let c ← theCrew
    let s ← get
    let team := c.tileTeam i
    if i.act == 0 then finish sh o fun c _ => c
    else do
      settleOne o 0 (s.pushChk team (o.wa 0).toNat)
      if (s.team? team).any fun t => 64 ≤ (t.queue q.toNat).length then waitHere
      else do
        set (s.push team q.toNat (o.wa 0).toNat)
        finish sh o fun c _ => c) s

/-- POPQ (R256). -/
def execPopq (d : Rn) (q : BitVec 2) (s : State) : Host.Outcome State Fault Refusal :=
  Act.run (do
    let c ← theCrew
    let g := 64 / max c.width 1
    let sh : Shape := ⟨some (d, g), []⟩
    let o ← issueChecks sh (queueBad q) true false false (some [(d, g, 1)])
    let i ← theIssue
    let h := 0 < c.depthAt i.s
    if i.act == 0 then finish sh o fun c _ => c
    else do
      roomFor sh h false
      let s ← get
      let team := c.tileTeam i
      match (s.team? team).map (·.queue q.toNat) with
      | some (e :: rest) => do
        modify fun s => (s.updTeam team fun t => t.setQueue q.toNat rest).rewake
        finish sh o fun c i => (List.range g).foldl (fun c r =>
          c.writeName ((nameOf c.wb h d).plus r) i.act fun l => nth e (r * c.width + l) 0) c
      | _ => waitHere) s

/-! ## Operand descriptors (R257, R258) -/

/-- The place of word 0 of R257: the issuer's or a member's allocation, or each target's own. -/
structure OpLoc where
  own : Bool
  setIdx : Nat
  off : Nat
deriving DecidableEq, Repr

def opLoc (w : Nat) : OpLoc := ⟨bit w 27, bits w 24 3, bits w 0 24⟩

/-- The team whose allocation holds an operand for a target. -/
def State.opTeam (s : State) (issuer : Team) (target : Nat) (l : OpLoc) : Option Nat :=
  if l.own then some target else (s.member? issuer l.setIdx).map (·.uid)

/-- The bits of an element. -/
def mmaBits : MmaTy → Nat
  | .e4m3 | .e5m2 => 8
  | .bf16 | .f16 => 16
  | .e2m1 => 4
  | .f64 => 64

def mmabTy : MmabTy → MmaTy
  | .mx8e4 => .e4m3
  | .mx8e5 => .e5m2
  | .mx4 => .e2m1

def mmaFmt : MmaTy → Fmt
  | .e4m3 => e4m3
  | .e5m2 => e5m2
  | .bf16 => bf16
  | .f16 => fp16
  | .e2m1 => e2m1
  | .f64 => fp64

/-- Is an operand descriptor ill formed (R257, R260)? -/
def opReserved (d : List Word) (ty : MmaTy) : Bool :=
  let k := wd d 2 % 2 ^ 16
  bits (wd d 0) 28 4 != 0 || wd d 2 / 2 ^ 16 != 0 || wd d 3 != 0 || k % 32 != 0 || k < 32 || 4096 < k ||
  wd d 1 % 16 != 0 || wd d 1 < k * mmaBits ty / 8

/-- Is a scale descriptor ill formed (R258)? -/
def scReserved (d : List Word) (k : Nat) : Bool :=
  bits (wd d 0) 28 4 != 0 || bits (wd d 2) 28 4 != 0 || wd d 4 / 256 != 0 || wd d 5 != 0 || wd d 6 != 0 || wd d 7 != 0 ||
  wd d 1 < k / 32 || wd d 3 < k / 32

/-- What a matrix issue asks for: its tile and type, whether it accumulates, its descriptors as read, and its mask. -/
structure MmaAsk where
  tile : Nat
  ty : MmaTy
  scaled : Option MmabTy
  acc : Bool
  a : List Word
  b : List Word
  sc : List Word
  mask : Nat
deriving DecidableEq, Repr

/-- The target set of a mask (R259). -/
def State.targets (s : State) (t : Team) (mask : Nat) : List Nat :=
  if mask = 0 then [t.uid]
  else ((List.range 8).filter (bit mask)).filterMap fun k => (s.member? t k).map (·.uid)

/-- Is a mask bad (R260)? -/
def State.maskBad (s : State) (t : Team) (mask : Nat) : Bool :=
  let solo := (s.grid? t.grid).all fun g => (g.setOf t.index).isNone
  mask / 256 != 0 || (mask != 0 && solo) || (List.range 8).any fun k => bit mask k && (s.member? t k).isNone

/-- Does an operand of `rows` rows run past the allocation that holds it for a target? -/
def State.pastEnd (s : State) (t : Team) (target : Nat) (w stride rows len : Nat) : Bool :=
  let l := opLoc w
  match s.opTeam t target l with
  | none => true
  | some u => rows != 0 && s.scrSize u < l.off + (rows - 1) * stride + len

/-- M and N of a target's tile (R259). -/
def mnOf (ty : MmaTy) (x : Tile) : Nat × Nat := (x.rows, if ty = .f64 then x.cols / 2 else x.cols)

/-- The checks of a target's tile (R260). -/
def State.tileChk (s : State) (a : MmaAsk) (u : Nat) : Chk Unit :=
  match (s.team? u).bind (·.tile? a.tile) with
  | none => .trap TILE_UNCFG 0
  | some _ => .ok ()

def State.shapeChk (s : State) (a : MmaAsk) (u : Nat) : Chk Unit :=
  match (s.team? u).bind (·.tile? a.tile) with
  | none => .ok ()
  | some x => deny (x.ty != .f32 || (a.ty = .f64 && x.cols % 2 == 1)) ILLOPND

def State.extentChk (s : State) (t : Team) (a : MmaAsk) (u : Nat) : Chk Unit :=
  match (s.team? u).bind (·.tile? a.tile) with
  | none => .ok ()
  | some x =>
    let (m, n) := mnOf a.ty x
    let k := wd a.a 2 % 2 ^ 16
    let len := k * mmaBits a.ty / 8
    deny (s.pastEnd t u (wd a.a 0) (wd a.a 1) m len || s.pastEnd t u (wd a.b 0) (wd a.b 1) n len ||
      (a.scaled.isSome && (s.pastEnd t u (wd a.sc 0) (wd a.sc 1) m (k / 32) ||
        s.pastEnd t u (wd a.sc 2) (wd a.sc 3) n (k / 32)))) PROT

/-- The checks of R260 after those of the descriptors' places: `mis` is a misaligned descriptor offset, `past` a
descriptor past its allocation. -/
def State.mmaChk (s : State) (t : Team) (a : MmaAsk) (mis past : Bool) : Chk (List Nat) :=
  let locs := [wd a.a 0, wd a.b 0] ++ if a.scaled.isSome then [wd a.sc 0, wd a.sc 2] else []
  let ts := s.targets t a.mask
  (deny (s.maskBad t a.mask) ILLOPND).bind fun _ =>
  (deny (mis || locs.any fun w => (opLoc w).off % 16 != 0) MISALIGN).bind fun _ =>
  (deny (past || locs.any fun w => !(opLoc w).own && (s.member? t (opLoc w).setIdx).isNone) PROT).bind fun _ =>
  (deny (opReserved a.a a.ty || opReserved a.b a.ty || wd a.a 2 != wd a.b 2 ||
    (a.scaled.isSome && scReserved a.sc (wd a.a 2 % 2 ^ 16))) ILLOPND).bind fun _ =>
  (Chk.all (s.tileChk a) ts).bind fun _ =>
  (Chk.all (s.shapeChk a) ts).bind fun _ =>
  (Chk.all (s.extentChk t a) ts).bind fun _ => .ok ts

/-- Place an operation in the queue of every target (R262); false while one is full. -/
def State.queueMma (s : State) (c : Crew) (t : Team) (a : MmaAsk) (ts : List Nat) : Option State :=
  if ts.any fun u => 16 ≤ (s.eng.mxops.filter (·.target == u)).length then none
  else
    let id0 := s.clock.nextId
    let mk (i u : Nat) : MxOp :=
      let sh := ((s.team? u).bind (·.tile? a.tile)).map fun x => (x.rows, x.cols)
      ⟨id0 + i, t.uid, c.id, u, a.tile, a.ty, a.scaled, a.acc, a.a, a.b, a.sc, (sh.map (·.1)).getD 0, (sh.map (·.2)).getD 0⟩
    some { s with clock := { s.clock with nextId := id0 + ts.length },
                  eng := { s.eng with mxops := s.eng.mxops ++ ts.mapIdx mk } }

/-- MMA and MMAB (R259, R260, R262). -/
def matrixOp (tile : BitVec 8) (sh : Shape) (ask : State → Nat → Opn → MmaAsk) (scale : Bool) : Act Unit := do
  let o ← begin' sh (tileBad tile.toNat) true false
  let i ← theIssue
  let c ← theCrew
  let s ← get
  match i.act == 0, s.team? (c.tileTeam i) with
  | false, some t => do
    let size := t.res.ssize
    let a := ask s t.uid o
    let da := (o.wa 0).toNat
    let db := (o.wb 0).toNat
    let ds := (o.wc 0).toNat
    let mis := da % 16 != 0 || db % 16 != 0 || (scale && ds % 32 != 0)
    let past := size < da + 16 || size < db + 16 || (scale && size < ds + 32)
    let ts ← settleOne o 0 (s.mmaChk t a mis past)
    match s.queueMma c t a ts with
    | some s1 => do
      set s1
      finish sh o fun c _ => c
    | none => waitHere
  | _, _ => finish sh o fun c _ => c

/-- MMA (R259). -/
def execMma (tile : BitVec 8) (a b c : Src) (ty : MmaTy) (acc : Bool) (s : State) : Host.Outcome State Fault Refusal :=
  Act.run (matrixOp tile ⟨none, [useA a, useB b, useC c]⟩ (fun s u o =>
    ⟨tile.toNat, ty, none, acc, s.scrWords u (o.wa 0).toNat 4, s.scrWords u (o.wb 0).toNat 4, [], (o.wc 0).toNat⟩) false) s

/-- MMAB (R258, R259): the mask stands in the scale descriptor. -/
def execMmab (tile : BitVec 8) (a b c : Src) (ty : MmabTy) (acc : Bool) (s : State) : Host.Outcome State Fault Refusal :=
  Act.run (matrixOp tile ⟨none, [useA a, useB b, useC c]⟩ (fun s u o =>
    let sc := s.scrWords u (o.wc 0).toNat 8
    let there := (o.wc 0).toNat % 32 == 0 && (o.wc 0).toNat + 32 ≤ s.scrSize u
    ⟨tile.toNat, mmabTy ty, some ty, acc, s.scrWords u (o.wa 0).toNat 4, s.scrWords u (o.wb 0).toNat 4, sc,
      if there then wd sc 4 else 0⟩) true) s

/-! ## MATRIX_OP_PERFORM (R261, R262) -/

/-- Element `k` of a row of an operand. -/
def State.opElem (s : State) (team base : Nat) (ty : MmaTy) (k : Nat) : Val :=
  let n := mmaBits ty
  let byte (i : Nat) : Nat := (s.scrByte team (base + i)).toNat
  let raw := if n = 4 then byte (k / 2) / 16 ^ (k % 2) % 16
    else leNat ((List.range (n / 8)).map fun i => s.scrByte team (base + k * (n / 8) + i))
  decodeF (mmaFmt ty) raw

/-- The exact sum of the products of one group (R261). -/
def groupSum (xs ys : List Val) : Val :=
  let ps := (xs.zip ys).map fun p => mulV p.1 p.2
  if ps.any (·.2) then .nan false else (sumV .rne (ps.map (·.1))).1

/-- Scale by 2^(x − 127) twice; 0xFF makes a NaN (R130, R261). -/
def scaleV (v : Val) (xa xb : Nat) : Val :=
  if xa = 255 || xb = 255 then .nan false
  else
    match v with
    | .fin n m e => .fin n m (e + (xa : Int) - 127 + ((xb : Int) - 127))
    | v => v

/-- Round to the accumulator's format. -/
def accRound (f64 : Bool) (v : Val) : Nat := (roundTo (if f64 then fp64 else fp32) .rne false v).1

/-- The groups of an inner product, in ascending order of K (R261). -/
def accumulate (f64 : Bool) (gs : List Val) (acc : Option Nat) : Nat :=
  (gs.foldl (fun (a : Option Nat) s =>
    match a with
    | none => some (accRound f64 s)
    | some x => some (accRound f64 (sumV .rne [decodeF (if f64 then fp64 else fp32) x, s]).1)) acc).getD 0

/-- One element of a matrix operation. -/
def State.mxElem (s : State) (m : MxOp) (ta tb : Nat) (sa sb : Option Nat) (i j : Nat) (acc : Option Nat) : Nat :=
  let k := wd m.aDesc 2 % 2 ^ 16
  let rowA := (opLoc (wd m.aDesc 0)).off + i * wd m.aDesc 1
  let rowB := (opLoc (wd m.bDesc 0)).off + j * wd m.bDesc 1
  let gs := (List.range (k / 32)).map fun g =>
    let r := (List.range 32).map (32 * g + ·)
    let v := groupSum (r.map (s.opElem ta rowA m.ty)) (r.map (s.opElem tb rowB m.ty))
    match sa, sb with
    | some u, some w =>
      scaleV v (s.scrByte u ((opLoc (wd m.sDesc 0)).off + i * wd m.sDesc 1 + g)).toNat
        (s.scrByte w ((opLoc (wd m.sDesc 2)).off + j * wd m.sDesc 3 + g)).toNat
    | _, _ => v
  accumulate (m.ty = .f64) gs acc

/-- The tile after an operation (R261). -/
def State.mxTile (s : State) (m : MxOp) (x : Tile) (ta tb : Nat) (sa sb : Option Nat) : Tile :=
  let (mm, nn) := mnOf m.ty x
  let cells := (List.range mm).flatMap fun i => (List.range nn).map fun j => (i, j)
  (cells.foldl (fun y p =>
    let (i, j) := p
    if m.ty = .f64 then
      let old := (x.at i (2 * j)).toNat + 2 ^ 32 * (x.at i (2 * j + 1)).toNat
      let r := s.mxElem m ta tb sa sb i j (if m.acc then some old else none)
      (y.put i (2 * j) (BitVec.ofNat 32 r)).put i (2 * j + 1) (BitVec.ofNat 32 (r / 2 ^ 32))
    else y.put i j (BitVec.ofNat 32 (s.mxElem m ta tb sa sb i j (if m.acc then some (x.at i j).toNat else none)))) x).dirty

/-- May an operation be performed: is no earlier one of its context on its tile waiting (R262)? -/
def State.mxReady (s : State) (m : MxOp) : Bool :=
  match s.eng.mxops.find? fun q => q.crew == m.crew && q.target == m.target && q.tile == m.tile with
  | some q => q.id == m.id
  | none => false

/-- Perform a matrix operation; a tile that has changed its shape or type is not written (R262). -/
def State.mxPerform (s : State) (m : MxOp) : State :=
  let s1 := s.updEng fun e => { e with mxops := e.mxops.filter (·.id != m.id) }
  match s.team? m.target, s.team? m.issuer with
  | some t, some u =>
    match t.tile? m.tile, s.opTeam u m.target (opLoc (wd m.aDesc 0)), s.opTeam u m.target (opLoc (wd m.bDesc 0)) with
    | some x, some ta, some tb =>
      if x.rows = m.rows && x.cols = m.cols && x.ty = .f32 then
        let sa := if m.scaled.isSome then s.opTeam u m.target (opLoc (wd m.sDesc 0)) else none
        let sb := if m.scaled.isSome then s.opTeam u m.target (opLoc (wd m.sDesc 2)) else none
        s1.updTeam m.target fun t => t.putTile (s.mxTile m x ta tb sa sb)
      else s1
    | _, _, _ => s1
  | _, _ => s1

/-- MATRIX_OP_PERFORM (R261, R262). -/
def execMatrixOpPerform (team op : Nat) (s : State) : Host.Outcome State Fault Refusal :=
  .next (match s.eng.mxops.find? fun m => m.target == team && m.id == op with
    | some m => if s.mxReady m then (s.mxPerform m).rewake else s
    | none => s)

/-! ## LOOPA (R263 to R266) and CHANNEL_DELIVERY (R267) -/

/-- The index of level `l` in iteration `t`: level 0 is outermost (R265). -/
def loopIdx (d : List Word) (depth t l : Nat) : Nat :=
  let cnt (k : Nat) := wd d (16 + 4 * k) % 2 ^ 16 + 1
  let inner := ((List.range depth).filter (l < ·)).foldl (fun p k => p * cnt k) 1
  t / inner % cnt l

/-- The number of iterations. -/
def loopCount (d : List Word) (depth : Nat) : Nat :=
  (List.range depth).foldl (fun p k => p * (wd d (16 + 4 * k) % 2 ^ 16 + 1)) 1

/-- X0 or Y0 or Z0 and the strides of its levels, at an iteration, as an integer. -/
def loopVal (d : List Word) (depth t : Nat) (x0 : Nat) (off : Nat) : Int :=
  (List.range depth).foldl (fun v l => v + (loopIdx d depth t l : Int) * (nth d (16 + 4 * l + off) 0).toInt) (x0 : Int)

def loopX (d : List Word) (depth t : Nat) : Nat := (loopVal d depth t (wd d 2 + 2 ^ 32 * wd d 3) 1 % 2 ^ 64).toNat
def loopY (d : List Word) (depth t : Nat) : Nat := (loopVal d depth t (wd d 4) 2 % 2 ^ 32).toNat
def loopZ (d : List Word) (depth t : Nat) : Nat := (loopVal d depth t (wd d 5) 3 % 2 ^ 32).toNat

/-- Are the reserved bits of a loop descriptor not zero, or its action, LEN or queue bad (R264, R266)? -/
def loopBad (d : List Word) (depth nq : Nat) : Bool :=
  let w := wd d 0
  let act := bits w 0 4
  2 < act || bits w 24 8 != 0 || bit w 7 || ((List.range 7).any fun i => wd d (9 + i) != 0) ||
  ((List.range depth).any fun l => wd d (16 + 4 * l) / 2 ^ 16 != 0) ||
  (if act = 0 then wd d 1 % 16 != 0 || wd d 1 < 16 || 4096 < wd d 1 else wd d 1 != 0) ||
  (act = 1 && nq ≤ bits w 4 3) ||
  (act = 2 && (bits w 12 4 != 0 || 5 < bits w 8 3))

def mmaTyOf (n : Nat) : MmaTy := match n with
  | 0 => .e4m3
  | 1 => .e5m2
  | 2 => .bf16
  | 3 => .f16
  | 4 => .e2m1
  | _ => .f64

/-- The checks of LOOPA at issue (R266). -/
def State.loopChk (s : State) (t : Team) (off depth : Nat) : Chk (List Word) :=
  (deny (off % 64 != 0) MISALIGN).bind fun _ =>
  (deny (t.res.ssize < off + 64 + 16 * depth) PROT).bind fun _ =>
    let d := s.scrWords t.uid off (16 + 4 * depth)
    (deny (loopBad d depth t.res.nq) ILLOPND).bind fun _ =>
    (deny (bits (wd d 0) 0 4 = 0 && (wd d 4 % 16 != 0 || wd d 2 % 16 != 0)) MISALIGN).bind fun _ =>
    (deny (bits (wd d 0) 0 4 = 0 && t.res.ssize < wd d 4 + loopCount d depth * wd d 1) PROT).bind fun _ =>
      .ok (d ++ (List.replicate (48 - d.length) 0) ++ s.scrWords t.uid (wd d 6) 4 ++ s.scrWords t.uid (wd d 7) 4)

/-- A template with its OFFSET increased modulo 2^24 (R265). -/
def bumped (d : List Word) (y : Nat) : List Word :=
  let w := wd d 0
  setNth d 0 (BitVec.ofNat 32 (w / 2 ^ 24 * 2 ^ 24 + (w % 2 ^ 24 + y) % 2 ^ 24))

/-- The source pages of one iteration of a channel, 16 bytes at a time. -/
def State.chanSrc (s : State) (ctx x len : Nat) : Chk (List (Nat × Nat)) :=
  (deny (x % 16 != 0) MISALIGN).bind fun _ =>
    Chk.every ((List.range (len / 16)).map fun i =>
      (s.chkVa ctx ((x + 16 * i) % 2 ^ 64) Need.read).bind fun pa => .ok (pa, 16))

/-- What one iteration does. -/
inductive Iter where
  | ok (s : State)
  | full
  | bad (c : Chk Unit)

/-- The trap or fault of a check, with another type. -/
def Chk.why {α : Type} : Chk α → Chk Unit
  | .ok _ => .ok ()
  | .trap a b => .trap a b
  | .fault k v h => .fault k v h

/-- Start a transfer on a channel, opening it (R267). -/
def Team.startChan (t : Team) (k : Chan) : Team := { t with chans := putBy Chan.num k t.chans }

def Team.addSrc (t : Team) (ch : Nat) (l : List (Nat × Nat × Nat)) : Team :=
  { t with chans := t.chans.map fun k => if k.num = ch then { k with src := k.src ++ l } else k }

/-- The bytes still to deliver that the iterations have given. -/
def Chan.left (k : Chan) : Nat := (k.src.map (·.2.2)).sum

/-- Is the LOOPA of the channel's transfer still issuing its iterations? -/
def Chan.issuing (k : Chan) : Bool := k.done + k.left != k.total

/-- One iteration's bytes join the channel's transfer, at Y0 + t x LEN (R265); iteration 0, or the first of a LOOPA whose
handler changed t, starts it (log entry 119). -/
def Team.chanIter (t : Team) (d : List Word) (depth n : Nat) (l : List (Nat × Nat)) : Team :=
  let ch := bits (wd d 0) 4 3
  let at' := l.mapIdx fun i p => (wd d 4 + n * wd d 1 + 16 * i, p.1, p.2)
  if n != 0 && t.chans.any fun k => k.num == ch && k.issuing then t.addSrc ch at'
  else t.startChan ⟨ch, wd d 4, loopCount d depth * wd d 1, 0, at'⟩

/-- Every iteration of a LOOPA is issued: the transfer is what they gave. -/
def Team.endChan (t : Team) (ch : Nat) : Team :=
  { t with chans := t.chans.map fun k => if k.num = ch then { k with total := k.done + k.left } else k }

/-- Issue one iteration of a loop nest (R265). -/
def State.iterate (s : State) (c : Crew) (t : Team) (d : List Word) (depth n : Nat) : Iter :=
  let w := wd d 0
  match bits w 0 4 with
  | 0 =>
    match s.chanSrc c.ctx (loopX d depth n) (wd d 1) with
    | .ok l => .ok (s.updTeam t.uid fun t => t.chanIter d depth n l)
    | e => .bad e.why
  | 1 =>
    match s.pushChk t.uid (loopY d depth n) with
    | .ok _ =>
      if (s.team? t.uid).any fun t => 64 ≤ (t.queue (bits w 4 3)).length then .full
      else .ok (s.push t.uid (bits w 4 3) (loopY d depth n))
    | e => .bad e
  | _ =>
    let a : MmaAsk :=
      ⟨bits w 16 8, mmaTyOf (bits w 8 3), none, bit w 11 || n != 0, bumped ((d.drop 48).take 4) (loopY d depth n),
        bumped ((d.drop 52).take 4) (loopZ d depth n), [], wd d 8⟩
    let past := t.res.ssize < wd d 6 + 16 || t.res.ssize < wd d 7 + 16
    let mis := wd d 6 % 16 != 0 || wd d 7 % 16 != 0
    if t.res.ntiles ≤ a.tile then .bad (.trap ILLOPND 0)
    else
      match s.mmaChk t a mis past with
      | .ok ts =>
        match s.queueMma c t a ts with
        | some s1 => .ok s1
        | none => .full
      | e => .bad e.why

/-- Issue iterations from `n` on: the state, and where and why it stopped. -/
def State.iterateFrom (s : State) (c : Crew) (t : Team) (d : List Word) (depth : Nat) : (left n : Nat) →
    State × Nat × Option Iter
  | 0, n => (s, n, none)
  | k + 1, n =>
    match s.iterate c t d depth n with
    | .ok s1 => s1.iterateFrom c t d depth k (n + 1)
    | r => (s, n, some r)

/-- LOOPA (R263 to R266). Operand C of its entry holds the iteration that faulted. -/
def execLoopa (a : Src) (depth : BitVec 3) (s : State) : Host.Outcome State Fault Refusal :=
  Act.run (do
    let sh : Shape := ⟨none, [useA a]⟩
    let o ← begin' sh fine true false
    let i ← theIssue
    let c ← theCrew
    let s ← get
    let dep := depth.toNat + 1
    match i.act == 0, s.team? (c.tileTeam i) with
    | false, some t => do
      let d ← if c.pipe.stage = 0 then settleOne o 0 (s.loopChk t (o.wa 0).toNat dep) else pure c.pipe.desc
      let ch := bits (wd d 0) 4 3
      let n0 := if c.pipe.stage = 0 then (if i.entry.isSome then (o.fc 0).toNat else 0) else c.pipe.stage - 1
      let chan := bits (wd d 0) 0 4 = 0
      if chan && n0 = 0 && t.chans.any fun k => k.num == ch && !k.src.isEmpty then do
        modCrew fun c => { c with pipe := { c.pipe with desc := d } }
        waitStage (n0 + 1)
      else do
        let (s2, n, why) := s.iterateFrom c t d dep (loopCount d dep - n0) n0
        set s2
        match why with
        | none => do
          onlyIf chan (modify fun s => s.updTeam t.uid fun t => t.endChan ch)
          finish sh o fun c _ => c
        | some (.bad e) => do
          modCrew fun c => { c with pipe := { c.pipe with stage := n + 1, desc := d } }
          setCur fun i => { i with entry := i.entry.map fun e => { e with c := o.c.map fun _ => BitVec.ofNat 64 n } }
          settleOne { o with c := o.c.map fun _ => BitVec.ofNat 64 n } 0 e
        | some _ => do
          modCrew fun c => { c with pipe := { c.pipe with desc := d } }
          waitStage (n + 1)
    | _, _ => finish sh o fun c _ => c) s

/-- Deliver up to `n` bytes of a channel, in ascending order (R267). -/
def State.deliverChan (s : State) (team : Nat) (k : Chan) (n : Nat) : State :=
  let all := k.src.flatMap fun p => (List.range p.2.2).map fun j => (p.1 + j, p.2.1 + j)
  let now := all.take n
  if s.readsPoison team (now.map fun p => Place.mem p.2) then s.consume team
  else
    let bs := now.map fun p => (p.1, s.view team p.2)
    let s1 := s.scrPut team bs
    let rest := (all.drop n).map fun p => (p.1, p.2, 1)
    s1.updTeam team fun t => t.startChan { k with done := k.done + bs.length, src := rest }

/-- CHANNEL_DELIVERY (R267). -/
def execChannelDelivery (team ch bytes : Nat) (s : State) : Host.Outcome State Fault Refusal :=
  .next (match (s.team? team).bind fun t => t.chans.find? (·.num == ch) with
    | some k => if k.src.isEmpty then s else (s.deliverChan team k bytes).rewake
    | none => s)

/-! ## TDRAIN and DRAIN_APPLY (R268 to R271) -/

/-- The context's peer binding of a port (R396). -/
def State.bound (s : State) (ctx port : Nat) : Bool := (s.ctx? ctx).any fun c => c.d.peers.getLsbD port

/-- Is a target descriptor bad (R269)? -/
def State.targetBad (s : State) (ctx : Nat) (g : Grid) (v : Nat) : Bool :=
  1 < bits v 60 4 || bits v 40 16 != 0 || 11 < bits v 56 4 ||
  (bits v 60 4 = 1 && !s.bound ctx (bits v 56 4)) || g.lr.teams ≤ bits v 0 32

/-- TDRAIN (R268 to R271). -/
def execTdrain (tile : BitVec 8) (a b : Src) (seq : Bool) (s : State) : Host.Outcome State Fault Refusal :=
  Act.run (do
    let sh : Shape := ⟨none, useA a 2 :: (if seq then [useB b] else [])⟩
    let o ← begin' sh (tileBad tile.toNat) true false false lowRead
    waitTile tile.toNat
    let i ← theIssue
    let c ← theCrew
    let s ← get
    match lowest i.act, s.team? (c.tileTeam i), (s.team? (c.tileTeam i)).bind fun t => s.grid? t.grid with
    | some l, some t, some g => do
      let v := (o.fa l).toNat
      settleOne o l (deny (s.targetBad c.ctx g v) ILLOPND)
      let x ← match t.tile? tile.toNat with
        | some x => pure x
        | none => raise o TILE_UNCFG 0 (1#64 <<< l)
      settleOne o l (deny (x.ty != .f32) ILLOPND)
      if 16 ≤ (s.eng.drains.filter (·.issuer == t.uid)).length then waitHere
      else do
        let id ← newId
        let port := if bits v 60 4 = 1 then some (bits v 56 4) else none
        let d : Drain := ⟨id, t.uid, c.id, t.grid, port, none, bits v 0 32, bits v 32 8, x.rows, x.cols,
          if seq then some (o.wb l) else none, x.elems⟩
        onlyIf t.audit.replay.isNone (modify fun s =>
          match port with
          | some p => (s.updEng fun e => { e with drains := e.drains ++ [d] }).sendPeer p (some t.grid) (.drain id)
              (.drain c.ctx g.gid d.target d.tile d.rows d.cols d.seq (d.elems.mapIdx fun i w => (i, w)))
          | none => s.updEng fun e => { e with drains := e.drains ++ [d] })
        modify fun s => (s.clearRestart t.uid).exclude t.uid
        finish sh o fun c _ => c
    | _, _, _ => finish sh o fun c _ => c) s

/-- How a drain stands at its target (R270, R271). -/
inductive DrainNow where
  | held
  | gone
  | fail
  | apply (team : Nat) (x : Tile)

/-- Judge a drain into a tile of a team. -/
def drainTile (t : Team) (d : Drain) : DrainNow :=
  if t.mode == .saved then .held
  else
    match t.tile? d.tile with
    | none => .held
    | some x =>
      if x.ty != .f32 || x.rows != d.rows || x.cols != d.cols then .fail
      else
        match d.seq with
        | none => .apply t.uid x
        | some n =>
          if n == x.nextSeq then .apply t.uid { x with nextSeq := x.nextSeq + 1 }
          else if (n - x.nextSeq).toInt < 0 then .fail
          else .held

/-- Judge a drain: its target is held, gone, or there. -/
def State.drainNow (s : State) (d : Drain) : DrainNow :=
  match s.grid? d.grid with
  | none => .gone
  | some g =>
    if g.fin.isSome then .gone
    else if d.port.isSome || g.next ≤ d.target then .held
    else
      match s.sched.teams.find? fun t => t.grid == d.grid && t.index == d.target with
      | none => .fail
      | some t => if t.mode == .rolled || t.mode == .restarted then .held else drainTile t d

/-- Add the elements of a drain (R270). -/
def Tile.drained (x : Tile) (elems : List Word) : Tile :=
  { x with elems := (x.elems.zip elems).map fun p => (add32 memEnv p.1 p.2).1.truncate 32, st := 2 }

def State.dropDrain (s : State) (id : Nat) : State := s.updEng fun e => { e with drains := e.drains.filter (·.id != id) }

/-- Acknowledge a transfer of a peer, with the bytes that it answers (R405). -/
def State.acknowledge (s : State) (port seq : Nat) (ok : Bool) (cells : List Host.Cell) : State :=
  s.updPort port fun p => { p with acks := p.acks ++ [⟨seq, ok, cells⟩] }

/-- A drain from a peer is acknowledged once it is applied, or with the word that it could not be (R271, R405). -/
def State.ackDrain (s : State) (d : Drain) (ok : Bool) : State :=
  match d.far with
  | some (port, seq) => s.acknowledge port seq ok []
  | none => s

/-- DRAIN_APPLY (R270, R271): a drain that cannot be applied ends its grid with ILLOPND, grade G3; the grid of one that came
from a peer is there, and learns of it. -/
def execDrainApply (drain : Nat) (s : State) : Host.Outcome State Fault Refusal :=
  .next (match s.eng.drains.find? (·.id == drain) with
    | none => s
    | some d =>
      match s.drainNow d with
      | .held => s
      | .gone => (s.dropDrain drain).ackDrain d false
      | .fail =>
        if d.far.isSome then (s.dropDrain drain).ackDrain d false
        else (s.dropDrain drain).endGrid d.grid ⟨2, 0, 3, (causeWord 0 0 ILLOPND).toNat⟩
      | .apply u x =>
        ((((s.dropDrain drain).updTeam u fun t => t.putTile (x.drained d.elems)).clearRestart u).ackDrain d true).rewake)

end Sys2Proof.Machine
end

