-- ==== Sys2Proof/Machine/Control.lean ====
section
/-! DEFINITION. Branches (R110 to R112), AWAIT (R113 to R117), CTL (R118 to R124) and the special registers (R125 to
R127). -/

namespace Sys2Proof.Machine

/-! ## Branches -/

/-- The address of word 0 of an issue, behind its prefixes. -/
def Issue.word0 (i : Issue) : Nat := i.pc + 4 * i.raw.pfx.length

/-- The address of the next issue (R48). -/
def Issue.after (i : Issue) : Nat := i.pc + 4 * i.raw.len

/-- A branch after its other effects: the run ends and windows close in every issuing lane, and the lanes of ACTIVE
stand at their targets (R110 to R112). A re-injected branch moves the lanes whose youngest entry it is: they have no entry
left to re-inject, and their runs are those that the return restored (R187, log entry 105). -/
def Crew.branchTo (c : Crew) (i : Issue) (target : Nat → Nat) : Crew :=
  if i.entry.isSome then
    c.mapLanes (i.act &&& ~~~(c.pipe.reinj.foldl (fun m e => m ||| e.s) 0)) fun n l => { l with pc := target n }
  else
    ((c.mapLanes i.s fun _ l => { l with run := none }).closeWindows i.s).mapLanes i.act fun n l => { l with pc := target n }

def branch (sh : Shape) (o : Opn) (w : Crew → Issue → Crew) (target : Nat → Nat) : Act Unit := do
  let i ← theIssue
  finish sh o w
  modCrew fun c => c.branchTo i target

/-- The target of BRA and CALL (R110): the address is taken modulo 2^64, and one beyond 56 bits fails at its fetch. -/
def Issue.offTarget (i : Issue) (off : BitVec 25) : Nat := (((i.word0 : Int) + 4 * off.toInt) % 2 ^ 64).toNat

/-- The link pair (R110). -/
def linkShape (srcs : List Use) : Shape := ⟨some (.win 110, 2), srcs⟩

/-- BRA (R110). -/
def execBra (off : BitVec 25) (s : State) : Host.Outcome State Fault Refusal :=
  Act.run (do
    let o ← begin' fenceShape fine false false
    let i ← theIssue
    branch fenceShape o (fun c _ => c) fun _ => i.offTarget off) s

/-- CALL (R110). -/
def execCall (off : BitVec 25) (s : State) : Host.Outcome State Fault Refusal :=
  Act.run (do
    let sh := linkShape []
    let o ← begin' sh fine false false
    let i ← theIssue
    branch sh o (fun c i => c.writeDst i sh fun _ => BitVec.ofNat 64 i.after) fun _ => i.offTarget off) s

/-- The checks of a JMPX target (R111). -/
def jumpChk (va : Nat) : Chk Unit := (deny (va % 4 != 0) MISALIGN).bind fun _ => deny (2 ^ 56 ≤ va) PROT

/-- JMP, CALLI and RET (R111). -/
def jumpTo (a : Src) (link : Bool) : Act Unit := do
  let sh : Shape := ⟨if link then some (.win 110, 2) else none, [useA a 2]⟩
  let o ← begin' sh fine false false
  let _ ← settle o fun _ n => jumpChk (o.fa n).toNat
  branch sh o (fun c i => c.writeDst i sh fun _ => BitVec.ofNat 64 i.after) fun n => (o.fa n).toNat

/-- JMP (R111). -/
def execJmp (a : Src) (s : State) : Host.Outcome State Fault Refusal := Act.run (jumpTo a false) s
/-- CALLI (R111). -/
def execCalli (a : Src) (s : State) : Host.Outcome State Fault Refusal := Act.run (jumpTo a true) s
/-- RET (R111): differs from JMP as a hint alone. -/
def execRet (a : Src) (s : State) : Host.Outcome State Fault Refusal := Act.run (jumpTo a false) s

/-! ## Segment ends -/

/-- The lanes of ACTIVE end their segments behind the issue (R20, R114, R120, R121); the others go on. -/
def endBehind (sh : Shape) (o : Opn) (tl : Bool) (w : Nat → Wait) (fwd : Option FwdTarget := none)
    (exit : Bool := false) : Act Unit := do
  let i ← theIssue
  finish sh o fun c _ => c
  modCrew fun c => c.endLanes i.act fun n l => ⟨l.pc, c.wb, l.run, w n, tl, fwd, exit, none⟩

/-- AWAIT.tok (R113, R117). -/
def execAwaitTok (mask : BitVec 8) (tl : Bool) (s : State) : Host.Outcome State Fault Refusal :=
  Act.run (do
    let o ← begin' fenceShape fine true false
    endBehind fenceShape o tl fun _ => .token mask) s

/-- The checks of the address of AWAIT kinds 2 and 3 (R115). -/
def State.watchChk (s : State) (ctx va : Nat) : Chk Nat :=
  (deny (va % 4 != 0) MISALIGN).bind fun _ =>
    if va / 2 ^ 56 = 0 then s.chkVa ctx va Need.read
    else if (va / 2 ^ 56 != 0xFE && va / 2 ^ 56 != 0xFD) || bits va 32 24 != 0 then .trap PROT 0
    else .trap ILLOPND 0

/-- AWAIT on a word of global memory (R115). -/
def awaitMem (a b : Src) (tl : Bool) (w : Nat → Nat → Word → Wait) : Act Unit := do
  let sh : Shape := ⟨none, [useA a 2, useB b]⟩
  let o ← begin' sh fine true false
  let s ← get
  let c ← theCrew
  let ls ← settle o fun _ n => s.watchChk c.ctx (o.fa n).toNat
  endBehind sh o tl fun n => w (o.fa n).toNat ((ls.lookup n).getD 0) (o.wb n)

/-- AWAIT.word (R115). -/
def execAwaitWord (a b : Src) (cc : ICond) (n tl : Bool) (s : State) : Host.Outcome State Fault Refusal :=
  Act.run (awaitMem a b tl fun va pa v => .word va pa cc n v) s
/-- AWAIT.ctr (R115). -/
def execAwaitCtr (a b : Src) (tl : Bool) (s : State) : Host.Outcome State Fault Refusal :=
  Act.run (awaitMem a b tl fun va pa v => .counter va pa v) s

/-- The die that AWAIT.phase names: all of the context, or one (R116). -/
def State.phaseDie (s : State) (ctx : Nat) (a : Word) : Chk (Option Nat) :=
  if a == 0xFFFFFFFF then .ok none
  else
    match (s.ctx? ctx).bind fun c => c.d.vdie a.toNat with
    | some p => .ok (some p)
    | none => .trap ILLOPND 0

/-- AWAIT.phase (R116). -/
def execAwaitPhase (a b : Src) (dom : BitVec 4) (tl : Bool) (s : State) : Host.Outcome State Fault Refusal :=
  Act.run (do
    let sh : Shape := ⟨none, [useA a, useB b]⟩
    let o ← begin' sh fine true false
    let s ← get
    let c ← theCrew
    let ls ← settle o fun _ n => s.phaseDie c.ctx (o.wa n)
    endBehind sh o tl fun n => .phase ((ls.lookup n).getD none) dom.toNat (o.wb n)) s

/-- AWAIT on a barrier (R117): the lanes are recorded as waiters, as by WAIT (R274). -/
def awaitBar (cluster : Bool) (n : Nat) (tl : Bool) : Act Unit := do
  let o ← begin' fenceShape fine true false
  let i ← theIssue
  let c ← theCrew
  let s ← get
  let team := c.tileTeam i
  match s.team? team with
  | none => finish fenceShape o fun c _ => c
  | some t => do
    let b := s.bar t cluster n
    let ls := c.arrivers i.act
    let gen (l : Nat) : Word := b.waitGen team ((ls.lookup l).getD none)
    onlyIf (i.act != 0) (set (s.putBar t cluster (b.waitAll team (ls.map (·.2)))))
    endBehind fenceShape o tl fun l => if cluster then .cbar n (gen l) else .tbar n (gen l)

/-- AWAIT.tbar (R117). -/
def execAwaitTbar (bar : BitVec 4) (tl : Bool) (s : State) : Host.Outcome State Fault Refusal :=
  Act.run (awaitBar false bar.toNat tl) s
/-- AWAIT.cbar (R117). -/
def execAwaitCbar (bar : BitVec 3) (tl : Bool) (s : State) : Host.Outcome State Fault Refusal :=
  Act.run (awaitBar true bar.toNat tl) s

/-! ## CTL -/

/-- WIN traps where not every lane of ELIG issues or the guard differs between lanes (R119); with its guard false in every
lane it has no effect. -/
def winBad (i : Issue) : Bool := i.act != 0 && (i.s != i.elig || i.act != i.s)

/-- WIN (R119): `wb` is in units of 16. -/
def execWin (wb : Nat) (s : State) : Host.Outcome State Fault Refusal :=
  Act.run (do
    let o ← begin' fenceShape fine false false
    let i ← theIssue
    if winBad i then raise o ILLOPND 0 i.act
    else finish fenceShape o fun c i => if i.act == 0 then c else { c with wb := 16 * wb }) s

/-- EXIT (R120). -/
def execExit (s : State) : Host.Outcome State Fault Refusal :=
  Act.run (do
    let o ← begin' fenceShape fine true false
    endBehind fenceShape o false (fun _ => .none) none true) s

/-- YIELD (R121). -/
def execYield (tl : Bool) (s : State) : Host.Outcome State Fault Refusal :=
  Act.run (do
    let o ← begin' fenceShape fine true false
    endBehind fenceShape o tl fun _ => .none) s

/-- Does the target word of a FWD trap (R43)? A PORT that is not bound does so only in a context with no peer binding at all (log
entry 115). -/
def fwdBad (cx : Ctx) (w : Nat) : Bool :=
  let kind := bits w 28 4
  3 < kind || bits w 8 16 != 0 || 11 < bits w 24 4 || (kind != 3 && (cx.d.vdie (bits w 5 3)).isNone) ||
  (kind = 3 && cx.d.peers == 0)

/-- Does a team belong to a set of more than one team (R18, R43)? -/
def State.inTeamSet (s : State) (team : Nat) : Bool :=
  (s.team? team).any fun t => (s.grid? t.grid).any fun g => (g.setOf t.index).isSome

/-- The lanes in which a FWD traps: all of ACTIVE for its target word, those whose teams belong to a set for a team-local one
(R43, R89). -/
def State.fwdTraps (s : State) (c : Crew) (act : LaneMask) (cx : Ctx) (w : Nat) (tl : Bool) : LaneMask :=
  if fwdBad cx w then act
  else if tl then maskOf fun n => has act n && s.inTeamSet (c.teamOf n)
  else 0

/-- The physical target of a FWD (R42). -/
def fwdTarget (cx : Ctx) (w : Nat) : FwdTarget :=
  let die := (cx.d.vdie (bits w 5 3)).getD 0
  match bits w 28 4 with
  | 0 => .die die
  | 1 => .cluster (4 * die + bits w 3 2)
  | 2 => .core (32 * die + 8 * bits w 3 2 + bits w 0 3)
  | _ => .peer (bits w 24 4)

/-- FWD (R42 to R45, R121): a team-local one moves the whole team of each lane, and a team's first one names its target. -/
def execFwd (a : Src) (tl : Bool) (s : State) : Host.Outcome State Fault Refusal :=
  Act.run (do
    let sh : Shape := ⟨none, [useA a]⟩
    let o ← begin' sh fine true false false lowRead
    let i ← theIssue
    let c ← theCrew
    let s ← get
    match lowest i.act, s.ctx? c.ctx with
    | some l, some cx => do
      let w := (o.wa l).toNat
      let m := s.fwdTraps c i.act cx w tl
      if m != 0 then raise o ILLOPND 0 m
      else do
        onlyIf tl <| modify fun s => (c.teamsIn i.act).foldl (fun s u => s.updTeam u fun t =>
          { t with fwdTo := t.fwdTo.orElse fun _ => some (fwdTarget cx w) }) s
        endBehind sh o tl (fun _ => .none) (some (fwdTarget cx w))
    | _, _ => finish sh o fun c _ => c) s

/-- PREOFF and PREON (R122). -/
def preemption (off : Bool) : Act Unit := do
  let o ← begin' fenceShape fine false false
  finish fenceShape o fun c i => c.mapLanes i.act fun _ l => { l with preoff := off }

/-- PREOFF (R122). -/
def execPreoff (s : State) : Host.Outcome State Fault Refusal := Act.run (preemption true) s
/-- PREON (R122). -/
def execPreon (s : State) : Host.Outcome State Fault Refusal := Act.run (preemption false) s

/-- VDID (R123). -/
def execVdid (d : Rn) (s : State) : Host.Outcome State Fault Refusal :=
  Act.run (do
    let sh : Shape := ⟨some (d, 1), []⟩
    let o ← begin' sh fine false false
    let s ← get
    finish sh o fun c i => c.writeDst i sh fun _ =>
      BitVec.ofNat 64 (((s.ctx? c.ctx).map fun x => x.d.virt (dieOf c.core)).getD 0)) s

/-- The distance of two virtual dies (R123, R339). -/
def CtxDesc.hops (d : CtxDesc) (a b : Nat) : Word :=
  match d.vdie a, d.vdie b with
  | some p, some q =>
    if a = b then 0
    else
      let x := baseOfDie p
      let y := baseOfDie q
      let g := max x y - min x y
      BitVec.ofNat 32 (min g (4 - g) + 1)
  | _, _ => 0xFFFFFFFF

/-- VDHOPS (R123). -/
def execVdhops (d : Rn) (a b : Src) (s : State) : Host.Outcome State Fault Refusal :=
  Act.run (do
    let sh : Shape := ⟨some (d, 1), [useA a, useB b]⟩
    let o ← begin' sh fine false false
    let s ← get
    finish sh o fun c i => c.writeDst i sh fun n =>
      zx (((s.ctx? c.ctx).map fun (x : Ctx) => x.d.hops (o.wa n).toNat (o.wb n).toNat).getD 0xFFFFFFFF)) s

/-- The clock that a crew reads: its core's, or its cluster's Cox clock (R124, R253). -/
def Crew.clockNo (c : Crew) : Nat := if c.cox.isSome then 1000 + clusterOf c.core else c.core

/-- Cycles counted from `start` over some units of model time (log entry 4). -/
def cyclesOver (clock start : Nat) : Nat → Nat
  | 0 => 0
  | n + 1 => cyclesOver clock start n + Config.cycles clock (start + n)

/-- The cycle counter of a crew's clock (R124). -/
def State.cycles (s : State) (c : Crew) : DWord :=
  BitVec.ofNat 64 (cyclesOver c.clockNo s.clock.start (s.clock.time - s.clock.start))

/-- CYC (R124). -/
def execCyc (d : Rn) (s : State) : Host.Outcome State Fault Refusal :=
  Act.run (do
    let sh : Shape := ⟨some (d, 2), []⟩
    let o ← begin' sh fine false false
    let s ← get
    finish sh o fun c i => c.writeDst i sh fun _ => s.cycles c) s

/-! ## Special registers -/

/-- Coordinate `k` of a linear index with the given extents (R15). -/
def coord (i dx dy k : Nat) : Nat :=
  match k with
  | 0 => i % dx
  | 1 => i / dx % dy
  | _ => i / dx / dy

/-- The team of a lane and its grid. -/
def State.placeOf (s : State) (c : Crew) (lane : Nat) : Option (Team × Grid) :=
  (s.team? (c.teamOf lane)).bind fun t => (s.grid? t.grid).map fun g => (t, g)

/-- The identity registers 0x00 to 0x0D (R127). -/
def identity (c : Crew) (l : Lane) (t : Team) (g : Grid) (sel : Nat) : Nat :=
  let r := g.lr
  if sel < 3 then (if c.cox.isSome then 0 else coord l.idx r.tx r.ty sel)
  else if sel < 6 then coord t.index r.gx r.gy (sel - 3)
  else if sel < 9 then nth [r.gx, r.gy, r.gz] (sel - 6) 0
  else if sel < 12 then nth [r.tx, r.ty, r.tz] (sel - 9) 0
  else if sel = 12 then c.width
  else g.setIdx t.index

/-- The guarded run that the current level interrupted in a lane, at its place in TRAPMASK (R177). -/
def runField (l : Lane) : Nat :=
  match l.saves.head?.bind (·.run) with
  | some r => r.left * 2 ^ 11 + b1 r.neg * 2 ^ 10 + r.pred * 2 ^ 4
  | none => 0

/-- TRAPMASK of a lane (R177). -/
def trapMask (c : Crew) (l : Lane) : Nat :=
  b1 c.lv.cur.masked * 2 ^ 15 + b1 c.lv.cur.pmasked * 2 ^ 14 + runField l + b1 c.bkpten * 2 + b1 c.poisonEn

/-- EMUDEPTH (R177). -/
def emuDepth (c : Crew) (depth : Nat) : Nat := b1 c.lv.k2 * 8 + b1 c.lv.k1 * 4 + depth

/-- POISONST (R60). -/
def poisonStWord (p : PoisonSt) : Nat := b1 p.valid * 2 ^ 15 + p.field * 2 ^ 8 + b1 p.st

/-- What SRR reads in a lane (R60, R72, R126, R127, R132, R177, R332). -/
def State.srValue (s : State) (c : Crew) (l : Lane) (n sel : Nat) : DWord :=
  let f := c.lv.cur
  let ctx : Option Ctx := s.ctx? c.ctx
  match sel with
  | 0x0E => BitVec.ofNat 64 (c.core % 8)
  | 0x0F => BitVec.ofNat 64 (clusterOf c.core % 4)
  | 0x10 => BitVec.ofNat 64 ((ctx.map fun x => x.d.virt (dieOf c.core)).getD 0)
  | 0x11 => BitVec.ofNat 64 c.ctx
  | 0x12 => zx (wordOf (s.cycles c) 0)
  | 0x13 => zx (c.cych.getD (wordOf (s.cycles c) 1))
  | 0x14 => BitVec.ofNat 64 c.wb
  | 0x15 => zx c.fpcr
  | 0x16 => zx c.memdef
  | 0x17 => BitVec.ofNat 64 (trapMask c l)
  | 0x18 => zx f.cause
  | 0x19 => f.trappc
  | 0x1A => f.emask
  | 0x1B => zx f.eop
  | 0x1C => zx f.efields
  | 0x1D => zx f.eimm
  | 0x1E => zx f.epfx
  | 0x1F => f.epc
  | 0x20 => BitVec.ofNat 64 (poisonStWord l.poison)
  | 0x21 => BitVec.ofNat 64 l.dom
  | 0x22 => zx ((ctx.map fun x => x.pnAt (baseOfDie (dieOf c.core)) l.dom).getD 0)
  | 0x23 => BitVec.ofNat 64 (b1 ((s.team? (c.teamOf n)).any (·.restart)))
  | 0x24 => BitVec.ofNat 64 f.rpq.length
  | 0x25 => BitVec.ofNat 64 (emuDepth c l.depth)
  | _ =>
    match s.placeOf c n with
    | some (t, g) => BitVec.ofNat 64 (identity c l t g sel)
    | none => 0

/-- The registers of 64 bits (R125). -/
def wideSel (sel : Nat) : Bool := sel == 0x19 || sel == 0x1A || sel == 0x1F

/-- Does an earlier FSPEC or FDIV of the crew still run (R133)? -/
def Crew.fpBusy (c : Crew) : Bool := c.pipe.inflight.any fun o => !o.done && match o.instr with
  | .fspec .. | .fdiv .. => true
  | _ => false

/-- SRR (R125, R126). -/
def execSrr (d : Rn) (reg : Nat) (s : State) : Host.Outcome State Fault Refusal :=
  Act.run (do
    let sh : Shape := ⟨some (d, if wideSel reg then 2 else 1), []⟩
    let o ← begin' sh fine false false
    let c ← theCrew
    let s ← get
    if reg = 0x15 && c.fpBusy then waitHere
    else
      finish sh o fun c i =>
        let c1 := c.writeDst i sh fun n => ((c.lane n).map fun l => s.srValue c l n reg).getD 0
        if reg = 0x12 && i.act != 0 then { c1 with cych := some (wordOf (s.cycles c) 1) } else c1) s

/-- The writable registers (R126). -/
def srwOk (sel : Nat) : Bool := sel == 0x15 || sel == 0x16 || sel == 0x17 || sel == 0x20 || sel == 0x21

/-- A write of MEMDEF (R72): a SPACE of 7 leaves that field. -/
def memdefWrite (old v : Word) : Word :=
  let m : Word := if bits v.toNat 16 3 = 7 then 0x0078C00F else 0x007FC00F
  (old &&& ~~~m) ||| (v &&& m)

/-- SRW of a crew register (R72, R132, R177). -/
def Crew.srw (c : Crew) (sel : Nat) (v : Word) : Crew :=
  match sel with
  | 0x15 => { c with fpcr := fpcrWrite c.fpcr v }
  | 0x16 => { c with memdef := memdefWrite c.memdef v }
  | 0x17 => { c with bkpten := v.getLsbD 1, poisonEn := v.getLsbD 0 }
  | _ => c

/-- SRW of a thread register (R60, R332). -/
def Lane.srw (l : Lane) (sel : Nat) (v : Word) : Lane :=
  match sel with
  | 0x20 => if v.getLsbD 0 then { l with poison := ⟨false, false, 0⟩ } else l
  | 0x21 => { l with dom := v.toNat % 16 }
  | _ => l

/-- SRW (R125): crew registers take the value of the lowest lane of ACTIVE, and that lane alone reads the source (log entry
106). -/
def execSrw (reg : Nat) (a : Src) (s : State) : Host.Outcome State Fault Refusal :=
  Act.run (do
    let sh : Shape := ⟨none, [useA a]⟩
    let crewReg := reg == 0x15 || reg == 0x16 || reg == 0x17
    let o ← begin' sh (fun _ _ _ => !srwOk reg) (reg == 0x17) false false (if crewReg then lowRead else allRead)
    finish sh o fun c i =>
      match lowest i.act with
      | some n => (c.srw reg (o.wa n)).mapLanes i.act fun n l => l.srw reg (o.wa n)
      | none => c) s

end Sys2Proof.Machine
end

