-- ==== Sys2Proof/Machine/Traps.lean ====
section
/-! DEFINITION. The TRAPS instructions (R183 to R192), and the delivery of traps and emulation entries (R180, R181,
R191). -/

namespace Sys2Proof.Machine

/-! ## TRAP and BKPT -/

/-- TRAP (R185). -/
def execTrap (code : BitVec 7) (s : State) : Host.Outcome State Fault Refusal :=
  Act.run (do
    let o ← begin' fenceShape fine true false
    let i ← theIssue
    if i.act == 0 then finish fenceShape o fun c _ => c else raise o TRAPI code.toNat i.act none false) s

/-- BKPT (R185). -/
def execBkpt (s : State) : Host.Outcome State Fault Refusal :=
  Act.run (do
    let o ← begin' fenceShape fine true false
    let i ← theIssue
    let c ← theCrew
    if i.act == 0 || !c.bkpten then finish fenceShape o fun c _ => c else raise o BKPTC 0 i.act none false) s

/-! ## Leaving a level -/

/-- Is the level of the issue's lanes an emulation level? -/
def Crew.emulLevel (c : Crew) (depth : Nat) : Bool := if depth = 1 then c.lv.k1 else c.lv.k2

/-- Does an instruction that acts on a level trap where it stands (R183)? -/
def levelBad (emul : Bool) (c : Crew) (i : Issue) : Bool :=
  let d := c.depthAt i.s
  d == 0 || c.emulLevel d != emul || i.s != i.elig

/-- Write `h0` to `h15` of some lanes. -/
def Crew.setH (c : Crew) (m : LaneMask) (f : Nat → Nat → Word × Bool) : Crew := { c with hregs := c.enterH m f }

/-- Leave the current level for the lanes `m` (R187, R192): the frame below, the handler registers, the runs and R19's
state come back, and each lane stands at `pc`. At depth 0 there is no frame, and its queue is empty (log entry 108). -/
def Crew.leave (c : Crew) (m : LaneMask) (pc : LaneSave → Nat) : Crew :=
  let d := c.depthAt m
  let f := c.lv.cur
  let h (n l : Nat) : Word × Bool := if d = 2 then nth (((c.lane l).map (·.hsave)).getD []) n (0, false) else (0, false)
  let c1 := (c.setH m h).mapLanes m fun _ l =>
    match l.saves with
    | v :: vs => { l with depth := l.depth - 1, saves := vs, run := v.run, pc := pc v, hsave := if d = 2 then [] else l.hsave }
    | [] => { l with depth := l.depth - 1 }
  let below : Frame := if d = 2 then c.lv.saved.getD f else { f with masked := f.pmasked, rpq := [] }
  { c1 with
    sel := ⟨f.yielded, f.last, f.n⟩,
    lv := { cur := below, saved := none, k1 := if d = 2 then c.lv.k1 else false, k2 := false } }

/-- Wait until everything that the crew has issued is complete. -/
def waitAllDone : Act Unit := do
  let c ← theCrew
  if c.pipe.inflight.any fun o => !o.done then waitHere else pure ()

/-- RTE (R187): the replay queue of the level is re-injected by the next steps of the crew. -/
def execRte (s : State) : Host.Outcome State Fault Refusal :=
  Act.run (do
    let o ← begin' fenceShape (fun _ c i => levelBad false c i) true false
    waitAllDone
    let i ← theIssue
    let c ← theCrew
    let q := c.lv.cur.rpq
    finish fenceShape o fun c _ => c
    onlyIf (i.act != 0) <| modCrew fun c =>
      let d := c.leave i.s (·.pc)
      { d with pipe := { d.pipe with reinj := q } }) s

/-- Write a register with its tag in some lanes (R190, R192). -/
def Crew.copyName (c : Crew) (nm : Name) (m : LaneMask) (f : Nat → Word × Bool) : Crew :=
  let c1 := c.writeName nm m fun l => (f l).1
  let t : LaneMask := m &&& maskOf fun l => (f l).2
  match nm with
  | .v n => { c1 with regs := c1.regs.map fun r => if r.name = n then { r with tags := r.tags ||| t } else r }
  | .h n => { c1 with hregs := c1.hregs.map fun r => if r.name = n then { r with tags := r.tags ||| t } else r }
  | .s n =>
    match lowest m with
    | some l => { c1 with scal := setNth c1.scal n ⟨(f l).1, (f l).2⟩ }
    | none => c1
  | _ => c1

/-- The register name of a destination field; none for 125 to 127. -/
def destName (f : Nat) : Option Rn :=
  if f < 112 then some (.win f) else if f < 124 then some (.sc (f - 112)) else if f = 124 then some .zr else none

/-- EMRET (R192). -/
def execEmret (n : Nat) (s : State) : Host.Outcome State Fault Refusal :=
  Act.run (do
    let i ← theIssue
    let c ← theCrew
    let d := c.depthAt i.s
    let f := bits c.lv.cur.efields.toNat 24 7
    let rn := destName f
    let kernel := d ≤ 1
    let sh : Shape := ⟨if n = 0 then none else rn.map fun r => (r, n), []⟩
    let gs := if levelBad true c i then [] else sh.dst.toList.map fun x => (x.1, n, if n = 2 then 2 else if n < 2 then 1 else 4)
    let o ← issueChecks sh (fun _ c i => levelBad true c i || (0 < n && rn.isNone)) true false kernel (some gs)
    waitAllDone
    roomFor sh (!kernel) false
    let fr := c.lv.cur
    let m := fr.emask &&& i.s
    let hv (k l : Nat) : Word × Bool :=
      match c.hregs.find? (·.name == k) with
      | some r => (nth r.vals l 0, has r.tags l)
      | none => (0, false)
    finish fenceShape o fun c _ => c
    onlyIf (i.act != 0) <| modCrew fun c =>
      let e := c.leave i.s fun _ => fr.epc.toNat + 4 * fr.elen
      match sh.dst with
      | some (r, w) =>
        let nm := nameOf e.wb (!kernel) r
        (List.range w).foldl (fun e k => e.copyName (nm.plus k) m (hv k)) e
      | none => e) s

/-! ## The replay queue (R186) -/

/-- An instruction that needs handler mode (R183). -/
def needHandler : State → Crew → Issue → Bool := fun _ c i => c.depthAt i.s == 0

def selItem (v : Nat) : Nat := bits v 4 4
def selEntry (v : Nat) : Nat := bits v 0 4

/-- Does a selector name nothing (R186)? -/
def selBad (q : List Entry) (v : Nat) : Bool := v / 256 != 0 || 12 ≤ selItem v || q.length ≤ selEntry v

/-- An item of an entry in a lane (R186). -/
def Entry.item (e : Entry) (item lane : Nat) : Word :=
  match item with
  | 0 => BitVec.ofNat 32 e.w0
  | 1 => BitVec.ofNat 32 (e.w1.getD 0)
  | 2 => BitVec.ofNat 32 (e.lit.getD 0)
  | 3 => BitVec.ofNat 32 e.grdW
  | 4 => BitVec.ofNat 32 e.preW
  | 5 => if has e.part lane then 1 else 0
  | 6 => wordOf (nth e.a lane 0) 0
  | 7 => wordOf (nth e.a lane 0) 1
  | 8 => wordOf (nth e.b lane 0) 0
  | 9 => wordOf (nth e.b lane 0) 1
  | 10 => wordOf (nth e.c lane 0) 0
  | _ => wordOf (nth e.c lane 0) 1

/-- Item 0 to 4 written. A word that the issue does not have stays absent. -/
def Entry.setWord (e : Entry) (item : Nat) (v : Word) : Entry :=
  match item with
  | 0 => { e with w0 := v.toNat, written := true }
  | 1 => { e with w1 := e.w1.map fun _ => v.toNat, written := true }
  | 2 => { e with lit := e.lit.map fun _ => v.toNat, written := true }
  | 3 => { e with grdW := v.toNat, written := true }
  | _ => { e with preW := v.toNat, written := true }

/-- Which words an entry's issue has (R186, R191). -/
def Entry.present (e : Entry) : Bool × Bool × Bool × Bool :=
  (e.grdW != 0, e.preW != 0, isX (fOp e.w0), needLit e.w0 (e.w1.getD 0))

/-- One half of a captured operand written in a lane. -/
def setHalf (l : List DWord) (lane : Nat) (hi : Bool) (v : Word) : List DWord :=
  let x := nth l lane 0
  setNth l lane (if hi then dword (wordOf x 0) v else dword v (wordOf x 1))

/-- Item 5 to 11 written in a lane. -/
def Entry.setLane (e : Entry) (item lane : Nat) (v : Word) : Entry :=
  match item with
  | 5 => { e with part := if v.getLsbD 0 then e.part ||| (1#64 <<< lane) else e.part &&& ~~~(1#64 <<< lane) }
  | 6 => { e with a := setHalf e.a lane false v }
  | 7 => { e with a := setHalf e.a lane true v }
  | 8 => { e with b := setHalf e.b lane false v }
  | 9 => { e with b := setHalf e.b lane true v }
  | 10 => { e with c := setHalf e.c lane false v }
  | _ => { e with c := setHalf e.c lane true v }

/-- RPQR (R186). -/
def execRpqr (d : Rn) (a : Src) (s : State) : Host.Outcome State Fault Refusal :=
  Act.run (do
    let sh : Shape := ⟨some (d, 1), [useA a]⟩
    let o ← begin' sh needHandler false false
    let c ← theCrew
    let q := c.lv.cur.rpq
    let _ ← settle o fun _ n => deny (selBad q (o.wa n).toNat) ILLOPND
    finish sh o fun c i => c.writeDst i sh fun n =>
      let v := (o.wa n).toNat
      zx (((q[selEntry v]?).map fun e => e.item (selItem v) n).getD 0)) s

/-- Update an entry of the current frame's replay queue. -/
def Crew.updEntry (c : Crew) (k : Nat) (f : Entry → Entry) : Crew :=
  { c with lv := { c.lv with cur := { c.lv.cur with
    rpq := c.lv.cur.rpq.mapIdx fun i e => if i = k then f e else e } } }

/-- RPQW (R186): field D is the selector, which is read at execution and at re-injection. Its tagged read comes behind that
of A (log entry 109). -/
def execRpqw (d : Rn) (a : Src) (s : State) : Host.Outcome State Fault Refusal :=
  Act.run (do
    let sh : Shape := ⟨none, [useA a, ⟨3, d, 1, false, false⟩]⟩
    let o ← begin' sh needHandler true false
    let i ← theIssue
    let c ← theCrew
    let q := c.lv.cur.rpq
    let sel (n : Nat) : Nat := (c.readWord (nameOf c.wb true d) 0 n false 1).1.toNat
    let ls := lanesOf i.act
    let same := ls.all fun n => ls.all fun k => sel n == sel k && o.wa n == o.wa k
    let grows (n : Nat) : Bool :=
      (q[selEntry (sel n)]?).any fun e => (e.setWord (selItem (sel n)) (o.wa n)).present != e.present
    let _ ← settle o fun _ n =>
      (deny (selBad q (sel n)) ILLOPND).bind fun _ =>
        deny (selItem (sel n) < 5 && (!same || grows n)) ILLOPND
    finish sh o fun c _ =>
      ls.foldl (fun c n => c.updEntry (selEntry (sel n)) fun e =>
        if selItem (sel n) < 5 then e.setWord (selItem (sel n)) (o.wa n) else e.setLane (selItem (sel n)) n (o.wa n)) c) s

/-- TMASK (R190). -/
def execTmask (a : Src) (s : State) : Host.Outcome State Fault Refusal :=
  Act.run (do
    let sh : Shape := ⟨none, [useA a]⟩
    let o ← begin' sh (fun _ c i => c.depthAt i.s == 0 || i.s != i.elig) true false false lowRead
    finish sh o fun c i =>
      match lowest i.act with
      | some n => { c with lv := { c.lv with cur := { c.lv.cur with masked := (o.wa n).getLsbD 0 } } }
      | none => c) s

/-- HMOVF (R190). -/
def execHmovf (d : Rn) (n : Nat) (s : State) : Host.Outcome State Fault Refusal :=
  Act.run (do
    let sh : Shape := ⟨some (d, 1), []⟩
    let o ← begin' sh needHandler false false true
    finish sh o (fun c i => c.copyName (nameOf c.wb false d) i.act fun l =>
      match c.hregs.find? (·.name == n) with
      | some r => (nth r.vals l 0, has r.tags l)
      | none => (0, false)) true) s

/-- HMOVT (R190): a re-injected one copies the captured value, which carries no tag (R179). -/
def execHmovt (n : Nat) (a : Src) (s : State) : Host.Outcome State Fault Refusal :=
  Act.run (do
    let sh : Shape := ⟨none, [useA a]⟩
    let o ← begin' sh needHandler false false true
    let c0 ← theCrew
    finish sh o (fun c i => c.copyName (.h n) i.act fun l =>
      (o.wa l, i.entry.isNone && (c0.readWord (nameOf c0.wb false a.r) 0 l false 1).2)) true) s

/-! ## Delivery -/

/-- Deliver the oldest trap of a crew when it is due and of the kind. -/
def State.deliverKind (s : State) (crew : Nat) (emul : Bool) : State :=
  match (s.crew? crew).bind Crew.trapDue with
  | some t => if t.emul == emul then s.deliver crew t else s
  | none => s

/-- TRAP_DELIVERY (R180, R181). -/
def execTrapDelivery (crew : Nat) (s : State) : Host.Outcome State Fault Refusal := .next (s.deliverKind crew false)

/-- EMULATION_ENTRY (R180, R191). -/
def execEmulationEntry (crew : Nat) (s : State) : Host.Outcome State Fault Refusal := .next (s.deliverKind crew true)

end Sys2Proof.Machine
end

