-- ==== Sys2Proof/Machine/Die.lean ====
section
/-! DEFINITION. The die: window bindings (R280 to R286), the engines of class S (R287), the Sweep (R288 to R291) and
contraction (R292 to R299). -/

namespace Sys2Proof.Machine

/-! ## Reads of blocks at issue -/

/-- Read bytes as a class-C load of a lane (R214, R322); a poisoned line ends the step with the team's ECCU. -/
def readIssue (lane : Nat) (pas : List Nat) : Act (List Byte) := do
  let c ← theCrew
  let s ← get
  let ps := pas.map Place.mem
  let team := c.teamOf lane
  if s.readsPoison team ps then do
    set (s.consume team)
    stop
  else do
    let v := ((c.lane lane).map fun l => (l.seen, l.wrote)).getD ([], [])
    let (bs, v1) ← readC team (s.freshOf c) (chunks8 ps.length ps) v
    modCrew fun c => c.mapLanes (1#64 <<< lane) fun _ l => { l with seen := v1.1, wrote := v1.2 }
    pure bs

/-- The addresses of a block of `n` lines of 32 bytes that need not lie in one page. -/
def State.blockPas (s : State) (ctx va n : Nat) : Chk (List Nat) :=
  (Chk.all (fun i => (s.chkVa ctx (va + 32 * i) Need.read).bind fun pa => .ok ((List.range 32).map (pa + ·)))
    (List.range n)).bind fun l => .ok l.flatten

/-- The bytes of a block where its checks pass, else none. -/
def readIf (lane : Nat) (c : Chk (List Nat)) : Act (List Byte) :=
  match c with
  | .ok pas => readIssue lane pas
  | _ => pure []

/-- Bits [63:56] of an address are zero, else PROT. -/
def topOk (va : Nat) : Chk Unit := deny (2 ^ 56 ≤ va) PROT
def alignedTo (n va : Nat) : Chk Unit := deny (va % n != 0) MISALIGN

/-- Checks in order. -/
def Chk.seq : List (Chk Unit) → Chk Unit
  | [] => .ok ()
  | c :: cs => c.bind fun _ => Chk.seq cs

/-! ## GBIND and GSTAT -/

/-- The size of an index of an ITYPE (R281). -/
def idxSize (itype : Nat) : Nat := if itype < 2 then 4 else 8

/-- The window that a binding block describes (R281). -/
def windowOf (b : List Byte) (scat : Bool) : Window :=
  let ctl := fld b 0x14 4
  ⟨fld b 0 8, fld b 8 8, fld b 0x10 4, 2 ^ bits ctl 0 3, bits ctl 4 2, bits ctl 8 2, fld b 0x18 8, scat, false, 0⟩

/-- The checks of a binding block (R284). -/
def bindChk (b : List Byte) : Chk Unit :=
  let w := windowOf b false
  let ctl := fld b 0x14 4
  Chk.seq [deny (bits ctl 0 3 ≤ 4 && w.tbase % w.es != 0) MISALIGN, alignedTo (idxSize w.itype) w.ibase,
    topOk w.tbase, topOk w.ibase,
    deny (4 < bits ctl 0 3 || 1 < w.policy || bit ctl 3 || bits ctl 6 2 != 0 || bits ctl 10 22 != 0 || w.count = 0 ||
      2 ^ 28 < w.count || w.tlen = 0 || 2 ^ 48 < w.tlen) ILLOPND]

/-- The checks of a block's address, and its bytes' addresses. -/
def State.blkChk (s : State) (ctx al va n : Nat) : Chk (List Nat) :=
  (alignedTo al va).bind fun _ => (topOk va).bind fun _ => s.blockPas ctx va n

/-- Read for each lead lane the block that its address names. -/
def readLeads (o : Opn) (chk : Nat → Chk (List Nat)) : List Nat → Act (List (Nat × List Byte))
  | [] => pure []
  | n :: ns => do
    let b ← if (o.fa n) == 0 then pure [] else readIf n (chk n)
    let r ← readLeads o chk ns
    pure ((n, b) :: r)

/-- GBIND (R284): A is read in the lowest lane of each team. -/
def execGbind (win : BitVec 3) (a : Src) (scat : Bool) (s : State) : Host.Outcome State Fault Refusal :=
  Act.run (do
    let sh : Shape := ⟨none, [useA a 2]⟩
    let o ← begin' sh fine true false false leadRead
    let i ← theIssue
    let c ← theCrew
    let s ← get
    let leads := c.leads i.act
    let chk (n : Nat) : Chk (List Nat) := s.blkChk c.ctx 32 (o.fa n).toNat 1
    let blks ← readLeads o chk leads
    let ls ← settle o fun _ n =>
      if !leads.contains n || o.fa n == 0 then .ok []
      else (chk n).bind fun _ => (bindChk ((blks.lookup n).getD [])).bind fun _ => .ok ((blks.lookup n).getD [])
    let go := ls.filter fun p => leads.contains p.1
    modify fun s => go.foldl (fun s p => s.updTeam (c.teamOf p.1) fun t =>
      { t with windows := setNth t.windows win.toNat (if o.fa p.1 == 0 then none else some (windowOf p.2 scat)) }) s
    finish sh o fun c _ => c) s

/-- The status word of a window (R285). -/
def Window.status : Option Window → Nat
  | none => 0
  | some w => b1 w.bad * 2 ^ 31 + 2 ^ 30 + b1 w.scat * 2 ^ 29 + (w.policy % 2) * 2 ^ 28 + w.pos % 2 ^ 28

/-- GSTAT (R285). -/
def execGstat (d : Rn) (win : BitVec 3) (s : State) : Host.Outcome State Fault Refusal :=
  Act.run (do
    let sh : Shape := ⟨some (d, 1), []⟩
    let o ← begin' sh fine true false
    let s ← get
    finish sh o fun c i => c.writeDst i sh fun n =>
      BitVec.ofNat 64 (Window.status ((s.team? (c.teamOf n)).bind fun t => (t.windows[win.toNat]?).join))) s

/-! ## Engine work of class S (R287) -/

/-- The class-S operations of a team. -/
def State.sopsOf (s : State) (team : Nat) : List SOp := s.eng.sops.filter (·.team == team)

/-- Hand an operation to the engines of the die under the core, or wait while eight are waiting. -/
def handOver (sh : Shape) (o : Opn) (lane : Nat) (mk : Nat → Crew → SOp) : Act Unit := do
  let c ← theCrew
  if 8 ≤ ((← get).sopsOf (c.teamOf lane)).length then waitHere
  else do
    let id ← newId
    modify fun s => s.updEng fun e => { e with sops := e.sops ++ [mk id c] }
    finish sh o fun c _ => c

/-- How an engine's work on memory ends early: a fault to be served, an address that is not to be had (R299), an input
with an uncorrectable error, or an error that it reports. -/
inductive EngStop where
  | wait (key : FaultKey) (va : Nat) (host : Bool)
  | dead (operand va : Nat)
  | poison
  | bad (err operand p a b : Nat)
deriving DecidableEq, Repr

abbrev Eng (α : Type) := Except EngStop α

/-- What an engine's operation works with. -/
structure EngEnv where
  s : State
  ctx : Nat
  team : Nat
  unres : List FaultKey

/-- Translate for an engine. -/
def EngEnv.pa (e : EngEnv) (operand va : Nat) (n : Need) : Eng Nat :=
  match (e.s.chkVa e.ctx (va % 2 ^ 64) n) with
  | .ok pa => .ok pa
  | .trap _ _ => .error (.dead operand (va % 2 ^ 64))
  | .fault k v h => if e.unres.contains k then .error (.dead operand (va % 2 ^ 64)) else .error (.wait k v h)

/-- A little-endian number of `n` bytes in the team's view (R287). -/
def EngEnv.read (e : EngEnv) (operand va n : Nat) : Eng Nat := do
  let pa ← e.pa operand va Need.read
  let ps := (List.range n).map (pa + ·)
  if e.s.readsPoison e.team (ps.map Place.mem) then .error .poison else .ok (e.s.viewNat e.team ps)

/-- The bytes of a number at an address, to be written. -/
def EngEnv.put (e : EngEnv) (operand va n v : Nat) : Eng (List (Place × Byte)) := do
  let pa ← e.pa operand va Need.write
  .ok ((leBytes n v).mapIdx fun i b => (.mem (pa + i), b))

/-- Take an operation away. -/
def State.dropSop (s : State) (id : Nat) : State := s.updEng fun e => { e with sops := e.sops.filter (·.id != id) }

/-- The counter of an operation (R287). -/
def State.countUp (s : State) (team : Nat) (pa : Nat) : State :=
  let v := leNat (s.mem.cells.read pa 4) + 1
  s.homeWrite team ((leBytes 4 v).mapIdx fun i b => (pa + i, b))

/-- A completion counter: there is none, its place, or an address that is not to be had (R287). -/
inductive Ctr where
  | none
  | at (pa : Nat)
  | dead (va : Nat)
deriving DecidableEq, Repr

/-- The counter of a descriptor; a poisoned word is consumed (R363). -/
def EngEnv.ctr (e : EngEnv) (ctr : Nat) : Eng Ctr :=
  if ctr = 0 then .ok .none
  else
    match e.pa 0 ctr Need.both with
    | .ok pa => if e.s.homePoison e.team ((List.range 4).map (pa + ·)) then .error .poison else .ok (.at pa)
    | .error (.dead _ va) => .ok (.dead va)
    | .error x => .error x

/-- Is the counter's page not to be had: an unresolvable fault, reported as ERR 3 where nothing was before (R287, log entry
118)? -/
def Ctr.lost : Ctr → Bool
  | .dead _ => true
  | _ => false

/-- Finish an operation: its counter, and it is gone. -/
def State.engDone (s : State) (o : SOp) (ctr : Ctr) : State :=
  let s1 := s.dropSop o.id
  (match ctr with
    | .at pa => s1.countUp o.team pa
    | _ => s1).rewake

/-- The environment of an operation. -/
def State.engEnv (s : State) (o : SOp) : EngEnv :=
  ⟨s, (((s.team? o.team).bind fun t => s.grid? t.grid).map (·.ctx)).getD 0, o.team, o.unres⟩

/-- A stop that is not reported in the status word. -/
def State.engStop (s : State) (o : SOp) (e : EngStop) : State :=
  match e with
  | .wait k v h => s.addFault k v h
  | .poison => s.consume o.team
  | .dead _ _ => (s.dropSop o.id).rewake
  | .bad .. => s

/-! ## MERGE -/

/-- The size of a value (R288). -/
def mergeVs (ctl : Nat) : Nat := if bits ctl 8 2 = 3 then 8 else 4

/-- A fibre of a merge. -/
structure Fibre where
  coord : Nat
  val : Nat
  len : Nat
deriving DecidableEq, Repr, Inhabited

def fibresOf (d f : List Byte) : List Fibre :=
  (List.range (bits (fld d 0x24 4) 0 6 + 1)).map fun k => ⟨fld f (32 * k) 8, fld f (32 * k + 8) 8, fld f (32 * k + 16) 4⟩

/-- Do two ranges of bytes meet? -/
def overlap (a n b m : Nat) : Bool := n != 0 && m != 0 && a < b + m && b < a + n

/-- The checks of a merge descriptor before its fibre table is read (R289). -/
def mergePre (d : List Byte) : Chk Unit := Chk.seq [alignedTo 32 (fld d 0x10 8), topOk (fld d 0x10 8)]

/-- The checks of a merge descriptor with its fibre table, in the order of R289. -/
def mergeChk (isect : Bool) (d f : List Byte) : Chk Unit :=
  let ctl := fld d 0x24 4
  let vs := mergeVs ctl
  let fs := fibresOf d f
  let cap := fld d 0x20 4
  let k1 := bits ctl 12 6
  let outs := [(fld d 0 8, 4 * cap), (fld d 8 8, vs * cap)]
  let ins := fs.flatMap fun x => [(x.coord, 4 * x.len), (x.val, vs * x.len)]
  let zero (b : List Byte) (off n : Nat) : Bool := fld b off n = 0
  Chk.seq [
    alignedTo 4 (fld d 0 8), alignedTo vs (fld d 8 8),
    deny (fs.any fun x => x.coord % 4 != 0 || x.val % vs != 0) MISALIGN,
    topOk (fld d 0 8), topOk (fld d 8 8), topOk (fld d 0x18 8),
    deny (fs.any fun x => 2 ^ 56 ≤ x.coord || 2 ^ 56 ≤ x.val) PROT,
    deny (bits ctl 18 14 != 0 || bits ctl 6 2 != 0 || !zero d 0x38 8 ||
      ((List.range fs.length).any fun j => !zero f (32 * j + 20) 12) || 2 ^ 31 ≤ cap || (fs.any fun x => 2 ^ 31 ≤ x.len) ||
      (k1 != 0 && !isect) || fs.length < k1 + 1) ILLOPND,
    deny (overlap (fld d 0 8) (4 * cap) (fld d 8 8) (vs * cap) ||
      outs.any fun p => ins.any fun q => overlap p.1 p.2 q.1 q.2) ILLOPND,
    alignedTo 4 (fld d 0x18 8)]

/-- MERGE (R289). -/
def execMerge (a : Src) (isect : Bool) (s : State) : Host.Outcome State Fault Refusal :=
  Act.run (do
    let sh : Shape := ⟨none, [useA a 2]⟩
    let o ← begin' sh fine true false false lowRead
    let i ← theIssue
    let c ← theCrew
    let s ← get
    match lowest i.act with
    | none => finish sh o fun c _ => c
    | some l => do
      let va := (o.fa l).toNat
      let c1 := s.blkChk c.ctx 64 va 2
      let d ← readIf l c1
      let nf := bits (fld d 0x24 4) 0 6 + 1
      let c2 : Chk (List Nat) := c1.bind fun _ => (mergePre d).bind fun _ => s.blockPas c.ctx (fld d 0x10 8) nf
      let f ← readIf l c2
      settleOne o l (c2.bind fun _ => mergeChk isect d f) sh
      handOver sh o l fun id c =>
        ⟨id, c.teamOf l, c.id, true, isect, va, d, f, (c.attr i).pdom, c.core, 0, []⟩) s

/-! ## MERGE_PERFORM (R290, R291) -/

/-- The entries of a fibre, and whether it was read whole. -/
structure FibreData where
  coords : List Nat
  vals : List Nat
  cut : Bool
deriving DecidableEq, Repr, Inhabited

/-- Read a fibre up to its end, or to an address that is not to be had. -/
def EngEnv.fibre (e : EngEnv) (x : Fibre) (vs : Nat) : (left i : Nat) → Eng FibreData
  | 0, _ => .ok ⟨[], [], false⟩
  | n + 1, i =>
    match e.read 0 (x.coord + 4 * i) 4, e.read 0 (x.val + vs * i) vs with
    | .ok c, .ok v => do
      let r ← e.fibre x vs n (i + 1)
      .ok { r with coords := c :: r.coords, vals := v :: r.vals }
    | .error (.dead _ _), .error (.wait k v h) => .error (.wait k v h)
    | .error (.dead _ _), _ => .ok ⟨[], [], true⟩
    | _, .error (.dead _ _) => .ok ⟨[], [], true⟩
    | .error x, _ => .error x
    | _, .error x => .error x

/-- The first position below its predecessor (R291). -/
def descent : (i : Nat) → List Nat → Option (Nat × Nat)
  | i, a :: b :: l => if b < a then some (i + 1, a) else descent (i + 1) (b :: l)
  | _, _ => none

/-- Combine two values (R290). -/
def mergeTwo (vt opn x y : Nat) : Nat :=
  let fl (f : Fmt) : Nat :=
    match (sumV .rne [decodeF f x, decodeF f y]).1 with
    | .fin n m e => if m = 0 then 0 else (roundTo f .rne false (.fin n m e)).1
    | v => (roundTo f .rne false v).1
  match opn with
  | 0 => match vt with
    | 0 => fl fp32
    | 3 => fl fp64
    | _ => (x + y) % 2 ^ 32
  | 3 => x
  | k => match vt with
    | 0 => ((minMax32 (k == 2) memEnv (BitVec.ofNat 32 x) (BitVec.ofNat 32 y)).1).toNat % 2 ^ 32
    | 3 => (minMax64 (k == 2) (BitVec.ofNat 64 x) (BitVec.ofNat 64 y)).1.toNat
    | t => pickNat 32 (t == 1) (k == 2) x y

/-- Rising numbers without repeats. -/
def insNat (x : Nat) : List Nat → List Nat
  | [] => [x]
  | y :: ys => if x < y then x :: y :: ys else if x = y then y :: ys else y :: insNat x ys

/-- The merged entries of fibres (R290): each coordinate present in `k` fibres or more, its terms in fibre order. -/
def mergeAll (vt opn k : Nat) (fs : List FibreData) : List (Nat × Nat) :=
  let cs := (fs.flatMap (·.coords)).foldl (fun l c => insNat c l) []
  cs.filterMap fun c =>
    if (fs.filter fun f => f.coords.contains c).length < k then none
    else
      match fs.flatMap fun f => (f.coords.zip f.vals).filterMap fun p => if p.1 = c then some p.2 else none with
      | [] => none
      | t :: ts => some (c, ts.foldl (mergeTwo vt opn) t)

/-- The part of a fibre below a coordinate, up to its first descent. -/
def FibreData.upTo (f : FibreData) (p : Nat) : FibreData :=
  let n := match descent 0 f.coords with
    | some (i, _) => i
    | none => f.coords.length
  let l := ((f.coords.zip f.vals).take n).filter (·.1 < p)
  ⟨l.map (·.1), l.map (·.2), false⟩

/-- What a merge writes: ERR, the entries, OUTCNT, ERRFIB and ERRPOS. -/
structure Merged where
  err : Nat
  out : List (Nat × Nat)
  cnt : Nat
  fib : Nat
  pos : Nat
deriving DecidableEq, Repr

/-- The least pair of a coordinate and what goes with it. -/
def leastBy : List (Nat × Nat × Nat) → Option (Nat × Nat × Nat)
  | [] => none
  | x :: xs =>
    match leastBy xs with
    | none => some x
    | some y => if y.1 < x.1 then some y else some x

/-- The result of a merge (R291). With an address that is not to be had, the entries below the last coordinate that was
read of every fibre cut short; how many of them are written is open, and `keep` says it. -/
def mergeResult (vt opn k cap : Nat) (fs : List FibreData) (keep : Nat → Nat) : Merged :=
  let descents := (fs.mapIdx fun j f => (descent 0 f.coords).map fun p => (p.2, j, p.1)).filterMap id
  if fs.any (·.cut) then
    let lim := (leastNat ((fs.filter (·.cut)).map fun f => f.coords.getLast?.getD 0)).getD 0
    let l := (mergeAll vt opn k (fs.map (·.upTo lim))).take cap
    let out := l.take (keep l.length)
    ⟨3, out, out.length, 0, 0⟩
  else
    match leastBy descents with
    | some (p, j, i) =>
      let out := (mergeAll vt opn k (fs.map (·.upTo p))).take cap
      ⟨1, out, out.length, j, i⟩
    | none =>
      let l := mergeAll vt opn k fs
      if cap < l.length then ⟨2, l.take cap, l.length, 0, 0⟩ else ⟨0, l, l.length, 0, 0⟩

/-- A merge whose counter's page is lost reports ERR 3 with a prefix of its output, where it has no other error (R287,
R291). -/
def Merged.orLost (r : Merged) (c : Ctr) (keep : Nat → Nat) : Merged :=
  if c.lost && r.err = 0 then
    let out := r.out.take (keep r.out.length)
    ⟨3, out, out.length, 0, 0⟩
  else r

/-- Everything that a merge reads, and the bytes and counter that it then writes. -/
def EngEnv.mergeWrites (e : EngEnv) (o : SOp) (keep : Nat → Nat) : Eng (List (Place × Byte) × Ctr) := do
  let d := o.bytes
  let ctl := fld d 0x24 4
  let vs := mergeVs ctl
  let fs ← (fibresOf d o.fibres).mapM fun x => e.fibre x vs x.len 0
  let k := if o.isect then bits ctl 12 6 + 1 else 1
  let c ← e.ctr (fld d 0x18 8)
  let r := (mergeResult (bits ctl 8 2) (bits ctl 10 2) k (fld d 0x20 4) fs keep).orLost c keep
  let put (q : Nat × Nat × Nat) : Eng (List (Place × Byte)) := do
    let a ← e.put 0 (fld d 0 8 + 4 * q.1) 4 q.2.1
    let b ← e.put 0 (fld d 8 8 + vs * q.1) vs q.2.2
    .ok (a ++ b)
  let whole := (r.out.mapIdx fun i p => (i, p)).mapM put
  let (err, ws, cnt) ← match whole with
    | .ok ws => .ok (r.err, ws.flatten, r.cnt)
    | .error (.dead _ _) => .ok (3, [], 0)
    | .error x => .error x
  let st ← e.put 0 (o.desc + 0x28) 4 (2 ^ 31 + err)
  let oc ← e.put 0 (o.desc + 0x2C) 4 cnt
  let ef ← e.put 0 (o.desc + 0x30) 4 (if err = 1 then r.fib else 0)
  let ep ← e.put 0 (o.desc + 0x34) 4 (if err = 1 then r.pos else 0)
  .ok (ws ++ st ++ oc ++ ef ++ ep, c)

/-- The next operation of a team's class-S work. -/
def State.nextSop (s : State) (team : Nat) : Option SOp := (s.sopsOf team).head?

/-- Perform a merge. -/
def performMerge (o : SOp) : Act Unit := do
  let s ← get
  let n ← if o.unres.isEmpty then pure 0 else choose (2 ^ 32)
  match (s.engEnv o).mergeWrites o (fun k => n % (k + 1)) with
  | .error x => modify fun s => s.engStop o x
  | .ok (bs, ctr) =>
    match s.storeBytes o.team o.core none o.dom bs with
    | .ok s1 =>
      let t := s1.engDone o ctr
      set { t with clock := { t.clock with free := (← get).clock.free } }
    | .error b => set (s.blockedBy o.team o.core none b)

/-- MERGE_PERFORM (R290, R291). -/
def execMergePerform (team : Nat) (s : State) : Host.Outcome State Fault Refusal :=
  Act.run (match s.nextSop team with
    | some o => if o.merge then performMerge o else pure ()
    | none => pure ()) s

/-! ## CONTRACT (R292 to R297) -/

/-- A dimension of an operand: its variable, its format (0 dense, 1 compressed, 2 singleton, 3 bitmap tile), and its
arrays. -/
structure CDim where
  var : Nat
  fmt : Nat
  pos : Nat
  crd : Nat
deriving DecidableEq, Repr, Inhabited

/-- An operand (R293). -/
structure COp where
  dims : List CDim
  vals : Nat
deriving DecidableEq, Repr, Inhabited

/-- A parameter block (R292). -/
structure CBlock where
  ops : List COp
  ty : Nat
  acc : Bool
  sizes : List Nat
  ctr : Nat
deriving DecidableEq, Repr, Inhabited

def cop (b : List Byte) (m : Nat) : COp :=
  let o := 0x40 + 128 * m
  ⟨(List.range (fld b o 1)).map fun d =>
    let x := fld b (o + 1 + d) 1
    ⟨bits x 0 3, bits x 4 2, fld b (o + 0x10 + 16 * d) 8, fld b (o + 0x18 + 16 * d) 8⟩, fld b (o + 8) 8⟩

def cblock (b : List Byte) : CBlock :=
  let ctl := fld b 0 4
  ⟨(List.range (bits ctl 0 3 + 1)).map (cop b), bits ctl 8 2, bit ctl 10,
    (List.range (bits ctl 4 3)).map fun v => fld b (0x20 + 4 * v) 4, fld b 0x18 8⟩

/-- The size of an input element (R294). -/
def cEs (ty : Nat) : Nat := if ty < 2 then 2 else 1

/-- Does a dimension use its POS array? Compressed ones and the first of a bitmap tile do. -/
def COp.usesPos (p : COp) (d : Nat) : Bool :=
  (p.dims[d]?).any fun x => x.fmt = 1 || (x.fmt = 3 && d + 2 = p.dims.length)
def COp.usesCrd (p : COp) (d : Nat) : Bool := (p.dims[d]?).any fun x => x.fmt = 1 || x.fmt = 2

/-- Is the order of formats of an input bad (R294)? -/
def COp.fmtBad (p : COp) (sizes : List Nat) : Bool :=
  let fs := p.dims.map (·.fmt)
  let r := fs.length
  ((List.range r).any fun d => nth fs d 0 = 2 && !(0 < d && (nth fs (d - 1) 0 = 1 || nth fs (d - 1) 0 = 2))) ||
  (fs.contains 3 && !(2 ≤ r && (List.range r).all fun d => (nth fs d 0 = 3) == decide (r ≤ d + 2))) ||
  p.dims.any fun x => x.fmt = 3 && nth sizes x.var 0 % 16 != 0

/-- Is anything of the operands' bytes that must be zero not zero (R293)? -/
def copReserved (b : List Byte) (m : Nat) : Bool :=
  let o := 0x40 + 128 * m
  let r := fld b o 1
  let p := cop b m
  ((List.range 4).any fun d =>
    let x := fld b (o + 1 + d) 1
    if d < r then bit x 3 || bits x 6 2 != 0 else x != 0) ||
  fld b (o + 5) 3 != 0 ||
  ((List.range 4).any fun d =>
    (!p.usesPos d && fld b (o + 0x10 + 16 * d) 8 != 0) || (!p.usesCrd d && fld b (o + 0x18 + 16 * d) 8 != 0)) ||
  ((List.range 6).any fun k => fld b (o + 0x50 + 8 * k) 8 != 0)

/-- Is the block ill formed beyond its addresses (R292 to R294, R297)? -/
def contractReserved (b : List Byte) : Bool :=
  let ctl := fld b 0 4
  let ni := bits ctl 0 3
  let nv := bits ctl 4 3
  let k := cblock b
  ni < 1 || 3 < ni || nv < 1 || 6 < nv || bits ctl 11 21 != 0 || bit ctl 7 || bit ctl 3 || fld b 4 4 != 0 ||
  fld b 0x38 8 != 0 ||
  ((List.range 6).any fun v =>
    let z := fld b (0x20 + 4 * v) 4
    if v < nv then z = 0 || 2 ^ 31 ≤ z else z != 0) ||
  ((List.range 4).any fun m =>
    if m ≤ ni then
      let r := fld b (0x40 + 128 * m) 1
      r < 1 || 4 < r || copReserved b m
    else (List.range 16).any fun j => fld b (0x40 + 128 * m + 8 * j) 8 != 0) ||
  (k.ops.any fun p => p.dims.any fun x => nv ≤ x.var) ||
  (k.ops.any fun p => (p.dims.map (·.var)).eraseDups.length != p.dims.length) ||
  (((k.ops.take 1).any fun p => p.dims.any fun x => x.fmt != 0)) ||
  ((List.range nv).any fun v => !(k.ops.any fun p => p.dims.any (·.var == v)) ||
    (!((k.ops.take 1).any fun p => p.dims.any (·.var == v)) && !((k.ops.drop 1).any fun p => p.dims.any (·.var == v)))) ||
  ((k.ops.drop 1).any fun p => p.fmtBad k.sizes)

/-- The addresses of a block with the alignment each needs (R293 to R295). -/
def CBlock.addrs (k : CBlock) : List (Nat × Nat) :=
  (4, k.ctr) :: (k.ops.mapIdx fun m p =>
    (if m = 0 then 4 else if p.dims.any (·.fmt == 3) then 16 else cEs k.ty, p.vals) ::
      ((List.range p.dims.length).flatMap fun d =>
        let x := nth p.dims d ⟨0, 0, 0, 0⟩
        (if p.usesPos d then [(if x.fmt = 3 then 8 else 4, x.pos)] else []) ++
        (if p.usesCrd d then [(4, x.crd)] else []))).flatten

def contractChk (b : List Byte) : Chk Unit :=
  let k := cblock b
  Chk.seq [deny (k.addrs.any fun p => p.2 % p.1 != 0) MISALIGN, deny (k.addrs.any fun p => 2 ^ 56 ≤ p.2) PROT,
    deny (contractReserved b) ILLOPND]

/-- CONTRACT (R297). -/
def execContract (a : Src) (s : State) : Host.Outcome State Fault Refusal :=
  Act.run (do
    let sh : Shape := ⟨none, [useA a 2]⟩
    let o ← begin' sh fine true false false lowRead
    let i ← theIssue
    let c ← theCrew
    let s ← get
    match lowest i.act with
    | none => finish sh o fun c _ => c
    | some l => do
      let va := (o.fa l).toNat
      let c1 := s.blkChk c.ctx 64 va 18
      let b ← readIf l c1
      settleOne o l (c1.bind fun _ => contractChk b) sh
      handOver sh o l fun id c =>
        ⟨id, c.teamOf l, c.id, false, false, va, b, [], (c.attr i).pdom, c.core, 0, []⟩) s

/-! ## CONTRACT_PERFORM (R296 to R299) -/

/-- A stored element: its coordinates by dimension, and the address of its value. -/
abbrev Elem := List Nat × Nat

/-- The entries of one compressed or singleton level, with the error of R299 where it breaks R294: `ascend` says that
coordinates must rise strictly here. -/
def EngEnv.crds (e : EngEnv) (m d crd size : Nat) (ascend : Bool) : (left i : Nat) → Option Nat → Eng (List (Nat × Nat))
  | 0, _, _ => .ok []
  | n + 1, i, prev => do
    let c ← e.read m (crd + 4 * i) 4
    if size ≤ c || (ascend && prev.any (c ≤ ·)) then .error (.bad 2 m d i 0)
    else do
      let r ← e.crds m d crd size ascend n (i + 1) (some c)
      .ok ((c, i) :: r)

/-- Is a list of coordinates below another, the first dimension first? -/
def lexLt : List Nat → List Nat → Bool
  | a :: as, b :: bs => a < b || (a = b && lexLt as bs)
  | [], _ :: _ => true
  | _, _ => false

/-- Tuples of a run of singleton levels below a compressed one rise strictly (R294): the position of the first that does
not. -/
def tupleBad : List (List Nat × Nat) → Option Nat
  | a :: b :: l => if lexLt a.1 b.1 then tupleBad (b :: l) else some b.2
  | _ => none

/-- The elements below a parent of a dense, compressed or singleton level. Coordinates of a compressed segment rise
strictly. -/
def EngEnv.level (e : EngEnv) (m : Nat) (sizes : List Nat) (d : Nat) (x : CDim) (p : List Nat × Nat) :
    Eng (List (List Nat × Nat)) :=
  let size := nth sizes x.var 0
  match x.fmt with
  | 0 => .ok ((List.range size).map fun c => (p.1 ++ [c], p.2 * size + c))
  | 1 => do
    let lo ← e.read m (x.pos + 4 * p.2) 4
    let hi ← e.read m (x.pos + 4 * (p.2 + 1)) 4
    if hi < lo then .error (.bad 2 m d (p.2 + 1) 0)
    else do
      let l ← e.crds m d x.crd size true (hi - lo) lo none
      .ok (l.map fun q => (p.1 ++ [q.1], q.2))
  | _ => do
    let l ← e.crds m d x.crd size false 1 p.2 none
    .ok (l.map fun q => (p.1 ++ [q.1], q.2))

/-- The elements of one compressed segment through the singleton levels after it. -/
def EngEnv.singles (e : EngEnv) (m : Nat) (sizes : List Nat) : List (Nat × CDim) → List (List Nat × Nat) →
    Eng (List (List Nat × Nat))
  | [], l => .ok l
  | (d, x) :: ds, l => do
    let r ← l.mapM (e.level m sizes d x)
    let l1 := r.flatten
    match if ds.isEmpty then tupleBad l1 else none with
    | some i => .error (.bad 2 m d i 0)
    | none => e.singles m sizes ds l1

/-- All levels of an operand from dimension `d` on: its elements' coordinates and final positions. -/
def EngEnv.levels (e : EngEnv) (m : Nat) (sizes : List Nat) : (fuel : Nat) → List (Nat × CDim) → List (List Nat × Nat) →
    Eng (List (List Nat × Nat))
  | 0, _, l => .ok l
  | _, [], l => .ok l
  | n + 1, (d, x) :: ds, l =>
    let run := ds.takeWhile fun q => q.2.fmt = 2
    do
      let r ← l.mapM fun p => do
        let a ← e.level m sizes d x p
        e.singles m sizes run a
      e.levels m sizes n (ds.drop run.length) r.flatten

/-- The outer dimensions of an operand: all of them, or those before its bitmap tiles. -/
def COp.outer (p : COp) : List (Nat × CDim) :=
  ((p.dims.mapIdx fun d x => (d, x)).filter fun q => q.2.fmt != 3)

def COp.tiled (p : COp) : Bool := p.dims.any (·.fmt == 3)

/-- The part of an operand's structure that R299 checks before any tile is written. -/
def EngEnv.outerOf (e : EngEnv) (m : Nat) (k : CBlock) (p : COp) : Eng (List (List Nat × Nat)) :=
  e.levels m k.sizes p.dims.length p.outer [([], 0)]

/-- The output tile a contraction works on: the range of each output variable. -/
abbrev OutTile := List (Nat × Nat × Nat)

/-- Does a run of coordinates of a variable meet the tile? Contracted variables always do. -/
def OutTile.meets (t : OutTile) (var lo n : Nat) : Bool :=
  match t.find? (·.1 == var) with
  | some (_, a, k) => lo < a + k && a < lo + n
  | none => true

/-- The set bits of a bitmap of 256. -/
def setBits (b : Nat) : List Nat := (List.range 256).filter (bit b)

/-- The stored elements of the bitmap tiles of one outer position that the output tile needs (R295, R299). -/
def EngEnv.bitmap (e : EngEnv) (m : Nat) (k : CBlock) (p : COp) (t : OutTile) (o : List Nat × Nat) : Eng (List Elem) :=
  let r := p.dims.length
  let dr := nth p.dims (r - 2) ⟨0, 0, 0, 0⟩
  let dc := nth p.dims (r - 1) ⟨0, 0, 0, 0⟩
  let rows := nth k.sizes dr.var 0 / 16
  let cols := nth k.sizes dc.var 0 / 16
  let outOk := (o.1.zip (p.dims.take (r - 2))).all fun q => t.meets q.2.var q.1 1
  let tiles := ((List.range rows).flatMap fun i => (List.range cols).map fun j => (i, j)).filter fun q =>
    outOk && t.meets dr.var (16 * q.1) 16 && t.meets dc.var (16 * q.2) 16
  do
    let ls ← tiles.mapM fun q => do
      let idx := o.2 * rows * cols + q.1 * cols + q.2
      let ent ← e.read m (dr.pos + 8 * idx) 8
      if ent = 2 ^ 64 - 1 then .ok []
      else if ent % 16 != 0 then .error (.bad 2 m (r - 2) idx 0)
      else do
        let rec8 ← (List.range 4).mapM fun i => e.read m (p.vals + ent + 8 * i) 8
        let map := (rec8.mapIdx fun i v => v * 2 ^ (64 * i)).sum
        let len ← e.read m (p.vals + ent + 0x20) 2
        let bs := setBits map
        if bs.length != len then .error (.bad 1 m o.2 (16 * q.1) (16 * q.2))
        else .ok (bs.mapIdx fun i b =>
          (o.1 ++ [16 * q.1 + b / 16, 16 * q.2 + b % 16], p.vals + ent + 0x30 + i * cEs k.ty))
    .ok ls.flatten

/-- The stored elements of an input that the output tile needs. -/
def EngEnv.elems (e : EngEnv) (m : Nat) (k : CBlock) (p : COp) (t : OutTile) : Eng (List Elem) := do
  let os ← e.outerOf m k p
  if p.tiled then do
    let l ← os.mapM (e.bitmap m k p t)
    .ok l.flatten
  else
    .ok ((os.filter fun o => (o.1.zip p.dims).all fun q => t.meets q.2.var q.1 1).map fun o =>
      (o.1, p.vals + o.2 * cEs k.ty))

def cFmt (ty : Nat) : Fmt :=
  match ty with
  | 0 => bf16
  | 1 => fp16
  | 2 => e4m3
  | _ => e5m2

/-- An input's needed elements with their values. -/
def EngEnv.values (e : EngEnv) (m : Nat) (k : CBlock) (p : COp) (t : OutTile) : Eng (List (List Nat × Val)) := do
  let l ← e.elems m k p t
  l.mapM fun x => do
    let v ← e.read m x.2 (cEs k.ty)
    .ok (x.1, decodeF (cFmt k.ty) v)

/-- Every tuple of coordinates of some sizes, in lexicographic order. -/
def tuples : List Nat → List (List Nat)
  | [] => [[]]
  | n :: ns => (List.range n).flatMap fun c => (tuples ns).map (c :: ·)

/-- An exact product of elements; one of zero and infinity is a NaN (R261). -/
def prodV : List Val → Val
  | [] => .nan false
  | [v] => v
  | v :: w :: l =>
    let (p, bad) := mulV v (prodV (w :: l))
    if bad then .nan false else p

/-- Terms in order with their keys, as one list a key. -/
def groupKeys : List (List Nat × Val) → List (List Nat × List Val)
  | [] => []
  | (k, v) :: l =>
    match groupKeys l with
    | (j, vs) :: r => if j = k then (k, v :: vs) :: r else (k, [v]) :: (j, vs) :: r
    | [] => [(k, [v])]

/-- One element of the output (R296): `out` its coordinates by variable, `ins` the inputs with their values. -/
def contractElem (k : CBlock) (ins : List (COp × List (List Nat × Val))) (cvars : List Nat) (out : List (Nat × Nat))
    (acc : Option Nat) : Nat :=
  let terms := (tuples (cvars.map fun v => nth k.sizes v 0)).filterMap fun u =>
    let env := out ++ cvars.zip u
    let vs := ins.map fun p => p.2.lookup (p.1.dims.map fun x => (env.lookup x.var).getD 0)
    if vs.all Option.isSome then
      some ((match u.getLast? with
        | some c => u.dropLast ++ [c / 32]
        | none => []), prodV (vs.filterMap id))
    else none
  let gs := (groupKeys terms).map fun g => (sumV .rne g.2).1
  match gs, acc with
  | [], none => 0
  | _, _ => accumulate false gs acc

/-- The output tiles in order (R298): the ranges of the output's dimensions. -/
def outTiles (k : CBlock) : List OutTile :=
  let p := nth k.ops 0 ⟨[], 0⟩
  let vars := p.dims.map (·.var)
  let size (v : Nat) : Nat := nth k.sizes v 0
  let cut (n b : Nat) : List (Nat × Nat) := (List.range ((n + b - 1) / b)).map fun i => (b * i, min b (n - b * i))
  match vars with
  | [v] => (cut (size v) 4096).map fun q => [(v, q.1, q.2)]
  | _ =>
    let outer := vars.take (vars.length - 2)
    let a := nth vars (vars.length - 2) 0
    let b := nth vars (vars.length - 1) 0
    (tuples (outer.map size)).flatMap fun u =>
      (cut (size a) 64).flatMap fun q => (cut (size b) 64).map fun r =>
        (outer.zip u).map (fun x => (x.1, x.2, 1)) ++ [(a, q.1, q.2), (b, r.1, r.2)]

/-- The coordinates of a tile, by variable, in row-major order. -/
def OutTile.cells (t : OutTile) : List (List (Nat × Nat)) :=
  (tuples (t.map (·.2.2))).map fun u => (t.zip u).map fun q => (q.1.1, q.1.2.1 + q.2)

/-- The address of an output element: row-major over the output's dimensions. -/
def outAddr (k : CBlock) (c : List (Nat × Nat)) : Nat :=
  let p := nth k.ops 0 ⟨[], 0⟩
  p.vals + 4 * (p.dims.foldl (fun i x => i * nth k.sizes x.var 0 + (c.lookup x.var).getD 0) 0)

/-- The bytes of one output tile. -/
def EngEnv.tile (e : EngEnv) (k : CBlock) (t : OutTile) : Eng (List (Place × Byte)) := do
  let ins ← ((k.ops.mapIdx fun m p => (m, p)).drop 1).mapM fun q => do
    let v ← e.values q.1 k q.2 t
    .ok (q.2, v)
  let ovars := t.map (·.1)
  let cvars := (List.range k.sizes.length).filter fun v => !ovars.contains v
  let l ← t.cells.mapM fun c => do
    let acc ← if k.acc then (do
        let x ← e.read 0 (outAddr k c) 4
        .ok (some x))
      else .ok none
    e.put 0 (outAddr k c) 4 (contractElem k ins cvars c acc)
  .ok l.flatten

/-- The levels of every input obey R294, so far as R299 has it checked before any tile. -/
def EngEnv.levelsOk (e : EngEnv) (k : CBlock) : Eng Unit := do
  let _ ← ((k.ops.mapIdx fun m p => (m, p)).drop 1).mapM fun q => e.outerOf q.1 k q.2
  .ok ()

/-- How far some tiles of a contraction came. -/
inductive TilesRun where
  | done (s : State)
  | block (s : State)
  | stop (s : State) (e : EngStop)

/-- Store a tile and commit its lines (R298), tile by tile from those already stored. -/
def runTiles (o : SOp) (k : CBlock) : List OutTile → State → TilesRun
  | [], s => .done s
  | t :: ts, s =>
    match (s.engEnv o).tile k t with
    | .error e => .stop s e
    | .ok bs =>
      match s.storeBytes o.team o.core none o.dom bs with
      | .error b => .block (s.blockedBy o.team o.core none b)
      | .ok s1 =>
        let s2 := s1.updEng fun e => { e with sops := e.sops.map fun q => if q.id = o.id then { q with tiles := q.tiles + 1 } else q }
        match s2.commitLines o.team o.core none (s2.heldLines o.team (memLines (bs.map (·.1)))) with
        | (s3, true) => runTiles o k ts s3
        | (s3, false) => .block s3

/-- The lines of the tiles already stored that are not yet committed. -/
def State.sopHeld (s : State) (o : SOp) (k : CBlock) : List Nat :=
  let pas := ((outTiles k).take o.tiles).getLast?.toList.flatMap fun t => t.cells.filterMap fun c =>
    match (s.engEnv o).pa 0 (outAddr k c) Need.write with
    | .ok pa => some (Place.mem pa)
    | .error _ => none
  s.heldLines o.team (memLines pas)

/-- Set how many tiles of a contraction are stored; one more than it has where STATUS is stored too. -/
def State.setTiles (s : State) (id n : Nat) : State :=
  s.updEng fun e => { e with sops := e.sops.map fun q => if q.id = id then { q with tiles := n } else q }

/-- Write STATUS and the error fields, commit their line, and count (R298, R299). -/
def contractEnd (o : SOp) (k : CBlock) (err operand p a b : Nat) (s : State) : State :=
  let e := s.engEnv o
  let ws : Eng (List (Place × Byte) × Ctr) := do
    let c ← e.ctr k.ctr
    let (err, a, b) := match c with
      | .dead va => if err = 0 then (3, va % 2 ^ 32, va / 2 ^ 32) else (err, a, b)
      | _ => (err, a, b)
    let w0 ← e.put 0 (o.desc + 8) 4 (2 ^ 31 + operand * 256 + err)
    let w1 ← e.put 0 (o.desc + 0x0C) 4 p
    let w2 ← e.put 0 (o.desc + 0x10) 4 a
    let w3 ← e.put 0 (o.desc + 0x14) 4 b
    .ok (w0 ++ w1 ++ w2 ++ w3, c)
  match ws with
  | .error x => s.engStop o x
  | .ok (bs, ctr) =>
    match s.storeBytes o.team o.core none o.dom bs with
    | .error b => s.blockedBy o.team o.core none b
    | .ok s1 =>
      match s1.commitLines o.team o.core none (s1.heldLines o.team (memLines (bs.map (·.1)))) with
      | (s2, true) => s2.engDone o ctr
      | (s2, false) => s2.setTiles o.id ((outTiles k).length + 1)

/-- Count once the commit of STATUS is complete (R298). -/
def contractWait (o : SOp) (k : CBlock) (s : State) : State :=
  let e := s.engEnv o
  match (do let w ← e.put 0 (o.desc + 8) 16 0; let c ← e.ctr k.ctr; .ok (w, c) : Eng (List (Place × Byte) × Ctr)) with
  | .error x => s.engStop o x
  | .ok (ws, ctr) =>
    match s.commitLines o.team o.core none (s.heldLines o.team (memLines (ws.map (·.1)))) with
    | (s1, true) => s1.engDone o ctr
    | (s1, false) => s1

/-- Perform a contraction, or go on with it (R298). -/
def State.contract (s : State) (o : SOp) : State :=
  let k := cblock o.bytes
  let fin (s : State) (x : EngStop) : State :=
    match x with
    | .bad err m p a b => contractEnd o k err m p a b s
    | .dead m va => contractEnd o k 3 m 0 (va % 2 ^ 32) (va / 2 ^ 32) s
    | y => s.engStop o y
  if (outTiles k).length < o.tiles then contractWait o k s
  else
  match s.commitLines o.team o.core none (s.sopHeld o k) with
  | (s1, false) => s1
  | (s1, true) =>
    match if o.tiles = 0 then (s1.engEnv o).levelsOk k else .ok () with
    | .error x => fin s1 x
    | .ok _ =>
      match runTiles o k ((outTiles k).drop o.tiles) s1 with
      | .done s2 => contractEnd o k 0 0 0 0 0 s2
      | .block s2 => s2
      | .stop s2 x => fin s2 x

/-- CONTRACT_PERFORM (R298, R299). -/
def execContractPerform (team : Nat) (s : State) : Host.Outcome State Fault Refusal :=
  .next (match s.nextSop team with
    | some o => if o.merge then s else s.contract o
    | none => s)

end Sys2Proof.Machine
end

