-- ==== Sys2Proof/Machine/Keys.lean ====
section
/-! DEFINITION. Key regions (R300 to R320): KREG, signatures, KST with its Inserts, and KGATHER. -/

namespace Sys2Proof.Machine

/-! ## KREG -/

/-- The slot that a descriptor describes (R301), with its projection bits. -/
def kslotOf (num : Nat) (d rows : List Byte) (stale : Bool) : KSlot :=
  ⟨num, fld d 0 8, fld d 8 8, fld d 0x10 8, fld d 0x18 8, fld d 0x20 4, fld d 0x24 4, BitVec.ofNat 32 (fld d 0x28 4),
    BitVec.ofNat 32 (fld d 0x2C 4), rows, stale⟩

/-- The checks of a key-region descriptor (R306). -/
def kregChk (d : List Byte) : Chk Unit :=
  let k := kslotOf 0 d [] false
  let ctl := k.ctl.toNat
  let pool := k.opcnt != 0
  Chk.seq [
    deny (k.kbase % 64 != 0 || k.bbase % 64 != 0 || k.proj % 64 != 0 || (pool && k.opbase % 64 != 0)) MISALIGN,
    deny (2 ^ 56 ≤ k.kbase || 2 ^ 56 ≤ k.bbase || 2 ^ 56 ≤ k.proj || (pool && 2 ^ 56 ≤ k.opbase)) PROT,
    deny (bits ctl 28 4 != 0 || bits ctl 21 3 != 0 || ((List.range 26).any fun j => fld d (0x30 + 8 * j) 8 != 0) ||
      k.kt = 3 || k.nd % 8 != 0 || k.nb < 4 || 14 < k.nb || k.tmax = 0 || 2 ^ 24 < k.tmax || 2 ^ 24 < k.opcnt ||
      k.pgen == 0 || 2 ^ 32 < k.size) ILLOPND]

/-- The bytes of a projection block (R302). -/
def KSlot.rowBytes (k : KSlot) : Nat := k.nl * k.nb * k.nd / 8

/-- A key-region load of the context still awaits translation: it uses the slot as it was at its issue (R307). -/
def State.keyLoads (s : State) (ctx : Nat) : Bool :=
  s.crews.any fun c => c.ctx == ctx && c.pipe.inflight.any fun o => !o.translated && o.attr.space == .key

/-- Bind or unbind a slot of a context. -/
def State.setSlot (s : State) (ctx num : Nat) (k : Option KSlot) : State :=
  s.updCtx ctx fun c => { c with keys := match k with
    | some k => putBy KSlot.num k c.keys
    | none => c.keys.filter (·.num != num) }

/-- The key unit writes for a team outside every commit buffer; RESTART stays (R305, R313, R352). -/
def State.keyWrite (s : State) (team : Nat) (bs : List (Nat × Byte)) : State :=
  match s.team? team with
  | some t =>
    if t.audit.replay.isSome then (s.updTeam team (auditAdd bs)).exclude team
    else ((s.pkgWrite bs (some t.author)).exclude team).updGrid t.grid fun g => { g with wrote := true }
  | none => s

/-- KREG (R306, R307). -/
def execKreg (slot : BitVec 3) (a : Src) (s : State) : Host.Outcome State Fault Refusal :=
  Act.run (do
    let sh : Shape := ⟨none, [useA a 2]⟩
    let o ← begin' sh fine true false false lowRead
    let i ← theIssue
    let c ← theCrew
    let s ← get
    match lowest i.act with
    | none => finish sh o fun c _ => c
    | some l =>
      if s.keyLoads c.ctx then waitHere
      else do
        let c1 := s.blkChk c.ctx 64 (o.fa l).toNat 8
        let d ← readIf l c1
        let k0 := kslotOf slot.toNat d [] false
        let c2 : Chk Unit := c1.bind fun _ => kregChk d
        let c3 : Chk (List Nat) := c2.bind fun _ => s.blockPas c.ctx k0.proj ((k0.rowBytes + 31) / 32)
        let rows ← readIf l c3
        let c4 : Chk (List Nat) := c3.bind fun _ => s.blockPas c.ctx k0.bbase 1
        let head ← readIf l c4
        let fresh := fld head 0 4 = 0
        let pa ← settleOne o l (c4.bind fun _ => s.chkVa c.ctx k0.bbase (if fresh then Need.both else Need.read)) sh
        let k := { k0 with rows := rows.take k0.rowBytes, stale := !fresh && fld head 0 4 != k0.pgen.toNat }
        onlyIf fresh (modify fun s => s.keyWrite (c.teamOf l) (place pa (leBytes 4 k0.pgen.toNat)))
        modify fun s => s.setSlot c.ctx slot.toNat (some k)
        finish sh o fun c _ => c) s

/-- KREG.unbind (R306). -/
def execKregUnbind (slot : BitVec 3) (_la _ka : Bool) (s : State) : Host.Outcome State Fault Refusal :=
  Act.run (do
    let o ← begin' fenceShape fine true false
    let i ← theIssue
    let c ← theCrew
    let s ← get
    if i.act == 0 then finish fenceShape o fun c _ => c
    else if s.keyLoads c.ctx then waitHere
    else do
      set (s.setSlot c.ctx slot.toNat none)
      finish fenceShape o fun c _ => c) s

/-! ## Signatures (R308) -/

def KSlot.fmt (k : KSlot) : Fmt :=
  match k.kt with
  | 0 => bf16
  | 1 => fp16
  | _ => e4m3

/-- Bit (l, j, e) of the projection. -/
def KSlot.projBit (k : KSlot) (l j e : Nat) : Bool :=
  let n := (l * k.nb + j) * k.nd + e
  (nth k.rows (n / 8) 0).getLsbD (n % 8)

/-- The accumulator of one signature bit, as FP32 bits. -/
def KSlot.sigAcc (k : KSlot) (l j : Nat) (x : List Nat) : Nat :=
  ((x.mapIdx fun e v => (e, v)).foldl (fun (acc : Option Nat) p =>
    let y := decodeF k.fmt p.2
    let y := if k.projBit l j p.1 then y else y.negate
    some (accRound false (match acc with
      | none => y
      | some a => (sumV .rne [decodeF fp32 a, y]).1))) none).getD 0

/-- Bit `j` of a signature, and whether its accumulator is a NaN. -/
def KSlot.sigBit (k : KSlot) (l j : Nat) (x : List Nat) : Bool × Bool :=
  match decodeF fp32 (k.sigAcc l j x) with
  | .nan _ => (false, true)
  | .inf n => (!n, false)
  | .fin n m _ => (m = 0 || !n, false)

/-- A signature under table `l`, and whether it met a NaN. -/
def KSlot.signature (k : KSlot) (l : Nat) (x : List Nat) : Nat × Bool :=
  (List.range k.nb).foldl (fun p j =>
    let b := k.sigBit l j x
    (p.1 + b1 b.1 * 2 ^ j, p.2 || b.2)) (0, false)

/-- The elements of a key from its bytes. -/
def KSlot.elems (k : KSlot) (bs : List Byte) : List Nat := (List.range k.nd).map fun e => fld bs (e * k.es) k.es

/-! ## Buckets (R302, R303) -/

/-- The head block of bucket (h, l, g). -/
def KSlot.headBlock (k : KSlot) (h l g : Nat) : Nat := k.bbase + 64 + ((h * k.nl + l) * 2 ^ k.nb + g) * 64
def KSlot.poolBlock (k : KSlot) (n : Nat) : Nat := k.opbase + 64 * n

/-- The physical address of a block that is read. -/
def State.blockPa (s : State) (ctx va : Nat) : Chk Nat := s.chkVa ctx va Need.read

/-- A field of a block or header at package scope. -/
def State.homeFld (s : State) (pa off n : Nat) : Nat := leNat (s.mem.cells.read (pa + off) n)

/-- Has a head block overflowed (R303)? -/
def State.ovf (s : State) (head : Nat) : Bool := s.homeFld head 0x3E 2 % 2 = 1

/-- The blocks of a chain, from its head on, with their virtual and physical addresses. -/
def State.chainBlocks (s : State) (ctx : Nat) (k : KSlot) : (fuel va : Nat) → Chk (List (Nat × Nat))
  | 0, _ => .ok []
  | n + 1, va =>
    (s.blockPa ctx va).bind fun pa =>
      match s.homeFld pa 0x38 4 with
      | 0 => .ok [(va, pa)]
      | m + 1 => (s.chainBlocks ctx k n (k.poolBlock m)).bind fun r => .ok ((va, pa) :: r)

/-- Bytes at their places. -/
def numAt (pa n v : Nat) : List (Nat × Byte) := place pa (leBytes n v)

/-- Set bits of FLAGS of the region header (R303). -/
def State.setFlags (s : State) (team pa f : Nat) : State :=
  let old := s.homeFld pa 8 4
  if old ||| f = old then s else s.keyWrite team (numAt (pa + 8) 4 (old ||| f))

/-- What an Insert does: bytes at package scope, the bits of FLAGS that it sets, the place of the slot word if the token is
stored, and the blocks that it reads. -/
structure InsertPlan where
  home : List (Nat × Byte)
  flags : Nat
  slot : Option Nat
  reads : List Nat
deriving DecidableEq, Repr

/-- Insert(h, l, g, t) (R312), with the header's address where it is needed. `nan` says that the signature met a NaN (R308).
-/
def State.insertPlan (s : State) (ctx : Nat) (k : KSlot) (h l g : Nat) (nan : Bool) : Chk (InsertPlan × Nat) :=
  let hdr := s.chkVa ctx k.bbase Need.both
  let plain (p : InsertPlan) : Chk (InsertPlan × Nat) :=
    if nan then hdr.bind fun pa => .ok ({ p with flags := 1, reads := pa :: p.reads }, pa) else .ok (p, 0)
  let writable (va : Nat) := s.chkVa ctx va Need.both
  let headVa := k.headBlock h l g
  (s.blockPa ctx headVa).bind fun head =>
    if s.ovf head then plain ⟨[], 0, none, [head]⟩
    else
      (s.chainBlocks ctx k (k.opcnt + 1) headVa).bind fun blocks =>
        let (lastVa, last) := blocks.getLast?.getD (0, 0)
        let reads := blocks.map (·.2)
        let cnt := s.homeFld last 0x3C 2
        if cnt < 14 then
          (writable lastVa).bind fun _ => plain ⟨numAt (last + 0x3C) 2 (cnt + 1), 0, some (last + 4 * cnt), reads⟩
        else
          hdr.bind fun hpa =>
            let free := s.homeFld hpa 4 4
            if k.opcnt ≤ free then
              (writable headVa).bind fun _ => .ok (⟨numAt (head + 0x3E) 2 (s.homeFld head 0x3E 2 ||| 1), 4 + b1 nan, none,
                hpa :: reads⟩, hpa)
            else
              (writable lastVa).bind fun _ => (writable (k.poolBlock free)).bind fun pa =>
                .ok (⟨numAt (hpa + 4) 4 (free + 1) ++ numAt (last + 0x38) 4 (free + 1) ++ numAt (pa + 0x3C) 2 1, b1 nan,
                  some pa, hpa :: reads⟩, hpa)

/-! ## KST -/

def keySpaces : List Space := [.generic, .global, .constant]

/-- The places of the elements of a key or query. -/
def State.keySrc (s : State) (c : Crew) (team : Nat) (k : KSlot) (sp : Space) (ea : Nat) : Chk (List Place) :=
  (Chk.every ((List.range k.nd).map fun e =>
    s.resolve c team ⟨sp, (ea + e * k.es) % 2 ^ 64, k.es, k.es, Need.read, true⟩)).bind fun l => .ok (l.flatten.filterMap id)

/-- The addresses of the key of (t, h) (R302). -/
def State.keyDst (s : State) (ctx : Nat) (k : KSlot) (h t : Nat) : Chk (List Nat) :=
  let n := k.nd * k.es
  (Chk.every ((List.range (n / 8)).map fun j =>
    (s.chkVa ctx (k.kbase + (t * k.nh + h) * n + 8 * j) Need.write).bind fun pa =>
      .ok ((List.range 8).map (pa + ·)))).bind fun l => .ok l.flatten

/-- The checks of KST in a lane (R311), and what its work needs. -/
def State.kstChk (s : State) (c : Crew) (team slot : Nat) (sp : Space) (ea b : Nat) : Chk (KSlot × List Place × List Nat) :=
  match s.kslot? c.ctx slot with
  | none => .trap ILLOPND 0
  | some k =>
    let h := b / 2 ^ 24
    let t := b % 2 ^ 24
    Chk.bind (Chk.seq [deny (k.nh ≤ h || k.tmax ≤ t) ILLOPND, need (!k.stale) KEY_STALEPROJ]) fun _ =>
    (deny (ea % k.es != 0) MISALIGN).bind fun _ =>
      match s.keySrc c team k sp ea, s.keyDst c.ctx k h t with
      | .trap x y, _ => .trap x y
      | _, .trap x y => .trap x y
      | .ok ps, .ok ds => .ok (k, ps, ds)
      | .fault x y z, _ => .fault x y z
      | _, .fault x y z => .fault x y z

/-- A stale region is named in ARG (R197, R311). -/
def withArg {α : Type} (slot : Nat) : Chk α → Chk α
  | .trap code arg => if code = KEY_STALEPROJ then .trap code slot else .trap code arg
  | x => x

/-- KST (R309 to R311): a key-region load of the crew issued before it is performed first (R319). -/
def execKst (slot : BitVec 3) (a b : Src) (s : State) : Host.Outcome State Fault Refusal :=
  Act.run (withAttr fun i _ m => do
    let sh : Shape := ⟨none, [useA a 2, useB b]⟩
    let o ← begin' sh (fun _ _ _ => !keySpaces.contains m.space) true false
    let c ← theCrew
    let s ← get
    if isRel m.order && !s.released c c.pipe.serial m.scope then waitHere
    else if (c.pipe.inflight.any fun o => o.cls == some .k && !o.done) then waitHere
    else if 256 < (s.eng.kops.filter (·.crew == c.id)).length + (lanesOf i.act).length then waitHere
    else do
      let ls ← settle o fun _ n =>
        withArg slot.toNat (s.kstChk c (c.teamOf n) slot.toNat m.space (o.fa n).toNat (o.wb n).toNat)
      let s ← get
      let c ← theCrew
      let mk (j : Nat) (p : Nat × KSlot × List Place × List Nat) : KOp :=
        ⟨s.clock.nextId + j, c.id, c.teamOf p.1, p.2.1, (o.wb p.1).toNat / 2 ^ 24, (o.wb p.1).toNat % 2 ^ 24,
          p.2.2.1, p.2.2.2, [], 0, m.pdom, [], c.core, c.pipe.serial,
          if isAcq m.order && j + 1 = ls.length then some m.scope else none⟩
      let s := ls.foldl (fun s p => s.exclude (c.teamOf p.1)) s
      set ({ s with
        clock := { s.clock with nextId := s.clock.nextId + ls.length },
        eng := { s.eng with kops := s.eng.kops ++ ls.mapIdx mk } } : State)
      finish sh o fun c _ => c) s

/-- The context and the grid of a team. -/
def State.homeOf (s : State) (team : Nat) : Nat × Nat :=
  match (s.team? team).bind fun t => s.grid? t.grid with
  | some g => (g.ctx, g.id)
  | none => (0, 0)

/-- The oldest work of a crew. -/
def State.nextKop (s : State) (crew : Nat) : Option KOp := s.eng.kops.find? (·.crew == crew)

/-- An operation after one more step. It is performed after its last Insert, which the issue's acquire follows (R212,
R310). -/
def State.stepKop (s : State) (k : KOp) (f : KOp → KOp) : State :=
  let step (q : KOp) : Option KOp :=
    if q.id != k.id then some q else if k.slot.nl ≤ k.step then none else some { f q with step := q.step + 1 }
  let s1 := s.updEng fun e => { e with kops := e.kops.filterMap step }
  if k.slot.nl ≤ k.step then
    match k.acq, s1.crew? k.crew with
    | some sc, some c => s1.acquire c sc
    | _, _ => s1
  else s1

/-- The key of a lane enters the commit buffer (R311, R313). -/
def State.storeKey (s : State) (k : KOp) : State :=
  if s.readsPoison k.team k.src then s.consume k.team
  else
    let x := k.src.map (s.placeByte k.team)
    match s.storeBytes k.team k.core (some k.crew) k.dom ((k.dst.map Place.mem).zip x) with
    | .ok s1 => (s1.stepKop k fun q => { q with key := x }).rewake
    | .error b => s.blockedBy k.team k.core (some k.crew) b

/-- A failing address of the bucket area: a fault is served, and one that cannot be is a grid fault (R320). -/
def State.keyFault (s : State) (k : KOp) (c : Chk (InsertPlan × Nat)) : State :=
  let (_, grid) := s.homeOf k.team
  let fail := s.endGrid grid ⟨2, 0, s.gradeP k.team, (causeWord 0 0 PAGEFLT).toNat⟩
  match c with
  | .fault key va host => if k.unres.contains key then fail else s.addFault key va host
  | _ => fail

/-- One Insert of a lane's work (R312): reservations at package scope, the slot word through the commit buffer. -/
def State.insertKey (s : State) (k : KOp) (l : Nat) : State :=
  let (ctx, _) := s.homeOf k.team
  let sg := k.slot.signature l (k.slot.elems k.key)
  match s.insertPlan ctx k.slot k.head l sg.1 sg.2 with
  | .ok (p, hdr) =>
    let word := match p.slot with
      | some pa => numAt pa 4 k.tok
      | none => []
    if s.homePoison k.team p.reads then s.consume k.team
    else
      match s.storeBytes k.team k.core (some k.crew) k.dom (word.map fun q => (.mem q.1, q.2)) with
      | .ok s1 =>
        let s2 := if p.home.isEmpty then s1 else s1.keyWrite k.team p.home
        let s3 := if p.flags = 0 then s2 else s2.setFlags k.team hdr p.flags
        (s3.stepKop k id).rewake
      | .error b => s.blockedBy k.team k.core (some k.crew) b
  | c => s.keyFault k c

/-- KST_INSERT (R311 to R313): the next step of the crew's oldest lane operation. -/
def execKstInsert (crew : Nat) (s : State) : Host.Outcome State Fault Refusal :=
  .next (match s.nextKop crew with
    | some k => if k.step = 0 then s.storeKey k else s.insertKey k (k.step - 1)
    | none => s)

/-! ## KGATHER (R315 to R318) -/

/-- The checks of KGATHER in a lane (R316), and the places of its query. -/
def State.kgChk (s : State) (c : Crew) (team slot : Nat) (sp : Space) (ea b cap : Nat) : Chk (KSlot × List Place) :=
  match s.kslot? c.ctx slot with
  | none => .trap ILLOPND 0
  | some k =>
    Chk.bind (Chk.seq [deny (k.nh ≤ b / 2 ^ 24) ILLOPND, deny (ea % k.es != 0) MISALIGN,
      deny (b % 2 ^ 24 % 4 != 0 || s.scrSize team < b % 2 ^ 24 + 4 * cap) PROT]) fun _ =>
    (s.keySrc c team k sp ea).bind fun ps => .ok (k, ps)

/-- The buckets of a query (R317). -/
def KSlot.buckets (k : KSlot) (probe : Bool) (x : List Nat) : List (Nat × Nat) :=
  (List.range k.nl).flatMap fun l =>
    let g := (k.signature l x).1
    (l, g) :: if probe then (List.range k.nb).map fun j => (l, g ^^^ 2 ^ j) else []

/-- What a gather finds in a lane: its tokens, ascending, whether the dense path is needed, the flags met with the header's
address for them, and whether an error is consumed. -/
structure KFound where
  toks : List Nat
  dense : Bool
  flags : Nat
  hdr : Nat
  poison : Bool
deriving DecidableEq, Repr, Inhabited

/-- The slot words of the blocks of one bucket, in the team's view, and its overflow bit (R317). -/
def State.bucket (s : State) (ctx team : Nat) (k : KSlot) (h l g : Nat) : Chk (List Nat × Bool × Bool) :=
  (s.chainBlocks ctx k (k.opcnt + 1) (k.headBlock h l g)).bind fun blocks =>
    .ok (blocks.flatMap fun p => (List.range 14).map fun i => s.viewNat team ((List.range 4).map (p.2 + 4 * i + ·)),
      s.ovf ((blocks.head?.map (·.2)).getD 0), s.homePoison team (blocks.map (·.2)))

/-- The result of a lane (R317). Where it sets bits of FLAGS, the header's page is one of the bucket area's that are served
(R316). -/
def State.kfind (s : State) (ctx team : Nat) (k : KSlot) (probe : Bool) (h cap : Nat) (ps : List Place) : Chk KFound :=
  let x := k.elems (ps.map (s.placeByte team))
  (Chk.every ((k.buckets probe x).map fun b => s.bucket ctx team k h b.1 b.2)).bind fun bs =>
    let ws := (bs.flatMap (·.1)).filter (· != 2 ^ 32 - 1)
    let toks := (ws.filter (· < k.tmax)).foldl (fun l t => insNat t l) []
    let nan := (List.range k.nl).any fun l => (k.signature l x).2
    let flags := b1 nan + 2 * b1 (ws.any (k.tmax ≤ ·))
    let dense := k.stale || bs.any (·.2.1) || cap < toks.length
    let bad := s.readsPoison team ps || bs.any (·.2.2)
    if flags = 0 then .ok ⟨toks, dense, 0, 0, bad⟩
    else (s.chkVa ctx k.bbase Need.both).bind fun hdr => .ok ⟨toks, dense, flags, hdr, bad || s.homePoison team [hdr]⟩

/-- Wait in place for the bucket pages of some lanes (R316). -/
def waitFaults {α : Type} (fl : List (Nat × FaultKey × Nat × Bool)) : Act α := do
  modify fun s => fl.foldl (fun s p => s.addFault p.2.1 p.2.2.1 p.2.2.2) s
  modCrew fun c => c.mapLanes (maskOf fun n => fl.any (·.1 == n)) fun n l =>
    { l with faultOn := (fl.find? (·.1 == n)).map (·.2.1) }
  waitHere

/-- The query address of each lane of S, which KEY_DENSE puts into the handler's `h0`:`h1` (R387): register A, or the captured
operand of a re-injection. -/
def queriesOf (c : Crew) (i : Issue) (o : Opn) (a : Src) : List DWord :=
  if i.entry.isSome then o.a else (c.captureAll (0 < c.depthAt i.s) i.s [useA a 2]).a

/-- KGATHER (R315 to R318). -/
def execKgather (d : Rn) (a b : Src) (slot : BitVec 3) (fb : Fallback) (probe : Bool) (cap : BitVec 11) (s : State) :
    Host.Outcome State Fault Refusal :=
  Act.run (withAttr fun _ _ m => do
    let sh : Shape := ⟨some (d, 1), [useA a 2, useB b]⟩
    let o ← begin' sh (fun _ c _ => !keySpaces.contains m.space || notTeamLocal c) true false
    let i ← theIssue
    let c ← theCrew
    let qs := queriesOf c i o a
    let s ← get
    let n := 16 * cap.toNat
    if (s.eng.kops.any fun k => k.crew == c.id) || (isRel m.order && !s.released c c.pipe.serial m.scope) then waitHere
    else do
      let ls ← settle o fun _ l => s.kgChk c (c.teamOf l) slot.toNat m.space (o.fa l).toNat (o.wb l).toNat n
      let c ← theCrew
      let s ← get
      let rs := ls.map fun p => (p.1, ((s.kfind c.ctx (c.teamOf p.1) p.2.1 probe ((o.wb p.1).toNat / 2 ^ 24) n p.2.2).served
        (((c.lane p.1).map (·.unres)).getD [])))
      match trapOf rs with
      | some (code, arg, m) => raise o code arg m
      | none =>
        if !(faultLanes rs).isEmpty then waitFaults (faultLanes rs)
        else do
          let fs := okLanes rs
          match fs.find? (·.2.poison) with
          | some p => modify fun s => s.consume (c.teamOf p.1)
          | none => do
            modify fun s => fs.foldl (fun s p =>
              if p.2.flags = 0 then s else s.setFlags (c.teamOf p.1) p.2.hdr p.2.flags) s
            let dense := maskOf fun l => fs.any fun p => p.1 == l && p.2.dense
            if fb == .trap && dense != 0 then raise o KEY_DENSE slot.toNat dense none true qs
            else do
              modify fun s => fs.foldl (fun s p => s.scrPut (c.teamOf p.1)
                (place ((o.wb p.1).toNat % 2 ^ 24) ((p.2.toks.take n).flatMap (leBytes 4)))) s
              onlyIf (isAcq m.order) (modify fun s => s.acquire c m.scope)
              finish sh o fun c i =>
                let c1 := c.writeDst i sh fun l => BitVec.ofNat 64 (((fs.lookup l).map (·.toks.length)).getD 0)
                match fb with
                | .pred p => c1.writePred i p fun l _ => !has dense l
                | .trap => c1) s

end Sys2Proof.Machine
end

