-- ==== Sys2Proof/Machine/Launch.lean ====
section
/-! DEFINITION. Launch records (R341, R345) and LAUNCH (R344, R346). -/

namespace Sys2Proof.Machine

/-- The fields of a launch record (R341). -/
def launchRecOf (b : List Byte) : LaunchRec :=
  ⟨fld b 0 8, fld b 8 4, fld b 0xC 2, fld b 0xE 2, fld b 0x10 2, fld b 0x12 2, fld b 0x14 2, fld b 0x16 1, fld b 0x17 1,
    fld b 0x18 4, fld b 0x1C 2, max (fld b 0x1E 1) 1, fld b 0x1F 1, BitVec.ofNat 64 (fld b 0x20 8), fld b 0x28 8,
    fld b 0x30 1 % 16, bit (fld b 0x31 1) 0⟩

/-- A scratchpad size with the queues (R202, R341). -/
def LaunchRec.scrBytes (l : LaunchRec) : Nat := (l.scratch + 255) / 256 * 256
def LaunchRec.storeBytes (l : LaunchRec) : Nat := l.scrBytes + 16384 * l.nq

/-- Is a field of a launch record outside its range (R341, R345)? -/
def recRangeBad (b : List Byte) : Bool :=
  let l := launchRecOf b
  l.gx = 0 || l.gy = 0 || l.gz = 0 || l.tx = 0 || l.ty = 0 || l.tz = 0 || 1024 < l.tx || 1024 < l.ty || 1024 < l.tz ||
  !([8, 16, 32, 64].contains l.width) || 16 < l.regs || 524288 < l.scratch || 256 < l.tiles || 8 < fld b 0x1E 1 ||
  4 < l.nq || 16 ≤ fld b 0x30 1 || 2 ≤ fld b 0x31 1 || fld b 0x32 8 != 0 || fld b 0x3A 2 != 0 ||
  1024 < l.threads || 16 * l.width < l.threads || 524288 < l.storeBytes

/-- The checks of the bytes of a launch record (R345). -/
def recChk (b : List Byte) : Chk Unit :=
  let l := launchRecOf b
  Chk.seq [alignedTo 64 l.entry, alignedTo 4 l.ctr, topOk l.entry, topOk l.param.toNat, topOk l.ctr,
    deny (recRangeBad b) ILLOPND]

/-- The lanes of the teams that have more than four lanes in ACTIVE (R344). -/
def Crew.crowded (c : Crew) (m : LaneMask) : LaneMask :=
  maskOf fun n => has m n && 4 < ((lanesOf m).filter fun k => c.teamOf k == c.teamOf n).length

/-- Read the record that each lane's address names, where its checks pass. -/
def readRecs (chk : Nat → Chk (List Nat)) : List Nat → Act (List (Nat × List Byte))
  | [] => pure []
  | n :: ns => do
    let b ← readIf n (chk n)
    let r ← readRecs chk ns
    pure ((n, b) :: r)

/-- Is there room in the pending-launch queue of every team for its lanes? -/
def State.launchRoom (s : State) (c : Crew) (m : LaneMask) : Bool :=
  (c.teamsIn m).all fun u => (s.team? u).all fun t =>
    t.launchQ.length + ((lanesOf m).filter fun n => c.teamOf n == u).length ≤ 4

/-- The records of a LAUNCH while it waits for its commits: for each lane its number and 16 words. -/
def packRecs (ls : List (Nat × List Byte)) : List Word :=
  ls.flatMap fun p => BitVec.ofNat 32 p.1 :: (List.range 16).map fun i => BitVec.ofNat 32 (fld p.2 (4 * i) 4)

def unpackRec (d : List Word) (j : Nat) : Nat × List Byte :=
  (wd d (17 * j), (List.range 16).flatMap fun i => leBytes 4 (wd d (17 * j + 1 + i)))

/-- Append a lane's record to its team's queue; a replay launches nothing (R376). -/
def State.appendLaunch (s : State) (c : Crew) (o : Opn) (p : Nat × List Byte) : State :=
  let s1 := s.exclude (c.teamOf p.1)
  if s.isReplay (c.teamOf p.1) then s1
  else s1.updTeam (c.teamOf p.1) fun t => { t with launchQ := t.launchQ ++ [⟨p.2, (o.fa p.1).toNat, none, []⟩] }

/-- Begin the commits of a LAUNCH; RESTART is cleared (R344, R346). -/
def State.launchBegin (s : State) (c : Crew) (team : Nat) : State :=
  let s1 := s.clearRestart team
  if (s1.team? team).any fun t => !t.buf.isEmpty then s1.beginCommit team c.core (some c.id) fun _ => true else s1

/-- The first part of LAUNCH: its checks, the room in the queues, the release, and the commits begun. -/
def launchStart (o : Opn) : Act Unit := do
  let i ← theIssue
  let c ← theCrew
  let s ← get
  let crowd := c.crowded i.act
  if crowd != 0 then raise o ILLOPND 0 crowd
  else do
    let chk (n : Nat) : Chk (List Nat) := s.blkChk c.ctx 64 (o.fa n).toNat 2
    let recs ← readRecs chk (lanesOf i.act)
    let ls ← settle o fun _ n => (chk n).bind fun _ => (recChk ((recs.lookup n).getD [])).bind fun _ =>
      .ok ((recs.lookup n).getD [])
    let i ← theIssue
    let c ← theCrew
    let s ← get
    if !s.launchRoom c i.act then
      if mustStay c i then waitHere
      else endIssuing i.s fun n => .launchQ (((s.team? (c.teamOf n)).map (·.freed)).getD 0)
    else if !(s.released c c.pipe.serial .package && (c.teamsIn i.act).all s.commitsDone) then waitHere
    else do
      set ((c.teamsIn i.act).foldl (fun s u => s.launchBegin c u) s)
      modCrew fun c => { c with pipe := { c.pipe with stage := 1, desc := packRecs ls } }

/-- LAUNCH (R344). -/
def execLaunch (a : Src) (s : State) : Host.Outcome State Fault Refusal :=
  Act.run (do
    let sh : Shape := ⟨none, [useA a 2]⟩
    let o ← begin' sh fine true false
    let i ← theIssue
    let c ← theCrew
    if i.act == 0 then finish sh o fun c _ => c
    else do
      onlyIf (c.pipe.stage = 0) (launchStart o)
      let i ← theIssue
      let c ← theCrew
      let s ← get
      if (s.eng.commits.any fun k => k.crew == some c.id) || !s.launchRoom c i.act then waitHere
      else do
        let ls := ((List.range (c.pipe.desc.length / 17)).map (unpackRec c.pipe.desc)).filter fun p => has i.act p.1
        set (ls.foldl (fun s p => s.appendLaunch c o p) s)
        finish sh o fun c _ => c) s

end Sys2Proof.Machine
end

