-- ==== Sys2Proof/Machine/Engines.lean ====
section
/-! DEFINITION. The completion of copies (R218 to R221), of commits (R324, R330) and of the copies of phase numbers
(R328). -/

namespace Sys2Proof.Machine

/-! ## COPY_COMPLETE -/

/-- The bytes that a plain copy writes: those whose source and destination both lie inside their allocations (R221). -/
def State.copyBytes (s : State) (k : Copy) : List (Place × Byte) :=
  (k.dst.zip k.src).filterMap fun p =>
    match p with
    | (some d, some r) => some (d, s.placeByte k.team r)
    | _ => none

/-- Does a byte of the copy lie past an allocation (R221)? -/
def Copy.short (k : Copy) : Bool := k.dst.any Option.isNone || k.src.any Option.isNone

/-- The value of a reduction (R219). -/
def cpyRedValue (rd : CpyRed) (ty : RedTy) (old v : Nat) : Nat :=
  match rd, ty with
  | .add, .f32 => redValue .faddF32 32 v old
  | .add, _ => redValue .add 32 v old
  | .min, .f32 => (minMax32 false memEnv (BitVec.ofNat 32 old) (BitVec.ofNat 32 v)).1.toNat % 2 ^ 32
  | .max, .f32 => (minMax32 true memEnv (BitVec.ofNat 32 old) (BitVec.ofNat 32 v)).1.toNat % 2 ^ 32
  | .min, .i32 => redValue .minI 32 v old
  | .min, .n32 => redValue .minN 32 v old
  | .max, .i32 => redValue .maxI 32 v old
  | .max, .n32 => redValue .maxN 32 v old
  | .and, _ => redValue .and 32 v old
  | .or, _ => redValue .or 32 v old
  | .none, _ => v

/-- Combine one word of a copy at its home slice (R219); a replay combines it with its own bytes (R376). -/
def State.reduceWord (s : State) (k : Copy) (i : Nat) : State :=
  let ds := ((k.dst.drop (4 * i)).take 4).filterMap id
  let rs := ((k.src.drop (4 * i)).take 4).filterMap id
  let pas := ds.filterMap fun p => match p with
    | .mem pa => some pa
    | _ => none
  if pas.length != 4 || rs.length != 4 then s
  else
    let old := if s.isReplay k.team then s.viewNat k.team pas else leNat (pas.map s.mem.cells.get)
    let v := leNat (rs.map (s.placeByte k.team))
    s.homeWrite k.team (pas.zip (leBytes 4 (cpyRedValue k.rd k.ty old v)))

/-- The words of global memory that a copy writes. -/
def Copy.words (k : Copy) : List Nat :=
  (k.dst.filterMap fun p => match p with
    | some (.mem pa) => some (pa / 4 * 4)
    | _ => none).eraseDups

/-- One copy less on the token of the lane; its error bit where a byte lay past an allocation (R218, R221). The lane's
later loads of the words see the bytes, or bytes written after them (R220). -/
def Copy.land (k : Copy) (now : Nat) (toks : List Tok) (seen : List (Nat × Nat)) (wrote : List Nat) :
    List Tok × List (Nat × Nat) × List Nat :=
  let t := nth toks k.tok ⟨0, false⟩
  let toks1 := setNth toks k.tok ⟨t.count - 1, t.err || k.short⟩
  if k.rd = .none then (toks1, seen, (k.words ++ wrote).eraseDups)
  else (toks1, (k.words.map fun w => (w, now)) ++ seen.filter (fun p => !k.words.contains p.1), wrote)

/-- Is a lane of a crew the one whose copy this is? -/
def Copy.mine (k : Copy) (c : Crew) (l : Lane) : Bool :=
  match k.idx with
  | none => c.cox == some k.team
  | some i => c.cox.isNone && l.team == k.team && l.idx == i

/-- The lane of a copy after it (R218). -/
def Copy.landLane (k : Copy) (now : Nat) (c : Crew) (l : Lane) : Lane :=
  if k.mine c l then
    let x := k.land now l.toks l.seen l.wrote
    { l with toks := x.1, seen := x.2.1, wrote := x.2.2 }
  else l

/-- The record of a copy's thread after it (R218). -/
def Copy.landRec (k : Copy) (now : Nat) (r : Rec) : Rec :=
  if k.idx == some r.idx && r.team == k.team then
    let x := k.land now r.toks r.seen r.wrote
    { r with toks := x.1, seen := x.2.1, wrote := x.2.2 }
  else r

/-- The token of a copy wherever its thread stands (R218). -/
def State.landCopy (s : State) (k : Copy) : State :=
  let now := s.mem.now
  { s with
    crews := s.crews.map fun c => { c with lanes := c.lanes.map (Option.map (k.landLane now c)) },
    recs := s.recs.map (k.landRec now),
    eng := { s.eng with copies := s.eng.copies.filter (·.id != k.id) } }

/-- Complete a copy. -/
def State.finishCopy (s : State) (k : Copy) : State :=
  let core := k.core
  if s.readsPoison k.team (k.src.filterMap id) || (k.rd != .none && s.homePoison k.team (memBytes (k.dst.filterMap id))) then
    s.consume k.team
  else if k.rd = .none then
    match s.storeBytes k.team core (some k.crew) k.dom (s.copyBytes k) with
    | .ok s1 => (s1.landCopy k).rewake
    | .error b => s.blockedBy k.team core (some k.crew) b
  else (((List.range (k.dst.length / 4)).foldl (fun s i => s.reduceWord k i) s).landCopy k).rewake

/-- Does an earlier write of the copy's crew hold it up (R324)? -/
def State.copyHeld (s : State) (k : Copy) : Bool := (s.crew? k.crew).any fun c => s.forcing c k.serial

/-- The grid of a copy's team. -/
def State.copyGrid (s : State) (k : Copy) : Option Nat := (s.team? k.team).map (·.grid)

def State.copyAsked (s : State) (k : Copy) (n : Nat) : State :=
  s.updEng fun e => { e with copies := e.copies.map fun x => if x.id = k.id then { x with asked := n } else x }

/-- The reductions of a copy on a peer's page, word by word (R219, R406). -/
def State.askWords (s : State) (k : Copy) : State :=
  (List.range (k.dst.length / 4)).foldl (fun s i =>
    let part (l : List (Option Place)) : List Place := ((l.drop (4 * i)).take 4).filterMap id
    s.askAtomic (s.copyGrid k) (.copy k.id) (.copy k.rd k.ty) 4 (leNat ((part k.src).map (s.placeByte k.team)))
      (memBytes (part k.dst))) s

/-- A copy goes on: what it reads of a peer's pages is asked for, then its reductions there, and then it completes (R406). -/
def State.stepCopy (s : State) (k : Copy) : State :=
  let src := peerLines (memBytes (k.src.filterMap id))
  let dst := peerLines (memBytes (k.dst.filterMap id))
  if !s.answered (.copy k.id) then s
  else if k.asked = 0 && !src.isEmpty then (s.askLines (s.copyGrid k) (.copy k.id) src).copyAsked k 1
  else if k.asked ≤ 1 && k.rd != .none && !dst.isEmpty then (s.askWords k).copyAsked k 2
  else s.finishCopy k

/-- COPY_COMPLETE (R218). -/
def execCopyComplete (copy : Nat) (s : State) : Host.Outcome State Fault Refusal :=
  .next (match s.eng.copies.find? (·.id == copy) with
    | some k => if s.copyHeld k then s else s.stepCopy k
    | none => s)

/-! ## COMMIT_COMPLETE -/

/-- The commit point of a commit (R324), also where its team is gone; the lines of a replay enter no history (R376). -/
def State.finishCommit (s : State) (k : Commit) : State :=
  let s1 := s.updEng fun e => { e with commits := e.commits.filter (·.id != k.id) }
  let bs := k.lines.flatMap (·.bytes)
  let s2 := if k.keep then s1 else s1.toHost k.crew k.lines
  if (s1.team? k.team).isSome then (s2.publish k.team k.lines).rewake
  else if k.keep || bs.isEmpty then s2.rewake
  else (s2.commitWrite bs none).updGrid k.grid fun g => { g with wrote := true }

/-- The lines of a commit for host pages are at the host's coherence point (R336). -/
def State.hostReached (s : State) (id : Nat) : State :=
  (s.updEng fun e => { e with hostDue := e.hostDue.filter (·.1 != id) }).rewake

/-- COMMIT_COMPLETE (R324, R330, R336, R406): a commit point, once every peer has acknowledged its lines; afterwards its
lines for host pages reach the host's coherence point. -/
def execCommitComplete (commit : Nat) (s : State) : Host.Outcome State Fault Refusal :=
  .next (match s.eng.commits.find? (·.id == commit) with
    | some k => if k.unacked.isEmpty then s.finishCommit k else s
    | none => if s.eng.hostDue.any (·.1 == commit) then s.hostReached commit else s)

/-! ## PHASE_COPY_UPDATE -/

/-- PHASE_COPY_UPDATE (R328): a base die's copy takes the number. -/
def execPhaseCopyUpdate (ctx dom die : Nat) (s : State) : Host.Outcome State Fault Refusal :=
  .next (s.updCtx ctx fun c =>
    { c with pnCopy := setNth c.pnCopy die (setNth (nth c.pnCopy die []) dom (nth c.pn dom 0)) }).rewake

end Sys2Proof.Machine
end

