-- ==== Sys2Proof/Machine/Places.lean ====
section
/-! DEFINITION. Where teams can stand: register rows (R199), scratchpad and tile slots (R202, R230), Boathouse space
(R32, R162, R182, R239, R250, R360), and the criteria of R351. -/

namespace Sys2Proof.Machine

/-! ## Sizes -/

/-- The register rows of a team (R199). -/
def teamRows (roles : List Role) (width : Nat) : Nat := (roles.map fun r => r.crews * r.budget * width / 64).sum

def Grid.rows (g : Grid) : Nat := teamRows g.roles g.lr.width

/-- The role and budget of a crew of a team, by its number (R343). -/
def roleOfCrew : List Role → Nat → Role
  | [], _ => ⟨0, 0, 16⟩
  | [r], _ => r
  | r :: rs, n => if n < r.crews then r else roleOfCrew rs (n - r.crews)

/-- The budget of a thread's role. -/
def Grid.budgetOf (g : Grid) (idx : Nat) : Nat := (roleOfCrew g.roles (idx / max g.lr.width 1)).budget

def up64 (n : Nat) : Nat := (n + 63) / 64 * 64

/-- The largest record of a budget, with a cut extension of 16 entries, and an event-table entry (R32). -/
def recMax (budget : Nat) : Nat := up64 (0x60 + 4 * budget) + 128 + 64 * 16 + 32

/-- The save images of a team's tiles, half by half (R239). -/
def tileImages (n : Nat) : Nat :=
  (if n = 0 then 0 else up64 (0x100 + 16384 * min n 128)) + (if n ≤ 128 then 0 else up64 (0x100 + 16384 * (n - 128)))

/-- The Boathouse space of one team (R32, R162, R182, R239, R250, R360). -/
def Grid.area (g : Grid) : Nat :=
  let n := g.lr.threads
  ((List.range n).map fun i => recMax (g.budgetOf i)).sum + 16 * n + 1152 * n + tileImages g.lr.tiles +
  (if g.cox.isSome then 4096 else 0) + (g.lr.storeBytes + 1024)

/-! ## What a core holds -/

/-- The teams that hold resources on a core: placed, vacated and not claimed, or retiring. -/
def Team.holds (t : Team) : Bool := t.mode == .placed || t.mode == .vacated || t.mode == .retiring

def State.residents (s : State) (core : Nat) : List Team :=
  s.sched.teams.filter fun t => t.core == core && t.holds

/-- The rows granted on a core (R199, R354). -/
def State.grantedRows (s : State) (core : Nat) : Nat :=
  ((s.residents core).map (·.res.rows)).sum +
  ((s.sched.grants.filter fun g => g.2.1 == core).map (·.2.2)).sum

/-- The bytes of a team's scratchpad and queues. -/
def TeamRes.bytes (r : TeamRes) : Nat := r.ssize + 16384 * r.nq

/-- Do two ranges meet? -/
def rangesMeet (a m b n : Nat) : Bool := a < b + n && b < a + m && m != 0 && n != 0

/-- The lowest free start among candidates for a range of size `n` below `cap`. -/
def freeStart (taken : List (Nat × Nat)) (cap n : Nat) (cands : List Nat) : Option Nat :=
  cands.find? fun b => b + n ≤ cap && taken.all fun t => !rangesMeet b n t.1 t.2

/-- The lowest free range: it starts at 0 or behind one that is taken. -/
def lowestFree (taken : List (Nat × Nat)) (cap n : Nat) : Option Nat :=
  let cands := 0 :: taken.map fun t => t.1 + t.2
  leastNat (cands.filter fun b => freeStart taken cap n [b] == some b)

/-- Where a scratchpad of a size fits on a core beside the given teams (R202, R351). -/
def scratchAt (ts : List Team) (n : Nat) : Option Nat :=
  lowestFree (ts.map fun t => (t.res.sbase, t.res.bytes)) 524288 n

/-- Where tile slots fit on a core beside the given teams (R230, R351). -/
def tilesAt (ts : List Team) (n : Nat) : Option Nat := lowestFree (ts.map fun t => (t.res.tslot, t.res.ntiles)) 256 n

/-- The teams with tiles on a core: not on their way to another (R44). -/
def State.tileResidents (s : State) (core : Nat) : List Team :=
  s.sched.teams.filter fun t => t.res.tcore == core && t.res.ntiles != 0 && t.res.tgo.isNone && t.holds

/-! ## Service and context (R351) -/

/-- Is the core one of an enabled die, not withdrawn, of a cluster whose teams may be placed (R351, R379)? -/
def State.inService (s : State) (core : Nat) : Bool :=
  core < 256 && s.chip.dieOn (dieOf core) && !(s.core core).withdrawn && (s.cluster (clusterOf core)).st == .inService

/-- Is a core open to a context: neither closed, nor granted to another's request (R351, R358, R362)? -/
def State.openTo (s : State) (ctx core : Nat) : Bool :=
  match (s.core core).vac with
  | none => true
  | some v => v.vacant && v.granted.any fun r => s.sched.requests.any fun q => q.id == r && q.who == .ctx ctx

/-- Is a cluster in the set that a tenant's contexts may use (R351, R395)? -/
def State.clusterFor (s : State) (tenant cl : Nat) : Bool :=
  match s.tenant? tenant with
  | none => false
  | some t =>
    if t.clmask != 0 then t.clmask.getLsbD cl
    else s.host.tenants.all fun u => !u.clmask.getLsbD cl

/-- May a context use a core at all (R337, R351)? -/
def State.usable (s : State) (c : Ctx) (core : Nat) : Bool :=
  (c.d.vdies.any fun v => c.d.vdie v == some (dieOf core)) && s.clusterFor c.d.tenant (clusterOf core)

/-- The cores of a context in ascending virtual order (R354). -/
def CtxDesc.cores (d : CtxDesc) : List Nat :=
  d.vdies.flatMap fun v => match d.vdie v with
    | some p => (List.range 32).map (32 * p + ·)
    | none => []

/-- What a team would take on a core: its place. `claim` lists the vacated teams whose space it takes (R360). -/
structure Fit where
  core : Nat
  sbase : Nat
  tslot : Nat
  claim : List Nat
deriving DecidableEq, Repr, Inhabited

/-- The vacated teams on a core that a grid may claim: those of other grids (R360). -/
def State.claimable (s : State) (g : Grid) (core : Nat) : List Nat :=
  ((s.residents core ++ s.tileResidents core).filter fun t => t.mode == .vacated && t.grid != g.id).map (·.uid)

/-- Where a range may start beside others: at 0 or behind one of them, ascending. -/
def starts (taken : List (Nat × Nat)) : List Nat := (0 :: taken.map fun t => t.1 + t.2).foldl (fun l n => insNat n l) []

/-- A placement at a scratchpad base and a first tile slot: the teams whose resources lie within the space taken are
claimed, where all of them may be (R351, R360). `gone` are claimed in any case. -/
def State.fitAt (s : State) (g : Grid) (core : Nat) (gone : List Nat) (b k : Nat) : Option Fit :=
  let ts := (s.residents core).filter fun t => !gone.contains t.uid
  let tt := (s.tileResidents core).filter fun t => !gone.contains t.uid
  let claim := ((ts.filter fun t => rangesMeet b g.lr.storeBytes t.res.sbase t.res.bytes) ++
    tt.filter fun t => rangesMeet k g.lr.tiles t.res.tslot t.res.ntiles).map (·.uid)
  let stay := ts.filter fun t => !claim.contains t.uid
  if 524288 < b + g.lr.storeBytes || 256 < k + g.lr.tiles || 16 ≤ stay.length ||
      !(claim.all (s.claimable g core).contains) ||
      (g.cox.isSome && stay.any fun t => (s.grid? t.grid).any (·.cox.isSome)) then none
  else some ⟨core, b, k, claim.eraseDups⟩

/-- The placements on a core, the lowest places first. -/
def State.fits (s : State) (g : Grid) (core : Nat) (gone : List Nat) : List Fit :=
  let ts := (s.residents core).filter fun t => !gone.contains t.uid
  let tt := (s.tileResidents core).filter fun t => !gone.contains t.uid
  (starts (ts.map fun t => (t.res.sbase, t.res.bytes))).flatMap fun b =>
    (starts (tt.map fun t => (t.res.tslot, t.res.ntiles))).filterMap fun k => s.fitAt g core gone b k

/-- The placement that claims the fewest teams, the first of those. -/
def fewestClaims : List Fit → Option Fit
  | [] => none
  | f :: fs =>
    match fewestClaims fs with
    | some x => if x.claim.length < f.claim.length then some x else some f
    | none => some f

/-- A team of a grid on a core: with no claim if it can be (R351, R360). -/
def State.fit (s : State) (g : Grid) (core : Nat) (gone : List Nat := []) : Option Fit :=
  match s.ctx? g.ctx with
  | none => none
  | some c =>
    if !(s.inService core && s.openTo g.ctx core && s.usable c core) || 2048 < s.grantedRows core + g.rows then none
    else if (s.core core).reserved.any fun r => r != g.id && (s.grid? r).any fun h =>
        h.fin.isNone && h.next < h.stop && g.prio ≤ h.prio then none
    else fewestClaims (s.fits g core gone)

/-- Does the Boathouse area cover one more team (R32, R351)? -/
def State.areaFits (s : State) (g : Grid) (n : Nat) : Bool :=
  (s.ctx? g.ctx).any fun c => c.reserved + n * g.area ≤ c.d.bhsize

/-- The better of two cores (R354): fewest granted rows, then fewest resident teams, then the first. -/
def State.betterCore (s : State) (a b : Fit) : Fit :=
  let ra := s.grantedRows a.core
  let rb := s.grantedRows b.core
  if ra < rb then a
  else if rb < ra then b
  else if (s.residents a.core).length ≤ (s.residents b.core).length then a else b

/-- Fits that need no claim come first (R360). -/
def noClaims (fs : List Fit) : List Fit := if fs.any (·.claim.isEmpty) then fs.filter (·.claim.isEmpty) else fs

/-- The choice of a core (R354) among some. -/
def State.chooseCore (s : State) (g : Grid) (cores : List Nat) : Option Fit :=
  match noClaims (cores.filterMap (s.fit g)) with
  | [] => none
  | f :: fs => some (fs.foldl s.betterCore f)

/-- One fit for each of `n` members on distinct cores of a cluster, in order. -/
def State.fitMany (s : State) (g : Grid) (n : Nat) (cores gone : List Nat) : Option (List Fit) :=
  let fs := cores.filterMap fun k => s.fit g k gone
  let l := (noClaims fs).take n
  let l := if l.length = n then l else fs.take n
  if l.length = n then some l else none

def clusterCores (cl : Nat) : List Nat := (List.range 8).map (8 * cl + ·)

/-- The clusters of a context in ascending virtual order. -/
def CtxDesc.clusters (d : CtxDesc) : List Nat := (d.cores.map clusterOf).eraseDups

def State.clusterRows (s : State) (cl : Nat) : Nat := ((clusterCores cl).map s.grantedRows).sum

/-- The members of multi-team sets that a cluster holds (R248). -/
def State.setMembers (s : State) (cl : Nat) : List Team :=
  s.sched.teams.filter fun u => u.holds && clusterOf u.core == cl && (s.grid? u.grid).any fun h => (h.setOf u.index).isSome

/-- Places for a set of `n` members on a cluster (R248, R354): it holds no other multi-team set. A set of another grid whose
members are all vacated gives way: they are claimed, since the cluster's barriers serve one set (R247, R360). -/
def State.setOn (s : State) (g : Grid) (n cl : Nat) : Option (List Fit) :=
  let ms := s.setMembers cl
  if ms.any fun u => u.mode != .vacated || u.grid == g.id then none
  else
    let gone := ms.map (·.uid)
    match s.fitMany g n (clusterCores cl) gone with
    | some (f :: fs) => some ({ f with claim := (gone ++ f.claim).eraseDups } :: fs)
    | _ => none

/-- A cluster for a set of `n` present members (R354), one that needs no claim if there is one (R360). -/
def State.chooseCluster (s : State) (g : Grid) (n : Nat) (cls : List Nat) : Option (Nat × List Fit) :=
  let all := cls.filterMap fun cl => (s.setOn g n cl).map fun f => (cl, f)
  let free := all.filter fun x => x.2.all (·.claim.isEmpty)
  match if free.isEmpty then all else free with
  | [] => none
  | x :: xs => some (xs.foldl (fun a b => if s.clusterRows b.1 < s.clusterRows a.1 then b else a) x)

/-! ## Save images of tiles (R239, R240) -/

/-- A team's tile, unconfigured where it was never configured. -/
def Team.tileOr (t : Team) (k : Nat) : Tile := (t.tile? k).getD ⟨k, 0, .f32, 1, 1, [], 0⟩

/-- How many tiles of a half a team has. -/
def TeamRes.half (r : TeamRes) (h : Nat) : Nat := min 128 (r.ntiles - 128 * h)

/-- How many tile halves a team has. -/
def TeamRes.halves (r : TeamRes) : Nat := if r.ntiles = 0 then 0 else if r.ntiles ≤ 128 then 1 else 2

/-- The size of a half's image (R239). -/
def TeamRes.imgSize (r : TeamRes) (h : Nat) : Nat := up64 (0x100 + 16384 * r.half h)

def tileCode : TileTy → Nat
  | .f32 => 0
  | .f16 => 1
  | .bf16 => 2
  | .i32 => 3

def tileTy (n : Nat) : TileTy :=
  match n with
  | 0 => .f32
  | 1 => .f16
  | 2 => .bf16
  | _ => .i32

/-- The directory entry of a tile (R239). -/
def Tile.entry (x : Tile) : Nat :=
  if x.st = 0 then 0 else (x.cols - 1) * 2 ^ 10 + (x.rows - 1) * 2 ^ 4 + tileCode x.ty * 4 + x.st

/-- What a save writes of a half, by offset in the image: the directory, and each dirty tile (R239). -/
def Team.tileImage (t : Team) (half : Nat) : List (Nat × List Byte) :=
  let n := t.res.half half
  (0, (List.range 128).flatMap fun k => leBytes 2 (if k < n then (t.tileOr (128 * half + k)).entry else 0)) ::
  (List.range n).filterMap fun k =>
    let x := t.tileOr (128 * half + k)
    if x.st = 2 then some (0x100 + 16384 * k, x.elems.flatMap fun w => leBytes (tyEs x.ty) w.toNat) else none

/-- The bytes of a block at an address, cut at 64-byte lines. -/
def lines64 (va : Nat) : (fuel : Nat) → List Byte → List (Nat × List Byte)
  | 0, _ => []
  | _, [] => []
  | n + 1, l => (va, l.take 64) :: lines64 (va + 64) n (l.drop 64)

/-- Write a block of an image where its pages can be reached; the device keeps the rest (log entry 110). -/
def State.storeImage (s : State) (c : Ctx) (va : Nat) (bs : List Byte) : State :=
  (lines64 va bs.length bs).foldl (fun s l =>
    match s.translate c l.1 Need.write with
    | .ok pa => { s with mem := s.mem.write (place pa l.2) }
    | _ => s) s

/-- The physical addresses of `n` bytes of an image, where all of its pages can be reached. -/
def State.imagePas (s : State) (c : Ctx) (va n : Nat) : Option (List Nat) :=
  let line (i : Nat) : Option (List Nat) :=
    match s.translate c (va + 64 * i) Need.read with
    | .ok pa => some ((List.range 64).map (pa + ·))
    | _ => none
  ((List.range ((n + 63) / 64)).mapM line).map fun (l : List (List Nat)) => l.flatten.take n

/-- The images that lie in a context's Boathouse area. -/
def State.images (s : State) (ctx : Nat) : List (Nat × Nat) :=
  (s.sched.teams.filter fun t => t.mode == .saved && (s.grid? t.grid).any (·.ctx == ctx)).flatMap fun t =>
    t.res.imgs.mapIdx fun h a => (a, t.res.imgSize h)

/-- An address for an image of `n` bytes in the area, beside the images that lie there; which one is not fixed (R239, log entry
110). -/
def imageAt (d : CtxDesc) (taken : List (Nat × Nat)) (team half n : Nat) : Nat :=
  let ok := (d.bhbase :: taken.map fun t => t.1 + t.2).filter fun a =>
    a + n ≤ d.bhbase + d.bhsize && taken.all fun t => !rangesMeet a n t.1 t.2
  nth ok (Config.imageAddr team half % max ok.length 1) d.bhbase

/-- Save a team's tiles (R239): the images are written, and the handles name them. -/
def State.saveTiles (s : State) (uid : Nat) : State :=
  match s.team? uid, ((s.team? uid).bind fun t => s.grid? t.grid).bind fun g => s.ctx? g.ctx with
  | some t, some c =>
    (List.range t.res.halves).foldl (fun s h =>
      let a := imageAt c.d (s.images c.id) uid h (t.res.imgSize h)
      (((t.tileImage h).foldl (fun s p => s.storeImage c (a + p.1) p.2) s)).updTeam uid fun t =>
        { t with res := { t.res with imgs := t.res.imgs ++ [a] } }) s
  | _, _ => s

/-- A tile as its image gives it: a dirty one is loaded, a clean one zero, with the NEXTSEQ that the device kept (R240). -/
def loadTile (num : Nat) (nextSeq : Word) (e : Nat) (bs : List Byte) : Tile :=
  let ty := tileTy (bits e 2 2)
  let rows := bits e 4 6 + 1
  let cols := bits e 10 6 + 1
  let st := if bits e 0 2 = 3 then 0 else bits e 0 2
  ⟨num, st, ty, rows, cols, (List.range (rows * cols)).map fun i =>
    if st = 2 then BitVec.ofNat 32 (fld bs (tyEs ty * i) (tyEs ty)) else 0, nextSeq⟩

/-- The bytes of a half's image that a restore reads: the directory, and the dirty tiles. -/
def State.imageReads (s : State) (c : Ctx) (t : Team) (h : Nat) : List Nat :=
  let a := nth t.res.imgs h 0
  let dir := (s.imagePas c a 256).getD []
  dir ++ (List.range (t.res.half h)).flatMap fun k =>
    let e := leNat (((dir.drop (2 * k)).take 2).map s.mem.cells.get)
    if bits e 0 2 = 2 then
      (s.imagePas c (a + 0x100 + 16384 * k) ((bits e 4 6 + 1) * (bits e 10 6 + 1) * tyEs (tileTy (bits e 2 2)))).getD []
    else []

/-- Load a team's tiles from their images (R240), where these can be reached. -/
def State.loadTiles (s : State) (c : Ctx) (t : Team) : List Tile :=
  (List.range t.res.halves).flatMap fun h =>
    let a := nth t.res.imgs h 0
    match s.imagePas c a 256 with
    | none => (t.tiles.filter fun x => x.num / 128 == h)
    | some dir => (List.range (t.res.half h)).map fun k =>
      let num := 128 * h + k
      let e := leNat (((dir.drop (2 * k)).take 2).map s.mem.cells.get)
      let n := (bits e 4 6 + 1) * (bits e 10 6 + 1) * tyEs (tileTy (bits e 2 2))
      match s.imagePas c (a + 0x100 + 16384 * k) n with
      | some pas => loadTile num (t.tileOr num).nextSeq e (pas.map s.mem.cells.get)
      | none => t.tileOr num

/-! ## Taking and leaving resources -/

/-- A vacated team is claimed: its tiles and scratch image are saved, and its space is free (R239, R360). -/
def State.claim (s : State) (us : List Nat) : State :=
  us.foldl (fun s u => (s.saveTiles u).updTeam u fun t => { t with mode := .saved, res := { t.res with rows := 0, tgo := none } }) s

/-- Put a team's resources on a core (R351). -/
def State.takePlace (s : State) (g : Grid) (uid : Nat) (f : Fit) : State :=
  let s1 := (s.claim f.claim).updTeam uid fun t =>
    { t with core := f.core, mode := .placed,
             res := { t.res with tcore := f.core, rows := g.rows, sbase := f.sbase, ssize := g.lr.scrBytes, nq := g.lr.nq,
                                 tslot := f.tslot, ntiles := g.lr.tiles, tgo := none, imgs := [] } }
  s1.updCore f.core fun k => { k with
    vac := k.vac.map fun v => { v with used := true },
    reserved := if k.reserved == some g.id then none else k.reserved }

end Sys2Proof.Machine
end

