-- ==== Sys2Proof/Machine/Records.lean ====
section
/-! DEFINITION. Continuation records: their bytes (R25 to R29), writing them (R20 to R22, R39, R44), the levels of the
Boathouse (R30, R31), the parking of token waits (R69), the active set (R16), and the judgement of R361. -/

namespace Sys2Proof.Machine

/-! ## The bytes of a record -/

/-- Does the binding of a KIND-2 FWD to a core hold: is the core neither closed nor withdrawn (R34)? -/
def State.boundCore (s : State) (k : Nat) : Bool :=
  (s.core k).vac.isNone && !(s.core k).withdrawn && (s.cluster (clusterOf k)).st != .withdrawn

/-- The WAIT kind of a record (R28). -/
def Wait.kind : Wait → Nat
  | .none => 0
  | .token _ => 1
  | .word .. => 2
  | .counter .. => 3
  | .phase .. => 4
  | .tbar .. => 5
  | .cbar .. => 6
  | .launchQ _ => 7
  | .fault _ => 8
  | .neighbour .. => 9
  | .cut _ => 10

/-- The event index or cut serial (R28). -/
def Rec.eventIndex (r : Rec) : Nat :=
  match r.wait with
  | .none => 0
  | .cut n => n
  | _ => r.event

/-- The code of a token's state (R26, R220). -/
def Tok.code (t : Tok) : Nat := if 0 < t.count then 1 else if t.err then 2 else 0

def toksCode (ts : List Tok) : Nat := (ts.mapIdx fun i t => t.code * 4 ^ i).sum

/-- GUARD of a record (R26). -/
def runCode : Option Run → Nat
  | none => 0
  | some r => r.left + 8 * b1 r.neg + 16 * r.pred

/-- The target that a team's tiles are on their way to (R44): one core, unless its binding has lapsed (R34). -/
def State.tilesTo (s : State) (t : Team) : Option FwdTarget :=
  t.res.tgo.map fun f => match f with
    | .core k => if s.boundCore k then .core k else .cluster (clusterOf k)
    | f => f

/-- A tile handle (R26): the slot of the half's first tile, or its image. While the tiles are on their way it names the
target's first core (log entry 111). -/
def State.tileHandle (s : State) (t : Team) (half : Nat) : Nat :=
  if t.mode == .saved then 2 ^ 62 + nth t.res.imgs half 0 % 2 ^ 56 / 64 * 64
  else
    let k := ((s.tilesTo t).bind fun f => f.cores.head?).getD t.res.tcore
    let v := ((((s.grid? t.grid).bind fun g => s.ctx? g.ctx).map fun (c : Ctx) => c.d.vcore k)).getD 0
    v * 2 ^ 32 + t.res.tslot + 128 * half

/-- How many tile handles a team's records have (R26, R230). -/
def Team.handles (t : Team) : Nat := if t.mode == .restarted then 0 else t.res.halves

/-- FLAGS of a record (R26). -/
def Rec.flags (r : Rec) (th : Nat) : Nat :=
  2 ^ 15 * b1 r.cut.isSome + 2 ^ 10 * ((r.cut.map (·.entries.length)).getD 0) + 2 ^ 9 * b1 (1 < th) + 2 ^ 8 * b1 (0 < th) +
  2 ^ 7 * b1 r.preoff + 2 ^ 6 * b1 r.idem + 2 ^ 5 * b1 r.tl + 2 ^ 4 * b1 r.poison +
  2 ^ 3 * b1 (r.cut.any fun x => x.lv.cur.masked) + 2 * ((r.cut.map (·.depth)).getD 0) + b1 r.restartable

/-- The header of a record (R26). -/
def State.recHeader (s : State) (r : Rec) : List Byte :=
  let t := s.team? r.team
  let g := s.grid? r.grid
  let ix := (t.map (·.index)).getD 0
  let co (k : Nat) : Nat := (g.map fun g => coord ix g.lr.gx g.lr.gy k).getD 0
  let th := (t.map (·.handles)).getD 0
  let h (k : Nat) : Nat := if k < th then (t.map fun t => s.tileHandle t k).getD 0 else 0
  leBytes 8 r.resume ++ leBytes 1 r.ctx ++ leBytes 1 r.width ++ leBytes 2 (r.flags th) ++
  leBytes 4 ((g.map (·.gid)).getD 0) ++ leBytes 4 (co 0) ++ leBytes 2 (co 1) ++ leBytes 2 (co 2) ++ leBytes 2 r.idx ++
  leBytes 1 r.wb ++ leBytes 1 r.dom ++ leBytes 4 r.num.toNat ++ leBytes 6 (r.preds ||| 1#48 <<< 47).toNat ++
  leBytes 2 (toksCode r.toks) ++ leBytes 4 (r.wait.kind + 16 * r.eventIndex) ++ leBytes 2 (runCode r.run) ++ leBytes 2 0 ++
  leBytes 8 (h 0) ++ leBytes 8 (h 1)

/-- A replay entry for a lane (R29). -/
def Entry.image (e : Entry) (lane : Nat) : List Byte :=
  leBytes 4 e.w0 ++ leBytes 4 (e.w1.getD 0) ++ leBytes 4 (e.lit.getD 0) ++ leBytes 4 e.grdW ++ leBytes 4 e.preW ++
  leBytes 1 (b1 (has e.part lane)) ++ leBytes 3 0 ++ leBytes 8 (nth e.a lane 0).toNat ++ leBytes 8 (nth e.b lane 0).toNat ++
  leBytes 8 (nth e.c lane 0).toNat ++ leBytes 16 0

/-- TRAPMASK of a cut lane (R29, R177). -/
def CutExt.trapMask (x : CutExt) : Nat :=
  2 ^ 15 * b1 x.lv.cur.masked + 2 ^ 14 * b1 x.lv.cur.pmasked +
  (match x.saves.head?.bind (·.run) with
    | some r => r.left * 2 ^ 11 + b1 r.neg * 2 ^ 10 + r.pred * 2 ^ 4
    | none => 0) + 2 * b1 x.bkpten + b1 x.poisonEn

/-- The cut extension (R29). -/
def CutExt.image (x : CutExt) : List Byte :=
  let f := x.lv.cur
  ((List.range 16).flatMap fun n => leBytes 4 (if x.depth = 0 then 0 else (nth x.h n (0, false)).1.toNat)) ++
  leBytes 8 f.trappc.toNat ++ leBytes 8 f.epc.toNat ++ leBytes 2 f.cause.toNat ++
  leBytes 1 (8 * b1 x.lv.k2 + 4 * b1 x.lv.k1 + x.depth) ++ leBytes 1 (b1 (f.emask.getLsbD x.lane)) ++
  leBytes 4 f.eimm.toNat ++ leBytes 4 f.efields.toNat ++ leBytes 4 f.epfx.toNat ++ leBytes 2 f.eop.toNat ++
  leBytes 2 x.trapMask ++ leBytes 28 0 ++ x.entries.flatMap fun e => e.image x.lane

/-- The bytes of a record (R25). -/
def State.recImage (s : State) (r : Rec) : List Byte :=
  let live := (List.range 256).foldl (fun m n => if r.live.any (·.1 == n) then m + 2 ^ n else m) 0
  let vals := (List.range 256).flatMap fun n => match r.live.lookup n with
    | some v => leBytes 4 v.toNat
    | none => []
  let m := r.live.length
  s.recHeader r ++ leBytes 32 live ++ vals ++ leBytes (up64 (0x60 + 4 * m) - (0x60 + 4 * m)) 0 ++
  (match r.cut with
    | some x => x.image
    | none => [])

/-- The size of a record (R25). -/
def Rec.bytes (r : Rec) : Nat :=
  up64 (0x60 + 4 * r.live.length) + (match r.cut with
    | some x => 128 + 64 * x.entries.length
    | none => 0)

/-! ## Levels of the Boathouse -/

/-- The bytes in a cluster's record store (R30). -/
def State.storeUsed (s : State) (cl : Nat) : Nat :=
  ((s.recs.filter fun r => r.bin.level == 1 && r.bin.cluster == cl).map Rec.bytes).sum

def storeSize : Nat := 262144

/-- Is there room for `n` more bytes in a cluster's record store (R30, R31)? -/
def State.storeRoom (s : State) (cl n : Nat) : Bool := s.storeUsed cl + n ≤ storeSize

/-- The bytes of the records at level 1 among some. -/
def levelOne (rs : List Rec) : Nat := ((rs.filter (·.bin.level == 1)).map Rec.bytes).sum

/-- The oldest-written record among some. -/
def oldestWritten : List Rec → Option Rec
  | [] => none
  | r :: rs =>
    match oldestWritten rs with
    | none => some r
    | some q => some (if q.bin.written < r.bin.written then q else r)

/-- The record that leaves a store first (R31): the oldest that is not ready, else the oldest. -/
def State.spills (s : State) (cl : Nat) : Option Rec :=
  let rs := s.recs.filter fun r => r.bin.level == 1 && r.bin.cluster == cl
  (oldestWritten (rs.filter fun r => !r.bin.ready)).orElse fun _ => oldestWritten rs

def State.setLevel (s : State) (r : Rec) (n : Nat) : State :=
  let k := s.clock.nextId
  { s.updRec r.team r.idx fun q => { q with bin := { q.bin with level := n, written := k } } with
    clock := { s.clock with nextId := k + 1 } }

/-- Level 2 holds what the context's LLC quota allows; the least recently written leave to level 3 (R30, R31). -/
def State.evict (s : State) (c : Ctx) : Nat → State
  | 0 => s
  | n + 1 =>
    let rs := s.recs.filter fun r => r.ctx == c.id && r.bin.level == 2
    if (rs.map Rec.bytes).sum ≤ c.d.bhllc * 2 ^ 20 then s
    else
      match oldestWritten rs with
      | some r => (s.setLevel r 3).evict c n
      | none => s

/-- Is a record store more than 7/8 full (R31)? -/
def State.storeHigh (s : State) (cl : Nat) : Bool := storeSize * 7 < s.storeUsed cl * 8

/-- BOATHOUSE_SPILL (R31): one record leaves the store. -/
def execBoathouseSpill (cluster : Nat) (s : State) : Host.Outcome State Fault Refusal :=
  .next (if s.storeHigh cluster then
    match s.spills cluster with
    | some r =>
      let s1 := s.setLevel r 2
      match s1.ctx? r.ctx with
      | some c => s1.evict c s1.recs.length
      | none => s1
    | none => s
  else s)

/-! ## TOKEN_WAIT_PARK and ACTIVE_SET_CHANGE -/

/-- TOKEN_WAIT_PARK (R69): at any moment after the wait began (log entry 4). -/
def execTokenWaitPark (crew : Nat) (s : State) : Host.Outcome State Fault Refusal := .next (s.updCrew crew Crew.parkNow)

/-- Crews of a width that a core's active set holds (R16). -/
def activeSize (width : Nat) : Nat := 2 * (64 / max width 1)

/-- Is there room in a core's active set for one more crew? A slot holds crews of one width, of one grid. -/
def State.activeRoom (s : State) (core : Nat) (c : Crew) : Bool :=
  let set := s.crews.filter fun d => d.core == core && d.inSet && d.cox.isNone && d.id != c.id
  let slot (g : Nat) (w : Nat) (l : List Crew) : Nat := ((l.filter fun d => d.grid == g && d.width == w).length + 64 / max w 1 - 1) /
    (64 / max w 1)
  let kinds := ((c.grid, c.width) :: set.map fun d => (d.grid, d.width)).eraseDups
  ((kinds.map fun k => slot k.1 k.2 (c :: set)).sum) ≤ 2

/-- May a crew change its place: into the set where there is room, out of it when no lane is in handler mode (R16)? -/
def State.mayChange (s : State) (c : Crew) : Bool :=
  c.cox.isNone && (if c.inSet then c.lanes.all fun l => l.all (·.depth == 0) else s.activeRoom c.core c)

/-- ACTIVE_SET_CHANGE (R16, R61): the register cache is written back; no program-visible state changes. -/
def execActiveSetChange (crew : Nat) (s : State) : Host.Outcome State Fault Refusal :=
  .next (match s.crew? crew with
    | some c => if s.mayChange c then s.setCrew { c with inSet := !c.inSet } else s
    | none => s)

/-! ## The judgement of R361 -/

/-- The region of a grid that an address lies in (R343). -/
def Grid.region (g : Grid) (pc : Nat) : Option (Nat × Nat) := g.idem.find? fun r => r.1 ≤ pc && pc < r.2

/-- The region that a record may restart from: its RESUME, and every entry captured for it, lie in it (R361). -/
def Grid.restartAt (g : Grid) (r : Rec) : Option Nat :=
  match g.region r.resume with
  | none => none
  | some (a, b) =>
    match r.cut with
    | none => some a
    | some x =>
      if x.depth = 0 && x.entries.all fun e => !has e.part x.lane || (a ≤ e.pc && e.pc < b) then some a else none

/-- A record rewritten to restart at its region's start (R361). -/
def Rec.restarted (r : Rec) (a : Nat) : Rec :=
  { r with resume := a, wait := .none, run := none, cut := none, idem := true, num := r.num,
           bin := { r.bin with closed := none, aged := false } }

def State.hasLanes (s : State) (team : Nat) (p : Crew → Bool) : Bool :=
  s.crews.any fun c => c.cox.isNone && p c && c.lanes.any fun l => l.any (·.team == team)

/-- Is a core in the vacate set, and its vacancy not yet come (R358)? -/
def State.vacating (s : State) (core : Nat) : Bool := (s.core core).vac.any fun v => !v.vacant

/-- A team leaves its core (R360, R361): restarted where the rule allows it, else vacated with its state resident. Its rows
are returned. -/
def State.leaveCore (s : State) (t : Team) : State :=
  let rs := s.recs.filter (·.team == t.uid)
  let g := s.grid? t.grid
  let ok := !rs.isEmpty && g.any fun g => g.cox.isNone && rs.all fun r => (g.restartAt r).isSome
  if ok && !s.hasLanes t.uid fun _ => true then
    let n := s.clock.nextId
    let s1 := s.updTeam t.uid fun t =>
      { t with mode := .restarted, scratch := [], tiles := [], queues := t.queues.map fun _ => [],
               res := { t.res with rows := 0 } }
    let f (r : Rec) : Rec :=
      if r.team == t.uid then r.restarted ((g.bind fun g => g.restartAt r).getD 0) else r
    ({ s1 with recs := s1.recs.map f, clock := { s1.clock with nextId := n + 1 } } : State).rewake
  else s.updTeam t.uid fun t => { t with mode := .vacated, res := { t.res with rows := 0 } }

/-- Judge a team when the last crew that held lanes of it on the vacate set has been cut or has left (R361). -/
def State.judgeTeam (s : State) (uid : Nat) : State :=
  match s.team? uid with
  | some t =>
    if t.mode == .placed && s.vacating t.core && !s.hasLanes uid fun c => s.vacating c.core then s.leaveCore t else s
  | none => s

/-! ## RECORD_WRITE -/

/-- Where a record of a thread stands: a lane of a crew whose segment has ended. -/
def State.endedLane (s : State) (team idx : Nat) : Option (Crew × Nat × Lane × Ending) :=
  s.crews.findSome? fun c =>
    if (if 1024 ≤ idx then c.cox != some team else c.cox.isSome) then none
    else (List.range c.lanes.length).findSome? fun n =>
      (c.lane n).bind fun l =>
        if c.cox.isNone && !(l.team == team && l.idx == idx) then none else l.ending.map fun e => (c, n, l, e)

/-- Has everything that was issued for a lane completed (R21)? -/
def Crew.laneDone (c : Crew) (n : Nat) : Bool :=
  (c.pipe.inflight.all fun o => o.done || !has o.entry.part n) && c.pipe.traps.all fun t => !has t.s n

/-- The live registers of a lane (R27). -/
def liveOf (rs : List Reg) (n : Nat) : List (Nat × Word) :=
  rs.map fun r => (r.name, if has r.tags n then poisonWord else nth r.vals n 0)

/-- Take a lane out of its crew; a crew with no lane left dissolves. -/
def State.dropLane (s : State) (c : Crew) (n : Nat) : State :=
  let d := { c with lanes := setNth c.lanes n none }
  if d.lanes.all Option.isNone then { s with crews := s.crews.filter (·.id != c.id) } else s.setCrew d.release

/-- The cluster that a forwarded record goes to (R42): in a die, one that holds rows for the grid where there is one. -/
def State.fwdCluster (s : State) (grid here : Nat) : Option FwdTarget → Nat
  | some (.die d) =>
    let cls := (List.range 4).map (4 * d + ·)
    (cls.find? fun k => (clusterCores k).any fun c => 0 < s.rowsOn grid c).getD (4 * d)
  | some (.cluster k) => k
  | some (.core k) => clusterOf k
  | _ => here

/-- The record of an ended lane (R20, R25 to R28). -/
def State.recOfLane (s : State) (c : Crew) (n : Nat) (l : Lane) (e : Ending) : Rec :=
  let g := s.grid? c.grid
  let num := ((s.ctx? c.ctx).map fun x => x.pnAt (baseOfDie (dieOf c.core)) l.dom).getD 0
  let k := s.clock.nextId
  { team := l.team, idx := l.idx, ctx := c.ctx, grid := c.grid, width := c.width, resume := e.resume, wb := e.wb,
    live := liveOf (e.regs.getD c.regs) n, preds := l.preds, toks := l.toks, run := e.run, preoff := l.preoff,
    poison := l.poison.st, idem := g.any fun g => g.inIdem e.resume, tl := e.tl,
    restartable := (s.team? l.team).any (·.restart), dom := l.dom, num := num, wait := e.wait, event := k,
    unres := l.unres, seen := l.seen, wrote := l.wrote, hsave := l.hsave,
    bin := { ready := false, since := 0, aged := false, closed := none, cluster := s.fwdCluster c.grid (clusterOf c.core) e.fwd,
             level := 1, written := k,
             bind := match e.fwd with
               | some (.core b) => if e.tl then none else some b
               | _ => none,
             hold := if e.tl then e.fwd else none },
    cut := none }

/-- The record of a FWD that is not team-local takes the team's tiles with it: they leave their slots, and get slots on the
core of the target that they first find room on (R44, log entry 111). -/
def State.takeTiles (s : State) (uid : Nat) (f : Option FwdTarget) : State :=
  match f, s.team? uid with
  | some (.peer _), _ | none, _ | _, none => s
  | some f, some t =>
    if t.res.ntiles = 0 || !t.holds || (t.res.tgo.isNone && f.cores.contains t.res.tcore) then s
    else s.updTeam uid fun t => { t with res := { t.res with tgo := some f } }

/-- Send a record to a peer: with it go the chain slots of its team, and its tiles (R44, R46, R165). -/
def State.sendRec (s : State) (port : Nat) (r : Rec) : State :=
  match s.team? r.team, s.grid? r.grid with
  | some t, some g =>
    let s1 := s.sendPeer port (some g.id) .none
      (.record g.gid t.index r (if t.handles = 0 then [] else t.tiles.filter (·.st == 2)))
    let s2 := t.chain.foldl (fun s c => s.tellChain t.uid c.idx [port]) s1
    s2.updTeam t.uid fun t =>
      if t.home == some port then t else { t with away := (r.idx, port) :: t.away.filter (·.1 != r.idx) }
  | _, _ => s

/-- The effects of an ended lane: its exit, its record, or its way to a peer (R20, R21, R42, R46). -/
def State.writeRec (s : State) (c : Crew) (n : Nat) (l : Lane) (e : Ending) : State :=
  let s0 := s.dropLane c n
  if c.cox.isSome then (s0.updTeam (c.teamOf n) fun t => { t with coxLive := false }).rewake
  else if e.exit then (s0.setChain l.team l.idx fun c => { c with exited := true }).rewake
  else
    match e.fwd, e.tl with
    | some (.peer p), false => (s0.sendRec p (s.recOfLane c n l e)).rewake
    | f, tl =>
      let r := s.recOfLane c n l e
      let s1 : State := { s0 with recs := s0.recs ++ [r], clock := { s0.clock with nextId := s0.clock.nextId + 1 } }
      (if tl then s1 else s1.takeTiles l.team f).rewake

/-- Does the record of an ended lane leave for a peer with nothing of it held here (R46)? -/
def Ending.departs (e : Ending) : Bool :=
  !e.tl && e.fwd.any fun f => match f with
    | .peer _ => true
    | _ => false

/-- May the record of an ended lane be written (R21, R31, R39)? It waits for room in the store that it goes to; one that leaves
for a peer waits for the copies of its thread (log entry 122). -/
def State.mayWrite (s : State) (c : Crew) (n : Nat) (l : Lane) (e : Ending) : Bool :=
  c.laneDone n && (s.eng.commits.all fun k => k.crew != some c.id) &&
  (!e.departs || l.toks.all (·.count == 0)) &&
  (c.cox.isSome || e.exit || e.departs || s.storeRoom (s.recOfLane c n l e).bin.cluster (s.recOfLane c n l e).bytes)

/-- RECORD_WRITE (R20, R21): thread 1024 stands for the team's Cox context, which leaves no record. -/
def execRecordWrite (team thread : Nat) (s : State) : Host.Outcome State Fault Refusal :=
  .next (match s.endedLane team thread with
    | some (c, n, l, e) => if s.mayWrite c n l e then (s.writeRec c n l e).judgeTeam team else s
    | none => s)

/-- BIN_AGE_EXPIRY (R35): at any moment after the record became ready (log entry 4). -/
def execBinAgeExpiry (team thread : Nat) (s : State) : Host.Outcome State Fault Refusal :=
  .next (s.updRec team thread fun r => if r.bin.ready then { r with bin := { r.bin with aged := true } } else r)

end Sys2Proof.Machine
end

