-- ==== Sys2Proof/Machine/Bins.lean ====
section
/-! DEFINITION. Bins and their drains (R33 to R37, R39, R40), forwarding by the scheduler (R356), the move of a whole team
(R45) and records from a peer (R46). -/

namespace Sys2Proof.Machine

/-! ## Which records drain together -/

/-- Must a record stay within the package: was it cut at handler depth 2 (R195)? -/
def Rec.stays (r : Rec) : Bool := r.cut.any (·.depth == 2)

/-- May a record drain at all: ready, its context running, its team not gathering for a move (R40, R45)? One that may not
leave the package drains while its team is to go to a peer (R195). -/
def State.drains (s : State) (r : Rec) : Bool :=
  r.bin.ready && (s.ctx? r.ctx).any (fun (c : Ctx) => !c.suspended && !c.dying) &&
  (s.team? r.team).any fun t => t.mode != .rolled && t.mode != .retiring &&
    match t.fwdTo with
    | none => true
    | some (.peer _) => r.stays
    | some _ => false

/-- The bin of a ready record: the ready records of its key in its record store (R33), closed ones apart (R35). -/
def State.bin (s : State) (r : Rec) : List Rec :=
  s.recs.filter fun q => s.drains q && q.sameBin r && q.bin.cluster == r.bin.cluster && q.bin.closed == r.bin.closed

/-- Earlier in readiness; ties by thread, then by team (R35). -/
def State.earlier (s : State) (a b : Rec) : Bool :=
  let ix (r : Rec) : Nat := ((s.team? r.team).map (·.index)).getD 0
  a.bin.since < b.bin.since || (a.bin.since == b.bin.since && (a.idx < b.idx || (a.idx == b.idx && ix a < ix b)))

/-- Insert by an order. -/
def insBy {α : Type} (lt : α → α → Bool) (x : α) : List α → List α
  | [] => [x]
  | y :: ys => if lt x y then x :: y :: ys else y :: insBy lt x ys

def sortBy {α : Type} (lt : α → α → Bool) (l : List α) : List α := l.foldr (insBy lt) []

/-- The records of a bin in the order in which they became ready. -/
def State.binInOrder (s : State) (r : Rec) : List Rec := sortBy s.earlier (s.bin r)

/-- Ascending thread, then team (R36). -/
def State.byThread (s : State) (a b : Rec) : Bool :=
  let ix (r : Rec) : Nat := ((s.team? r.team).map (·.index)).getD 0
  a.idx < b.idx || (a.idx == b.idx && ix a < ix b)

/-! ## Where a bin may drain -/

/-- May bins of a context drain onto a core (R351, R358, R379)? -/
def State.drainOpen (s : State) (ctx core : Nat) : Bool :=
  core < 256 && s.chip.dieOn (dieOf core) && !(s.core core).withdrawn && (s.cluster (clusterOf core)).st != .withdrawn &&
  s.openTo ctx core

/-- The core that a FWD of KIND 2 bound a record to, while the binding holds (R34). -/
def State.bound? (s : State) (r : Rec) : Option Nat := r.bin.bind.filter s.boundCore

/-- Does a grid hold rows anywhere? -/
def State.rowsAnywhere (s : State) (g : Nat) : Bool :=
  (s.sched.teams.any fun t => t.grid == g && t.holds && 0 < t.res.rows) || s.sched.grants.any fun x => x.1 == g && 0 < x.2.2

/-- Rows for a grid on a core that holds none, when R351 allows. -/
def State.canGrant (s : State) (g : Grid) (core : Nat) : Bool :=
  (s.ctx? g.ctx).any fun c => s.inService core && s.openTo g.ctx core && s.usable c core &&
    s.grantedRows core + g.rows ≤ 2048

/-- The other present members of a team's set. -/
def State.mates (s : State) (g : Grid) (t : Team) : List Team :=
  match g.setOf t.index with
  | none => []
  | some k => s.sched.teams.filter fun u => u.grid == t.grid && u.uid != t.uid && g.setOf u.index == some k

/-- Is a core withdrawn, alone or with its cluster (R208, R379)? -/
def State.lostCore (s : State) (k : Nat) : Bool := (s.core k).withdrawn || (s.cluster (clusterOf k)).st == .withdrawn

/-- Has a team no place on a core: saved or restarted, or vacated from a core that was withdrawn, from which it is forwarded
(R355, R360, R361, R379)? -/
def State.adrift (s : State) (t : Team) : Bool :=
  t.mode == .saved || t.mode == .restarted || (t.mode == .vacated && s.lostCore t.core)

/-- Has a team a place on a core, to which its set's other members must come (R248)? -/
def State.anchored (s : State) (t : Team) : Bool := t.holds && !s.adrift t

/-- The placement of a team onto a core: a member of a set joins the cluster of its mates, or the whole set is placed again
under R354 (R248, R360). Which member takes which core is not fixed. -/
def State.restorePlan (s : State) (g : Grid) (t : Team) (core : Nat) : Option (List (Nat × Fit)) :=
  let alone := (s.fit g core).map fun f => [(t.uid, f)]
  if (g.setOf t.index).isNone then alone
  else
    let ms := s.mates g t
    if ms.any s.anchored then
      if ms.all fun u => !s.anchored u || (clusterOf u.core == clusterOf core && u.core != core) then alone else none
    else
      let n := ms.length + 1
      match s.setOn g n (clusterOf core), s.ctx? g.ctx with
      | some fs, some c =>
        match fs.find? (·.core == core) with
        | some f =>
          if (s.chooseCluster g n c.d.clusters).any (·.1 == clusterOf core) then
            some ((t.uid :: ms.map (·.uid)).zip (f :: fs.filter (·.core != core)))
          else none
        | none => none
      | _, _ => none

/-- The Cox context of a team goes where the team goes (R250). -/
def State.moveCox (s : State) (team core : Nat) : State :=
  { s with crews := s.crews.map fun c => if c.cox == some team then { c with core := core } else c }

/-- A team takes a place (R240, R243, R360, R361): a claimed one receives its tiles from their images, and its scratchpad,
queues, barriers and windows as they were; a restarted one has none left to receive. -/
def State.restoreTeam (s : State) (g : Grid) (p : Nat × Fit) : State :=
  let tiles := match s.team? p.1, s.ctx? g.ctx with
    | some t, some c => if t.mode == .saved && !t.res.imgs.isEmpty then s.loadTiles c t else t.tiles
    | _, _ => []
  let s1 := ((s.takePlace g p.1 p.2).updTeam p.1 fun t => { t with tiles := tiles }).moveCox p.1 p.2.core
  match (s1.team? p.1).bind fun t => g.setOf t.index with
  | some k => s1.updSet g.id k fun x => { x with cluster := clusterOf p.2.core }
  | none => s1

/-! ## What a drain needs first -/

/-- Has a team's Cox context stopped, with all it has issued performed (R250)? -/
def State.coxIdle (s : State) (uid : Nat) : Bool :=
  (s.crews.all fun c => c.cox != some uid || (c.pipe.stage = 0 && c.pipe.inflight.all (·.done) && c.pipe.traps.isEmpty)) &&
  (s.eng.mxops.all fun m => m.issuer != uid) && (s.eng.drains.all fun d => d.issuer != uid) &&
  (s.team? uid).all fun t => t.chans.all fun k => k.src.isEmpty

/-- Has a team gathered: does no crew hold a lane of it, and does its Cox context stand still (R45, R250)? -/
def State.gathered (s : State) (t : Team) : Bool := !s.hasLanes t.uid (fun _ => true) && s.coxIdle t.uid

/-- Rows for a grid on a core: it holds some, or receives a grant (R34, R351). -/
def State.withRows (s : State) (g : Grid) (core : Nat) : Option State :=
  if 0 < s.rowsOn g.id core then some s
  else if s.canGrant g core then some (s.updSched fun d => { d with grants := d.grants ++ [(g.id, core, g.rows)] })
  else none

/-- The tiles of a team where a drain onto a core wants them: there already, or on their way there and given slots (R34, R44). -/
def State.withTiles (s : State) (t : Team) (core : Nat) : Option State :=
  if t.handles = 0 then some s
  else
    match s.tilesTo t with
    | none => if t.res.tcore = core then some s else none
    | some f =>
      if !f.cores.contains core then none
      else (tilesAt (s.tileResidents core) t.res.ntiles).map fun b =>
        s.updTeam t.uid fun t => { t with res := { t.res with tcore := core, tslot := b, tgo := none } }

/-- The core that holds a team for its team-local bins: that of its scratchpad and queues, else that of its tile slots; a
team with neither is held by none (R34, R243, log entry 123). -/
def State.heldBy (s : State) (t : Team) : Option Nat :=
  if t.res.bytes != 0 then some t.core
  else if t.res.ntiles != 0 && (s.tilesTo t).isNone then some t.res.tcore
  else none

/-- A team goes to a core with all it holds, when it has gathered (R243, R250). -/
def State.bringTeam (s : State) (g : Grid) (t : Team) (core : Nat) : Option State :=
  if t.core = core && t.mode == .placed then s.withRows g core
  else if t.core = core then
    if s.grantedRows core + g.rows ≤ 2048 then
      some (s.updTeam t.uid fun t => { t with mode := .placed, res := { t.res with rows := g.rows } })
    else none
  else if s.gathered t then (s.restorePlan g t core).map fun ps => ps.foldl (fun s p => s.restoreTeam g p) s
  else none

/-- Do what a drain of a record needs on a core, or refuse: the binding of a KIND-2 FWD, the place of its team, its tiles,
and rows (R34, R240, R243, R360). `free` says that a grid with no rows anywhere may receive them here. -/
def State.prepRec (s : State) (free : Bool) (r : Rec) (core : Nat) : Option State :=
  match s.team? r.team, s.grid? r.grid with
  | some t, some g =>
    if !s.drainOpen r.ctx core || (s.bound? r).any (· != core) then none
    else if s.adrift t && (r.tl || 0 < t.handles) then
      (s.restorePlan g t core).map fun ps => ps.foldl (fun s p => s.restoreTeam g p) s
    else if r.tl then
      if (s.heldBy t).any (· != core) then none
      else (s.withTiles t core).bind fun s => s.bringTeam g t core
    else if 0 < t.handles then (s.withTiles t core).bind fun s => s.withRows g core
    else if (s.bound? r).isSome then s.withRows g core
    else if clusterOf core = r.bin.cluster && 0 < s.rowsOn g.id core then some s
    else if (free || clusterOf core = r.bin.cluster) && !s.rowsAnywhere g.id then s.withRows g core
    else none
  | _, _ => none

/-- Records of a bin, at most `n`, that can drain onto a core together, and the state in which they can: the first of each
team brings it there. A bin whose records' handles name different cores drains in parts (log entry 112). -/
def State.prepBin (s : State) (free : Bool) (core : Nat) : (n : Nat) → List Rec → State × List Rec
  | _, [] => (s, [])
  | 0, _ => (s, [])
  | n + 1, r :: rs =>
    match s.prepRec free r core with
    | some s1 =>
      let x := s1.prepBin free core n rs
      (x.1, r :: x.2)
    | none => s.prepBin free core (n + 1) rs

/-- May a bin be forwarded, or a grid with no rows anywhere receive some for it elsewhere (R356)? A cut bin may go at once
(R360). -/
def State.mayForward (s : State) (r : Rec) : Bool :=
  s.drains r && ((s.bin r).all fun q => !q.tl && (s.bound? q).isNone &&
    (s.team? q.team).all fun t => t.handles = 0 || t.mode == .saved) &&
  (r.cut.isSome || (s.binInOrder r).head?.any (·.bin.aged))

/-- The records that a drain of the bin takes onto a core now, in the order in which they became ready, with the state in
which they are prepared for it (R35); none while no condition holds. -/
def State.taking (s : State) (r : Rec) (core : Nat) : Option (State × List Rec) :=
  let (s1, b) := s.prepBin (s.mayForward r) core r.width (s.binInOrder r)
  let full := match r.cut with
    | some x => (s.recs.filter fun q => q.ctx == r.ctx && q.cut.any (·.serial == x.serial)).length = b.length
    | none => r.width ≤ b.length || (b.head?.any (·.bin.aged)) || r.bin.closed.isSome
  if full && !b.isEmpty then some (s1, b) else none

/-! ## The crew of a drain -/

/-- The lane of each record: ascending thread, or for a cut crew the lane it had (R36). -/
def State.lanesFor (s : State) (rs : List Rec) : List (Nat × Rec) :=
  (sortBy s.byThread rs).mapIdx fun i r => ((r.cut.map (·.lane)).getD i, r)

/-- The registers of the crew (R27, R59): a lane without a live value is tagged. -/
def drainRegs (width : Nat) (ls : List (Nat × Rec)) : List Reg :=
  let names := ls.foldl (fun l p => p.2.live.foldl (fun l q => insNat q.1 l) l) []
  names.map fun n =>
    { name := n,
      vals := (List.range width).map fun i => (((ls.lookup i).bind fun r => r.live.lookup n)).getD 0,
      tags := maskOf fun i => (((ls.lookup i).bind fun r => r.live.lookup n)).isNone }

/-- A thread on its lane (R27, R29, R36). -/
def Rec.toLane (r : Rec) : Lane :=
  { team := r.team, idx := r.idx, pc := r.resume, ending := none, preds := r.preds, toks := r.toks, run := r.run,
    preoff := r.preoff, poison := ⟨r.poison, false, 0⟩, dom := r.dom, depth := (r.cut.map (·.depth)).getD 0,
    saves := (r.cut.map (·.saves)).getD [], hsave := r.hsave, seen := r.seen, wrote := r.wrote, unres := r.unres,
    faultOn := none }

/-- The handler registers of a cut crew (R195). -/
def drainH (width : Nat) (ls : List (Nat × Rec)) : List Reg :=
  if ls.any fun p => p.2.cut.any fun x => 0 < x.depth then
    (List.range 16).map fun n =>
      let h (i : Nat) : Word × Bool := (((ls.lookup i).bind (·.cut)).map fun x => nth x.h n (0, false)).getD (0, false)
      { name := n, vals := (List.range width).map fun i => (h i).1, tags := maskOf fun i => (h i).2 }
  else []

/-- The first number for the issues of a crew that was cut: after every entry and queued trap that it keeps (R195). -/
def CutExt.next (x : CutExt) : Nat :=
  let es := x.entries ++ x.lv.cur.rpq ++ ((x.lv.saved.map (·.rpq)).getD [])
  (es.map (·.serial) ++ x.later.map (·.serial)).foldl (fun m n => max m (n + 1)) 0

/-- The crew that a drain forms on a core (R35 to R37, R72, R133, R177, R188, R195, R196). -/
def State.drainCrew (s : State) (d : CtxDesc) (g : Grid) (rs : List Rec) (r : Rec) (core : Nat) : Crew :=
  let ls := s.lanesFor rs
  let depth := ls.foldl (fun m p => max m ((p.2.cut.map (·.depth)).getD 0)) 0
  let x := r.cut
  { id := s.clock.nextId, core := core, ctx := r.ctx, grid := r.grid, width := r.width, budget := g.budgetOf r.idx,
    wb := r.wb, teamLocal := r.tl, cox := none, inSet := false,
    lanes := (List.range r.width).map fun i => (ls.lookup i).map Rec.toLane,
    regs := drainRegs r.width ls, scal := List.replicate 12 ⟨0, true⟩, hregs := drainH r.width ls,
    fpcr := d.fpcr, memdef := d.memdef, bkpten := (x.map (·.bkpten)).getD d.bkpten,
    poisonEn := (x.map (·.poisonEn)).getD d.poisonEn, cych := none, sel := Sel.fresh,
    lv := (x.map (·.lv)).getD Levels.fresh,
    pipe := { Pipe.fresh with
      reinj := if depth = 0 then (x.map (·.entries)).getD [] else [],
      later := (x.map (·.later)).getD [], serial := (x.map CutExt.next).getD 0 } }

/-- Put a crew on its core, in the active set where there is room (R16). -/
def State.addCrew (s : State) (c : Crew) : State :=
  let c1 := { c with inSet := c.cox.isSome || s.activeRoom c.core c }
  { s with crews := s.crews ++ [c1], clock := { s.clock with nextId := s.clock.nextId + 1 } }

/-- An acquire at package scope on a core (R39, R349). -/
def State.acquireOn (s : State) (snap : Nat) : State := s.updCore snap fun k => { k with floor := s.mem.now, view := [] }

/-- The first of a bin's records that is not at level 1 comes back there, where there is room (R31). -/
def State.recall (s : State) (q : Rec) : Option State :=
  if s.storeRoom q.bin.cluster q.bytes then some (s.setLevel q 1) else none

/-- Do the images that a drain restores from hold an error (R240)? -/
def State.poisonedImage (s : State) (rs : List Rec) : Option Nat :=
  (rs.map (·.team)).find? fun u => (s.team? u).any fun t => t.mode == .saved &&
    (((s.grid? t.grid).bind fun g => s.ctx? g.ctx).any fun c =>
      (List.range t.res.halves).any fun h => (s.imageReads c t h).any s.mem.bad)

/-- Drain the bin of a record onto a core, where that is possible now (R31, R35, R240). -/
def State.drainOnto (s : State) (r : Rec) (core : Nat) : Option State :=
  match s.taking r core, s.ctx? r.ctx, s.grid? r.grid with
  | some (s1, rs), some cx, some g =>
    match rs.find? (·.bin.level != 1), s.poisonedImage rs with
    | some q, _ => s.recall q
    | none, some u => some (s.consume u)
    | none, none =>
      let c := s1.drainCrew cx.d g rs r core
      if s1.poolFree c < c.regs.length then none
      else
        let gone (q : Rec) : Bool := rs.any fun x => x.team == q.team && x.idx == q.idx
        let s2 : State := { s1 with recs := s1.recs.filter fun q => !gone q }
        some ((s2.addCrew c).acquire c .package)
  | _, _, _ => none

/-- When the oldest record that a drain of the bin takes became ready (R40). -/
def State.binAge (s : State) (r : Rec) (core : Nat) : Nat :=
  (((s.taking r core).bind fun x => x.2.head?).map (·.bin.since)).getD 0

/-- Does no bin whose oldest record became ready earlier drain onto the core (R40)? -/
def State.binFirst (s : State) (r : Rec) (core : Nat) : Bool :=
  s.recs.all fun q => !(s.drains q && q.bin.since < s.binAge r core && s.binAge q core < s.binAge r core &&
    (s.drainOnto q core).isSome)

/-- BIN_DRAIN (R31, R35, R40): the bin of the named record, onto the named core. While records of it are not back at level 1,
the first of those comes back. -/
def execBinDrain (team thread core : Nat) (s : State) : Host.Outcome State Fault Refusal :=
  .next (match s.rec? team thread with
    | some r => if s.drains r && s.binFirst r core then (s.drainOnto r core).getD s else s
    | none => s)

/-! ## BIN_FORWARD -/

/-- The distance of a core from a cluster, for a context: the same cluster, the same die, then VDHOPS (R356). -/
def CtxDesc.away (d : CtxDesc) (cl core : Nat) : Nat :=
  if clusterOf core = cl then 0
  else if dieOf core = cl / 4 then 1
  else 2 + (d.hops (d.virt (cl / 4)) (d.virt (dieOf core))).toNat

/-- Does a core qualify for a bin (R356): it holds rows for the grid, is open, and no other ready bin could drain onto it? -/
def State.takesBin (s : State) (r : Rec) (core : Nat) : Bool :=
  0 < s.rowsOn r.grid core && s.drainOpen r.ctx core &&
  s.recs.all fun q => !(s.drains q && !(q.sameBin r && q.bin.cluster == r.bin.cluster) && (s.drainOnto q core).isSome)

/-- Does a record store have room for records that come from another (R30)? -/
def State.storeTakes (s : State) (rs : List Rec) (cl : Nat) : Bool :=
  s.storeRoom cl (levelOne (rs.filter (·.bin.cluster != cl)))

/-- BIN_FORWARD (R30, R356, R360): the whole bin, to a core that qualifies and than which no nearer one does. -/
def execBinForward (team thread core : Nat) (s : State) : Host.Outcome State Fault Refusal :=
  .next (match s.rec? team thread with
    | none => s
    | some r =>
      match s.ctx? r.ctx with
      | none => s
      | some cx =>
        let far := cx.d.away r.bin.cluster core
        let b := s.bin r
        if s.mayForward r && s.takesBin r core && s.storeTakes b (clusterOf core) &&
            cx.d.cores.all fun k => !(cx.d.away r.bin.cluster k < far && s.takesBin r k) then
          let f (q : Rec) : Rec :=
            if b.any fun x => x.team == q.team && x.idx == q.idx then
              { q with bin := { q.bin with cluster := clusterOf core } }
            else q
          { s with recs := s.recs.map f }
        else s)

/-! ## TEAM_MOVE -/

/-- The records of a moved team stand at the target (R45). -/
def State.landRecs (s : State) (uid core : Nat) : State :=
  let f (r : Rec) : Rec :=
    if r.team = uid then { r with bin := { r.bin with cluster := clusterOf core, hold := none, bind := none } } else r
  ({ s.updTeam uid fun t => { t with fwdTo := none } with recs := s.recs.map f } : State).rewake

/-- The pending launches of a team that leaves for a peer go with it: they are no launches of this package any more (R45,
R346). -/
def State.takeQueue (s : State) (t : Team) : State :=
  let gone := t.launchQ.filterMap (·.grid)
  (s.updTeam t.uid fun t => { t with launchQ := [] }).updSched fun d =>
    { d with grids := d.grids.filter fun g => !gone.contains g.id }

/-- The Cox context of a team as it travels (R250). -/
def Crew.coxImage (c : Crew) : Option CoxImage :=
  (c.lane 0).map fun l => ⟨l, c.regs, c.scal, c.hregs, c.wb, c.fpcr, c.memdef, c.bkpten, c.poisonEn, c.lv⟩

/-- A team as it travels: with the barriers of its set (R45, R248). -/
def State.teamImage (s : State) (g : Grid) (t : Team) : Team :=
  match (g.setOf t.index).bind fun k => s.teamSet? g.id k with
  | some x => { t with cbars := x.cbars }
  | none => t

/-- A team leaves for a peer package: its lines are committed, its records and what it holds travel, and nothing of it stays
(R45, R46). -/
def State.departTeam (s : State) (t : Team) (port : Nat) : State :=
  let (s1, _) := s.commitNow t.uid t.core none fun _ => true
  match s1.team? t.uid, s1.grid? t.grid with
  | some u, some g =>
    let s2 := s1.sendPeer port (some g.id) .none
      (.team g.ctx g.gid (s1.teamImage g u) ((s1.crews.find? fun c => c.cox == some u.uid).bind Crew.coxImage))
    let s3 := (s1.recs.filter (·.team == u.uid)).foldl (fun s r =>
      s.sendPeer port (some g.id) .none (.record g.gid u.index r [])) s2
    let own := if u.home.isNone then 1 else 0
    ((((s3.takeQueue u).endTeamWork u.uid).dropTeam u.uid).updGrid g.id fun x => { x with retired := x.retired + own }).rewake
  | _, _ => s1

/-- The teams that move together: a set moves only as a whole (R47). -/
def State.movers (s : State) (t : Team) : List Team :=
  t :: ((s.grid? t.grid).map fun g => s.mates g t).getD []

/-- May a team leave for a peer: gathered, its lines committed, all its work done, all its threads here, and no record of it
bound to the package (R46, R195)? -/
def State.mayDepart (s : State) (t : Team) : Bool :=
  s.gathered t && t.away.isEmpty && (t.buf.all fun l => !isPeerPa l.addr) && s.commitsDone t.uid &&
  (s.eng.copies.all fun k => k.team != t.uid) && (s.eng.sops.all fun k => k.team != t.uid) &&
  (s.eng.kops.all fun k => k.team != t.uid) && s.recs.all fun r => r.team != t.uid || !r.stays

/-- Move a gathered team to its target, where the record store has room (R30, R45). -/
def State.moveTeam (s : State) (t : Team) (f : FwdTarget) : State :=
  match f, s.grid? t.grid with
  | .peer p, _ =>
    if (s.movers t).all s.mayDepart then
      (s.movers t).foldl (fun s u => s.departTeam u p) s
    else s
  | f, some g =>
    let room (k : Nat) : Bool := s.storeTakes (s.recs.filter (·.team == t.uid)) (clusterOf k)
    if f.cores.contains t.core && t.holds then (if room t.core then s.landRecs t.uid t.core else s)
    else
      match s.chooseCore g (f.cores.filter room) with
      | some x => (s.restoreTeam g (t.uid, x)).landRecs t.uid x.core
      | none => s
  | _, none => s

/-- TEAM_MOVE (R45, R47). -/
def execTeamMove (team : Nat) (s : State) : Host.Outcome State Fault Refusal :=
  .next (match (s.team? team).bind fun t => t.fwdTo.map fun f => (t, f) with
    | some (t, f) => if s.gathered t then s.moveTeam t f else s
    | none => s)

/-! ## PEER_RECORD_ARRIVAL -/

/-- PEER_RECORD_ARRIVAL (R46): a record that has come from the peer resumes here. -/
def execPeerRecordArrival (port ctx grid team thread : Nat) (s : State) : Host.Outcome State Fault Refusal :=
  let here (r : Rec) : Bool :=
    r.bin.hold == some (.peer port) && r.ctx == ctx && r.idx == thread &&
    (s.grid? r.grid).any (·.gid == grid) && (s.team? r.team).any fun t => t.index == team && t.fwdTo.isNone
  let f (r : Rec) : Rec := if here r then { r with bin := { r.bin with hold := none } } else r
  .next ({ s with recs := s.recs.map f } : State).rewake

end Sys2Proof.Machine
end

