-- ==== Sys2Proof/Machine/Preempt.lean ====
section
/-! DEFINITION. Spatial pre-emption (R357 to R362): requests and the vacate set, cuts (R194 to R196), vacancy and
grants. -/

namespace Sys2Proof.Machine

/-! ## Requests and the vacate set -/

/-- The highest effective priority of a core's resident teams, plus one; 0 where there is none (R357). -/
def State.corePrio (s : State) (core : Nat) : Nat :=
  (s.residents core).foldl (fun p t => max p (((s.grid? t.grid).map (·.prio + 1)).getD 0)) 0

/-- May a request take a core (R351, R357)? -/
def State.mayTake (s : State) (q : Request) (core : Nat) : Bool :=
  s.chip.dieOn (dieOf core) &&
  (match q.who with
    | .ctx c => (s.ctx? c).any fun c => s.usable c core
    | .device => true) &&
  match q.want with
  | .cores cs => cs.contains core
  | .count _ cls => cls.contains (clusterOf core)
  | .withdraw _ => false

/-- Can a core still join the vacate set: is it neither in it, nor granted to a request that has not used it (R362, log
entry 125)? -/
def Core.mayClose (k : Core) : Bool := k.vac.all fun v => v.vacant && v.used

/-- Is a core a candidate for a request that asks for a count (R357)? -/
def State.candidate (s : State) (q : Request) (core : Nat) : Bool :=
  s.mayTake q core && (s.core core).mayClose && s.corePrio core ≤ q.prio

/-- The cores that go with a core: those of the multi-team sets that have a member on it (R357). -/
def State.group (s : State) (core : Nat) : List Nat :=
  (core :: (s.residents core).flatMap fun t =>
    match s.grid? t.grid with
    | some g => ((s.mates g t).filter Team.holds).map (·.core)
    | none => []).eraseDups

/-- The order of candidates (R357): lowest highest-resident priority, fewest resident teams, highest core number, virtual
for a context and physical for the device. -/
def State.before (s : State) (q : Request) (a b : Nat) : Bool :=
  let num (k : Nat) : Nat := match q.who with
    | .ctx c => ((s.ctx? c).map fun (x : Ctx) => x.d.vcore k).getD k
    | .device => k
  let pa := s.corePrio a
  let pb := s.corePrio b
  let ra := (s.residents a).length
  let rb := (s.residents b).length
  pa < pb || (pa = pb && (ra < rb || (ra = rb && num b < num a)))

/-- Close a core for a request (R358): its grace begins. A core of the vacate set is in it already; one that was granted to an
earlier request leaves that grant (R362). -/
def State.closeCore (s : State) (req core : Nat) : State :=
  if (s.core core).vac.any fun v => !v.vacant then s
  else s.updCore core fun k => { k with vac := some ⟨req, false, false, false, none⟩ }

def State.updReq (s : State) (id : Nat) (f : Request → Request) : State :=
  s.updSched fun d => { d with requests := d.requests.map fun q => if q.id = id then f q else q }

/-- Choose cores for a request that asks for a count, as far as there are candidates (R357). -/
def State.chooseVacate (s : State) (q : Request) : (fuel find : Nat) → State
  | 0, n => s.updReq q.id fun q => { q with find := n }
  | _, 0 => s.updReq q.id fun q => { q with find := 0 }
  | k + 1, n =>
    match sortBy (s.before q) ((List.range 256).filter fun c => (s.group c).all (s.candidate q)) with
    | [] => s.updReq q.id fun q => { q with find := n }
    | c :: _ => ((s.group c).foldl (fun s k => s.closeCore q.id k) s).chooseVacate q k (n - (s.group c).length)

/-- The cores that a request which names some takes: those that it may take, each with the other cores of a multi-team set on
it, which count towards the request (R357). -/
def State.named (s : State) (q : Request) (cs : List Nat) : List Nat := ((cs.filter (s.mayTake q)).flatMap s.group).eraseDups

/-- Raise a pre-emption request (R357). -/
def State.raiseRequest (s : State) (who : Requester) (prio : Nat) (want : PreemptWant) (cause : ReqCause) : State :=
  let id := s.clock.nextId
  let add (q : Request) : State :=
    { s with clock := { s.clock with nextId := id + 1 }, sched := { s.sched with requests := s.sched.requests ++ [q] } }
  match want with
  | .count n _ =>
    let q : Request := ⟨id, prio, who, want, n, n, cause⟩
    (add q).chooseVacate q 256 n
  | .cores cs =>
    let ks := s.named ⟨id, prio, who, want, 0, 0, cause⟩ cs
    ks.foldl (fun s k => s.closeCore id k) (add ⟨id, prio, who, .cores ks, 0, ks.length, cause⟩)
  | .withdraw _ => s

/-- System software withdraws a request: it asks for no more cores, and lapses (R362). -/
def State.withdrawRequest (s : State) (id : Nat) : State :=
  s.updReq id fun q => if q.cause == .software then { q with cause := .ended, find := 0, need := 0 } else q

/-! ## Lapse and release (R362) -/

/-- Has a request lapsed (R362)? -/
def State.lapsed (s : State) (q : Request) : Bool :=
  match q.cause with
  | .blocked g i => (s.grid? g).all fun x => x.fin.isSome || x.next != i
  | .test cl => (s.cluster cl).st != .testDue
  | .suspend c => (s.ctx? c).all fun x => !x.suspended || !(s.crews.any fun k => k.ctx == c && k.cox.isNone)
  | .withdraw => false
  | .ended => true
  | .software => match q.who with
    | .ctx c => (s.ctx? c).all fun (x : Ctx) => x.suspended || x.dying
    | .device => false

/-- Does a core that is granted reopen (R362): the requester's teams on it are gone, or it was never used and the request
has lapsed? -/
def State.reopens (s : State) (k : Core) : Bool :=
  match k.vac with
  | none => false
  | some v =>
    match v.granted.bind fun r => s.sched.requests.find? (·.id == r) with
    | none => v.granted.isSome
    | some q =>
      if v.used then
        match q.who with
        | .ctx c => (s.residents k.num).all fun t => t.mode == .vacated || (s.grid? t.grid).all (·.ctx != c)
        | .device => s.lapsed q
      else s.lapsed q

/-- Reopen what reopens, and forget requests that have lapsed and hold no core; others look for cores they still lack. -/
def State.settleRequests (s : State) : State :=
  let s1 := s.chip.cores.foldl (fun s k => if s.reopens k then s.updCore k.num fun c => { c with vac := none } else s) s
  let held (q : Request) : Bool := s1.chip.cores.any fun k => k.vac.any fun v => v.granted == some q.id
  let s2 := s1.updSched fun d => { d with requests := d.requests.filter fun q => !s1.lapsed q || held q }
  s2.sched.requests.foldl (fun s q => if q.find = 0 || s.lapsed q then s else s.chooseVacate q 256 q.find) s2

/-- PREEMPT_REQUEST (R357): system software raises a request, or withdraws one (R362). -/
def execPreemptRequest (who : Requester) (prio : Nat) (want : PreemptWant) (s : State) :
    Host.Outcome State Fault Refusal :=
  .next (match want with
    | .withdraw id => (s.withdrawRequest id).settleRequests
    | _ => s.raiseRequest who prio want .software)

/-! ## Cuts -/

/-- Is the cut of a crew deferred (R194, R359)? Either limit ends the deferral, but at the request of a test that of PREOFF does
not (R380, log entry 97). -/
def State.deferred (s : State) (c : Crew) : Bool :=
  let test := (s.core c.core).vac.any fun v => s.sched.requests.any fun q => q.id == v.req && match q.cause with
    | .test _ => true
    | _ => false
  let e := c.elig
  let pre := (List.range c.lanes.length).any fun n => has e n && (c.lane n).any (·.preoff)
  let masked := c.lv.cur.masked && c.lanes.any fun l => l.any fun l => 0 < l.depth
  (pre || masked) && !(pre && !test && c.pipe.cut.preoffOver) && !(masked && c.pipe.cut.maskedOver)

/-- Is a crew at an instruction boundary at which it can be cut: no trap raised and not delivered, no lane whose record is
being written, no instruction half done; in handler mode, nothing left to re-inject, and every issue that has passed
translation complete (R195)? -/
def Crew.cutReady (c : Crew) : Bool :=
  c.cox.isNone && c.pipe.traps.isEmpty && c.pipe.stage = 0 && (c.lanes.all fun l => l.all (·.ending.isNone)) &&
  (c.pipe.inflight.all fun o => o.done || !o.asked) &&
  (c.depth = 0 || (c.pipe.reinj.isEmpty && c.pipe.inflight.all fun o => o.done || !o.translated ||
    c.pipe.inflight.any fun p => !p.translated && p.entry.serial < o.entry.serial))

/-- In handler mode the oldest issue that has not passed translation, and everything behind it, is discarded (R195). -/
def Crew.discardHandler (c : Crew) : Crew :=
  match c.pipe.inflight.find? fun o => !o.translated with
  | none => c
  | some o =>
    let later := c.pipe.inflight.filter fun p => o.entry.serial ≤ p.entry.serial
    let d := (c.restore o.ckpt).undoTokens later (BitVec.allOnes 64)
    d.mapLanes o.entry.s fun n l =>
      { l with pc := o.entry.pc, run := (((o.ckpt.lanes[n]?).join).map (·.run)).getD l.run }

/-- The entries that a cut captures at depth 0: issues that have not completed, marked as captured by a cut, and entries still
to be re-injected, which stay as they were captured (R188, R196, log entry 113). -/
def Crew.cutEntries (c : Crew) : List Entry :=
  ((c.pipe.inflight.filter fun o => !o.done).map fun o => { o.entry with cut := true }) ++ c.pipe.reinj

/-- The record of a lane of a cut crew (R25, R29, R195, R196). -/
def State.cutRec (s : State) (c : Crew) (serial : Nat) (entries : List Entry) (n : Nat) (l : Lane) : Rec :=
  let e : Ending := ⟨l.pc, c.wb, l.run, .cut serial, c.teamLocal, none, false, none⟩
  { s.recOfLane c n l e with
    idem := l.depth = 0 && (s.grid? c.grid).any fun g => g.inIdem l.pc,
    event := 0,
    cut := some { serial := serial, lane := n, h := c.laneH n, depth := l.depth, lv := c.lv, saves := l.saves,
                  entries := entries, later := c.pipe.later, bkpten := c.bkpten, poisonEn := c.poisonEn } }

/-- What a cut leaves of a crew: in handler mode the issues of R195 are discarded, at depth 0 the copies of issues that have
not completed are undone (R196). -/
def Crew.atCut (c : Crew) : Crew :=
  if 0 < c.depth then c.discardHandler else c.undoTokens (c.pipe.inflight.filter fun o => !o.done) (BitVec.allOnes 64)

/-- The records of a crew that is cut (R195, R196, R360). -/
def State.cutRecs (s : State) (c0 : Crew) : List Rec :=
  let c := c0.atCut
  let entries := if 0 < c0.depth then c.lv.cur.rpq else c.cutEntries
  (List.range c.lanes.length).filterMap fun n => (c.lane n).map (s.cutRec c s.clock.nextId entries n)

/-- Cut a crew: every lane gets a cut record, and the crew is gone (R360). -/
def State.cutCrew (s : State) (c : Crew) : State :=
  let serial := s.clock.nextId
  let rs := s.cutRecs c
  let s1 : State := { s with
    crews := s.crews.filter (·.id != c.id), recs := s.recs ++ rs,
    clock := { s.clock with nextId := serial + 1 } }
  (rs.map (·.team)).eraseDups.foldl State.judgeTeam s1.rewake

/-- Can the cut of a crew be made: its releases and the commits it has issued are complete (R39), and the record store has
room for its records (R31)? -/
def State.cutFits (s : State) (c : Crew) : Bool :=
  (s.eng.commits.all fun k => k.crew != some c.id) && s.storeRoom (clusterOf c.core) ((s.cutRecs c).map Rec.bytes).sum

/-- Is a crew on a core whose grace is over, not deferred, and at a boundary (R358, R359)? -/
def State.cutDue (s : State) (c : Crew) : Bool :=
  (s.core c.core).vac.any (fun v => v.graceOver && !v.vacant) && c.cutReady && !s.deferred c && s.cutFits c

/-- Cut what is due on a core. -/
def State.cutAll (s : State) (core : Nat) : State :=
  (s.crews.filter (·.core == core)).foldl (fun s c => if s.cutDue c then s.cutCrew c else s) s

/-- GRACE_EXPIRY (R358): the grace is over; every crew that R359 does not defer is cut at its next boundary. -/
def execGraceExpiry (core : Nat) (s : State) : Host.Outcome State Fault Refusal :=
  .next ((s.updCore core fun k => { k with vac := k.vac.map fun v => { v with graceOver := true } }).cutAll core)

/-- A deferral's limit has passed; the crew is cut where it can be. -/
def State.limitOver (s : State) (crew : Nat) (f : CutWish → CutWish) : State :=
  match s.crew? crew with
  | none => s
  | some c =>
    if (s.core c.core).vac.any fun v => v.graceOver then
      (s.setCrew { c with pipe := { c.pipe with cut := f c.pipe.cut } }).cutAll c.core
    else s

/-- PREOFF_LIMIT_EXPIRY (R359). -/
def execPreoffLimitExpiry (crew : Nat) (s : State) : Host.Outcome State Fault Refusal :=
  .next (s.limitOver crew fun w => { w with preoffOver := true })

/-- MASKED_DEFER_EXPIRY (R194). -/
def execMaskedDeferExpiry (crew : Nat) (s : State) : Host.Outcome State Fault Refusal :=
  .next (s.limitOver crew fun w => { w with maskedOver := true })

/-! ## Vacancy and grants -/

/-- Does the Cox of a core's teams stand still, with all it has issued performed (R250, R358)? -/
def State.coxStopped (s : State) (core : Nat) : Bool :=
  s.crews.all fun c => c.core != core || c.cox.all fun u =>
    s.coxIdle u && !(c.lv.cur.masked && 0 < c.depth && !c.pipe.cut.maskedOver)

/-- Is a core that is being vacated vacant (R358)? -/
def State.vacantNow (s : State) (core : Nat) : Bool :=
  s.vacating core && (s.crews.all fun c => c.core != core || c.cox.isSome) && s.coxStopped core

/-- The request that a vacant core is granted to (R362). -/
def State.grantee (s : State) (core : Nat) : Option Request :=
  (s.sched.requests.filter fun q => 0 < q.need && !s.lapsed q && s.mayTake q core).foldl (fun b q =>
    match b with
    | none => some q
    | some p => some (if p.prio < q.prio then q else p)) none

/-- CORE_VACANT (R358, R362): the teams on the core are vacated, their rows returned, and the core is granted to the
unsatisfied request of the highest priority; with none it reopens. -/
def execCoreVacant (core : Nat) (s : State) : Host.Outcome State Fault Refusal :=
  .next (if s.vacantNow core then
    let s1 := (s.residents core).foldl (fun s t => if t.mode == .placed then s.leaveCore t else s) s
    let s2 := s1.updSched fun d => { d with grants := d.grants.filter fun g => g.2.1 != core }
    (match s2.grantee core with
      | some q =>
        let grant (v : Vacate) : Vacate := { v with vacant := true, granted := some q.id }
        (s2.updCore core fun k => { k with vac := k.vac.map grant }).updReq q.id fun q => { q with need := q.need - 1 }
      | none => s2.updCore core fun k => { k with vac := none }).settleRequests
  else s)

end Sys2Proof.Machine
end

