-- ==== Sys2Proof/Machine/Packets.lean ====
section
/-! DEFINITION. Packets of the admin ring and of user queues (R391, R397, R399): where they lie, what they hold, and their
completion; the vectors that the device signals. -/

namespace Sys2Proof.Machine

/-! ## Bytes of a context, as the dispatcher and the Starter reach them -/

/-- Bytes read of a context: the present package-scope values. -/
def State.readCtx (s : State) (c : Ctx) (va n : Nat) : Sum Tr (List Byte) :=
  match s.translateRange c va Need.read n with
  | .inl t => .inl t
  | .inr pas => .inr (pas.map s.mem.cells.get)

/-- Bytes written in a context at one instant, where the translation allows it. -/
def State.writeCtx (s : State) (c : Ctx) (va : Nat) (bs : List Byte) : State :=
  match s.translateRange c va Need.write bs.length with
  | .inl _ => s
  | .inr pas => s.pkgWrite (pas.zip bs)

/-! ## Packets -/

/-- LOG2N of a control register; a value outside 4 to `top` acts as 4 (R391, R399). -/
def ringLog (ctl : Word) (top : Nat) : Nat :=
  let v := bits ctl.toNat 0 5
  if 4 ≤ v && v ≤ top then v else 4

/-- Has a write pointer run further ahead than the ring is long (ERR of R391 and R399)? -/
def ringOver (ctl : Word) (top : Nat) (w r : Word) : Bool := 2 ^ ringLog ctl top < (w - r).toNat

def pktOpc (b : List Byte) : Nat := fld b 0 1
def pktFlags (b : List Byte) : Nat := fld b 1 1
def pktVec (b : List Byte) : Nat := fld b 2 2
def pktArg (b : List Byte) (k : Nat) : Nat := fld b (8 + 8 * k) 8

/-- Is a byte that R397 keeps zero not zero? -/
def pktReserved (b : List Byte) : Bool := 4 ≤ pktFlags b || fld b 4 4 != 0 || fld b 0x20 24 != 0

/-- CPL of a status (R397). -/
def cplBytes (status : Nat) : List Byte := leBytes 8 (2 ^ 63 + status)

/-! ## Vectors -/

/-- Signal an absolute MSI-X vector. -/
def State.signal (s : State) (vec : Nat) : State := s.updHost fun h => { h with msix := h.msix ++ [vec] }

/-- Signal a tenant's vector; one it does not have is recorded with grade G0 (R395). -/
def State.signalTenant (s : State) (ctx i : Nat) : State :=
  match (s.ctx? ctx).bind fun (c : Ctx) => s.tenant? c.d.tenant with
  | none => s
  | some t =>
    if i < bits t.msix.toNat 16 16 then s.signal (bits t.msix.toNat 0 16 + i)
    else s.event 0 ctx 0 0 []

/-! ## User queues -/

/-- The context that owns a slot (R399). -/
def Slot.ctx (q : Slot) : Nat := bits q.qctl.toNat 16 8

/-- Where the packet at RPTR lies (R399). -/
def Slot.va (q : Slot) : Nat := q.base.toNat + 64 * (q.rptr.toNat % 2 ^ ringLog q.qctl 16)

/-- The packet in progress of a slot completes with a status (R397). -/
def State.userDone (s : State) (slot status : Nat) : State :=
  let q := s.slot slot
  if q.cur.isEmpty then s
  else
    let s1 := match s.ctx? q.ctx with
      | some c => s.writeCtx c (q.va + 0x38) (cplBytes status)
      | none => s
    let s2 := if bit (pktFlags q.cur) 0 then s1.signalTenant q.ctx (pktVec q.cur) else s1
    s2.updSlot slot fun q => { q with cur := [], rptr := q.rptr + 1, unres := [] }

/-! ## The admin ring -/

/-- Where admin packet n lies (R391). -/
def State.admAddr (s : State) (n : Word) : Nat :=
  hostAddr (s.dev.admbase.toNat + 64 * (n.toNat % 2 ^ ringLog s.dev.admctl 12))

/-- ADMRPTR stands at the oldest packet that has not completed (R391). -/
def State.admPoint (s : State) : State :=
  s.updDev fun d => { d with admrptr := ((s.host.admPend.head?).map (·.1)).getD s.host.admNext }

/-- Write CPL of admin packet n and signal its vector, which is absolute (R397). -/
def State.admWrite (s : State) (n : Word) (b : List Byte) (status : Nat) : State :=
  let s1 := s.pkgWrite (place (s.admAddr n + 0x38) (cplBytes status))
  if bit (pktFlags b) 0 then s1.signal (pktVec b) else s1

/-- The admin packet in progress completes with a status (R397, R398). -/
def State.admDone (s : State) (status : Nat) : State :=
  if s.host.admCur.isEmpty then s
  else
    ((s.admWrite s.host.admNext s.host.admCur status).updHost fun h =>
      { h with admCur := [], admNext := h.admNext + 1 }).admPoint

/-- Status codes (R397). -/
def OK : Nat := 0
def BADARG : Nat := 1
def BADDESC : Nat := 2
def BUSY : Nat := 3
def NOTFOUND : Nat := 4

end Sys2Proof.Machine
end

