-- ==== Sys2Proof/Machine/Admit.lean ====
section
/-! DEFINITION. Admission of launches (R342, R343, R347, R353). -/

namespace Sys2Proof.Machine

/-! ## The kernel header and its tables -/

/-- A kernel header (R342). -/
structure KHdr where
  coxOff : Nat
  coxRegs : Nat
  nroles : Nat
  idemCnt : Nat
  roleOff : Nat
  idemOff : Nat
  width : Nat
  regs : Nat
  tset : Nat
  flags : Nat
  scratch : Nat
  tiles : Nat
  nq : Nat
deriving DecidableEq, Repr

def khdrOf (b : List Byte) : KHdr :=
  ⟨fld b 0 4, fld b 4 1, fld b 5 1, fld b 6 2, fld b 8 4, fld b 0xC 4, fld b 0x10 1, fld b 0x11 1, fld b 0x12 1, fld b 0x13 1,
    fld b 0x14 4, fld b 0x18 2, fld b 0x1A 1⟩

/-- Is a field of the header outside R342, or a reserved field not zero (R353, reason 4)? -/
def KHdr.bad (h : KHdr) (b : List Byte) : Bool :=
  h.coxOff % 4 != 0 || (if h.coxOff = 0 then h.coxRegs != 0 || h.nq != 0 else h.coxRegs = 0 || 8 < h.coxRegs) ||
  h.nroles = 0 || 8 < h.nroles || 4095 < h.idemCnt || (h.nroles = 1 && h.roleOff != 0) ||
  (h.idemCnt = 0 && h.idemOff != 0) || !([8, 16, 32, 64].contains h.width) ||
  (if h.nroles = 1 then h.regs = 0 || 16 < h.regs else h.regs != 0) || h.tset = 0 || 8 < h.tset || 2 ≤ h.flags ||
  524288 < h.scratch || 256 < h.tiles || 4 < h.nq || (b.drop 0x1B).any (· != 0)

/-- An address at a signed 32-bit offset from ENTRY (R342). -/
def offAddr (entry off : Nat) : Nat := (BitVec.ofNat 64 entry + (BitVec.ofNat 32 off).signExtend 64).toNat

/-- The role table (R343). With one role there is none. -/
def rolesOf (l : LaunchRec) (h : KHdr) (b : List Byte) : List Role :=
  if h.nroles = 1 then [⟨l.entry, (l.threads + l.width - 1) / l.width, 16 * l.regs⟩]
  else (List.range h.nroles).map fun i =>
    ⟨offAddr l.entry (fld b (8 * i) 4), fld b (8 * i + 4) 1, 16 * fld b (8 * i + 5) 1⟩

/-- Does the role table break R343? -/
def rolesBad (l : LaunchRec) (h : KHdr) (b : List Byte) : Bool :=
  h.nroles != 1 &&
  (offAddr l.entry h.roleOff % 8 != 0 || fld b 0 4 != 0 ||
    ((List.range h.nroles).any fun i =>
      let c := fld b (8 * i + 4) 1
      let r := fld b (8 * i + 5) 1
      c = 0 || 16 < c || r = 0 || 16 < r || fld b (8 * i + 6) 2 != 0) ||
    ((List.range h.nroles).map fun i => fld b (8 * i + 4) 1).sum != (l.threads + l.width - 1) / l.width)

/-- The idempotent regions (R343), as signed offsets. -/
def idemsOf (h : KHdr) (b : List Byte) : List (Int × Int) :=
  (List.range h.idemCnt).map fun i =>
    ((BitVec.ofNat 32 (fld b (8 * i) 4)).toInt, (BitVec.ofNat 32 (fld b (8 * i + 4) 4)).toInt)

/-- Are regions ascending, disjoint, not empty and of whole words (R343)? -/
def idemsOk : List (Int × Int) → Bool
  | [] => true
  | (a, b) :: rs => decide (a < b) && a % 4 == 0 && b % 4 == 0 && (rs.head?.all fun r => decide (b ≤ r.1)) && idemsOk rs

/-- Does the record disagree with the header (R353, reason 7)? -/
def declBad (l : LaunchRec) (h : KHdr) : Bool :=
  l.width != h.width || l.regs != h.regs || l.tset != h.tset || l.audit != (h.flags == 1) || l.nq != h.nq ||
  l.scratch < h.scratch || l.tiles < h.tiles

/-! ## The decision -/

/-- What admission decides: it waits for a fault, rejects, or admits. -/
inductive Admit where
  | wait (key : FaultKey) (va : Nat) (host : Bool)
  | reject (reason : Nat)
  | ok (roles : List Role) (idem : List (Nat × Nat)) (cox : Option (Nat × Nat))
deriving DecidableEq, Repr

/-- A failed read: served unless it was declared unresolvable (R353, reason 6). -/
def admitMiss (unres : List FaultKey) (va : Nat) : Tr → Admit
  | .miss k h => if unres.contains k then .reject 6 else .wait k va h
  | _ => .reject 6

/-- Does a cluster have `n` cores that a set of the context could ever use (R353, R382)? -/
def State.setFits (s : State) (c : Ctx) (n cl : Nat) : Bool :=
  n ≤ ((clusterCores cl).filter fun k => s.usable c k && s.chip.dieOn (dieOf k) && !(s.core k).withdrawn &&
    (s.cluster cl).st != .drained && (s.cluster cl).st != .withdrawn).length

/-- Reasons 5, 7, 1, 2, 3 of R353, in this order. -/
def State.admitReason (s : State) (c : Ctx) (l : LaunchRec) (h : KHdr) (rb ib : List Byte) (g : Grid) : Option Nat :=
  if rolesBad l h rb || !idemsOk (idemsOf h ib) || (h.idemCnt != 0 && offAddr l.entry h.idemOff % 8 != 0) ||
      (h.nroles != 1 && l.regs != 0) || (h.nroles = 1 && l.regs = 0) || (l.nq != 0 && h.coxOff = 0) then some 5
  else if declBad l h then some 7
  else if c.d.bhsize < g.area then some 1
  else if 2048 < g.rows || 524288 < l.storeBytes || 256 < l.tiles then some 2
  else if !(c.d.clusters.any (s.setFits c (min l.tset l.teams))) then some 3
  else none

/-- A grid for a launch record, not yet with its roles. -/
def gridOf (id ctx addr : Nat) (l : LaunchRec) (prio : Nat) (parent slot : Option Nat) : Grid :=
  { id := id, gid := id, shadow := none, ctx := ctx, addr := addr, lr := l, roles := [], idem := [], cox := none, prio := prio,
    order := id, parent := parent, slot := slot, next := 0, stop := l.teams, retired := 0, fin := none, wrote := false,
    unres := [] }

/-- The grid with what its header gives. -/
def Grid.filled (g : Grid) (h : KHdr) (rb ib : List Byte) : Grid :=
  let at' (o : Int) : Nat := (BitVec.ofNat 64 g.lr.entry + BitVec.ofInt 64 o).toNat
  { g with
    roles := rolesOf g.lr h rb,
    idem := (idemsOf h ib).map fun r => (at' r.1, at' r.2),
    cox := if h.coxOff = 0 then none else some (offAddr g.lr.entry h.coxOff, 16 * h.coxRegs) }

/-- The decision on an entry (R347, R353). -/
def State.admits (s : State) (c : Ctx) (g : Grid) (unres : List FaultKey) : Admit :=
  let l := g.lr
  let hva := (BitVec.ofNat 64 l.entry - 64#64).toNat
  match s.readCtx c hva 64 with
  | .inl t => admitMiss unres (s.missAt c hva Need.read 64) t
  | .inr b =>
    let h := khdrOf b
    let rva := offAddr l.entry h.roleOff
    let iva := offAddr l.entry h.idemOff
    let rn := if h.nroles = 1 then 0 else 8 * h.nroles
    match s.readCtx c rva rn, s.readCtx c iva (8 * h.idemCnt) with
    | .inl t, _ => admitMiss unres (s.missAt c rva Need.read rn) t
    | _, .inl t => admitMiss unres (s.missAt c iva Need.read (8 * h.idemCnt)) t
    | .inr rb, .inr ib =>
      if h.bad b then .reject 4
      else
        let x := g.filled h rb ib
        match s.admitReason c l h rb ib x with
        | some r => .reject r
        | none => .ok x.roles x.idem x.cox

/-! ## ADMISSION -/

/-- A slot of a pending-launch queue becomes free: the entry leaves, and waiting records are ready (R347). -/
def State.popLaunch (s : State) (team : Nat) (p : PendLaunch → Bool) : State :=
  (s.updTeam team fun t =>
    { t with launchQ := t.launchQ.filter fun e => !p e,
             freed := t.freed + (t.launchQ.filter p).length }).rewake

/-- Add a grid, with a number of its own. -/
def State.addGrid (s : State) (g : Grid) : State :=
  { s with sched := { s.sched with grids := s.sched.grids ++ [g] },
           clock := { s.clock with nextId := s.clock.nextId + 1 } }

/-- Admit the head entry of a team's queue. -/
def State.admitTeam (s : State) (t : Team) (e : PendLaunch) : State :=
  match (s.grid? t.grid).bind fun p => s.ctx? p.ctx with
  | none => s
  | some c =>
    let l := launchRecOf e.bytes
    let g := gridOf s.clock.nextId c.id e.addr l (min l.prio c.d.maxprio) (some t.uid) none
    match s.admits c g e.unres with
    | .wait k va h => s.addFault k va h
    | .reject r =>
      (s.addGrid { g with fin := some ⟨1, r, 2, 0⟩ }).updTeam t.uid (fun t =>
        { t with launchQ := t.launchQ.drop 1, freed := t.freed + 1 }) |>.rewake
    | .ok roles idem cox =>
      (s.addGrid { g with roles := roles, idem := idem, cox := cox }).updTeam t.uid fun t =>
        { t with launchQ := { e with grid := some g.id } :: t.launchQ.drop 1 }

/-- The slots whose LAUNCH packet awaits admission. -/
def State.hostLaunches (s : State) : List (Slot × PendLaunch) :=
  s.host.slots.filterMap fun q => q.launch.map fun e => (q, e)

/-- Can the admission of a host launch go on, or does it wait for a fault? -/
def State.hostAdmits (s : State) (p : Slot × PendLaunch) : Option (Ctx × Grid × Admit) :=
  match s.ctx? p.1.ctx with
  | none => none
  | some c =>
    let l := launchRecOf p.2.bytes
    let g := gridOf s.clock.nextId c.id p.2.addr l (min l.prio c.d.maxprio) none (some p.1.num)
    match s.admits c g p.2.unres with
    | .wait k va h => if s.faultOpen k then none else some (c, g, .wait k va h)
    | a => some (c, g, a)

/-- A host launch that has been admitted or rejected leaves its slot; its packet can complete (R399). -/
def State.hostAdmitted (s : State) (q : Slot) (g : Grid) : State :=
  ((s.addGrid g).updSlot q.num fun q => { q with launch := none, owed := q.owed ++ [g.id] }).userDone q.num 0

/-- Admit the first host launch that can be admitted. -/
def State.admitHost (s : State) : State :=
  match s.hostLaunches.findSome? fun p => (s.hostAdmits p).map fun r => (p.1, r) with
  | none => s
  | some (_, _, _, .wait k va h) => s.addFault k va h
  | some (q, _, g, .reject r) => s.hostAdmitted q { g with fin := some ⟨1, r, 2, 0⟩ }
  | some (q, _, g, .ok roles idem cox) => s.hostAdmitted q { g with roles := roles, idem := idem, cox := cox }

/-- ADMISSION (R347): of the head entry of a team's queue, or of a host launch. -/
def execAdmission (team : Option Nat) (s : State) : Host.Outcome State Fault Refusal :=
  .next (match team with
    | none => s.admitHost
    | some u =>
      match (s.team? u).bind fun t => t.launchQ.head?.map fun e => (t, e) with
      | some (t, e) => if e.grid.isNone then s.admitTeam t e else s
      | none => s)

end Sys2Proof.Machine
end

