-- ==== Sys2Proof/Machine/Sched.lean ====
section
/-! DEFINITION. Placing teams (R248, R349, R351, R354), rollback and relaunch (R365 to R368), retirement (R350) and the
completion of grids (R350, R352). -/

namespace Sys2Proof.Machine

/-! ## The state of a team before its first instruction (R349) -/

/-- The scalars at the start: `s0:s1` hold PARAM, `s2:s3` the record's address (R349). -/
def Grid.scalars (g : Grid) : List Scal :=
  let a := BitVec.ofNat 64 g.addr
  [⟨wordOf g.lr.param 0, false⟩, ⟨wordOf g.lr.param 1, false⟩, ⟨wordOf a 0, false⟩, ⟨wordOf a 1, false⟩] ++
  List.replicate 8 ⟨0, true⟩

/-- A thread at its start: every predicate but `p47` false, every token complete (R349). -/
def startLane (team idx pc : Nat) : Lane :=
  { team := team, idx := idx, pc := pc, ending := none, preds := 0, toks := List.replicate 8 ⟨0, false⟩, run := none,
    preoff := false, poison := ⟨false, false, 0⟩, dom := 0, depth := 0, saves := [], hsave := [], seen := [], wrote := [],
    unres := [], faultOn := none }

/-- A crew or Cox context at its start, with its lanes (R250, R349). -/
def startCrew (d : CtxDesc) (g : Grid) (id core budget width : Nat) (cox : Option Nat) (lanes : List (Option Lane)) : Crew :=
  { id := id, core := core, ctx := g.ctx, grid := g.id, width := width, budget := budget, wb := 0, teamLocal := true, cox := cox,
    inSet := false, lanes := lanes, regs := [], scal := g.scalars, hregs := [], fpcr := d.fpcr, memdef := d.memdef,
    bkpten := d.bkpten, poisonEn := d.poisonEn, cych := none, sel := Sel.fresh, lv := Levels.fresh, pipe := Pipe.fresh }

/-- Crew `c` of a team: threads c x w to c x w + w - 1 (R15), at its role's code with its role's budget (R343). -/
def vectorCrew (d : CtxDesc) (g : Grid) (uid core id c : Nat) : Crew :=
  let w := g.lr.width
  let r := roleOfCrew g.roles c
  startCrew d g id core r.budget w none ((List.range w).map fun j =>
    if c * w + j < g.lr.threads then some (startLane uid (c * w + j) r.code) else none)

/-- A team's Cox context, of width 8 with lane 0 alone (R250, R252). -/
def coxCrew (d : CtxDesc) (g : Grid) (uid core id : Nat) (cox : Nat × Nat) : Crew :=
  startCrew d g id core cox.2 8 (some uid) ((List.range 8).map fun j => if j = 0 then some (startLane uid 0 cox.1) else none)

/-- Start the crews and the Cox context of a team on its core, after an acquire at package scope (R349). -/
def State.startCrews (s : State) (d : CtxDesc) (g : Grid) (uid core : Nat) : State :=
  let n := (g.lr.threads + g.lr.width - 1) / max g.lr.width 1
  let s1 := (List.range n).foldl (fun s c => s.addCrew (vectorCrew d g uid core s.clock.nextId c)) (s.acquireOn core)
  match g.cox with
  | some x => (s1.acquireOn (1000 + s1.clock.nextId)).addCrew (coxCrew d g uid core s1.clock.nextId x)
  | none => s1

/-- A team as R349 leaves it; what is known of its rollbacks stays. -/
def Team.started (t : Team) (g : Grid) : Team :=
  { t with scratch := [], buf := [], restart := true, launchQ := [], windows := List.replicate 8 none, chans := [],
           queues := List.replicate g.lr.nq [], tiles := [], tbars := [], cbars := [], chain := [], coxLive := g.cox.isSome,
           err := none, fwdTo := none, audit := { t.audit with log := [], excluded := false }, away := [] }

/-- A team not yet placed. -/
def newTeam (g : Grid) (uid index : Nat) : Team :=
  { uid := uid, grid := g.id, index := index, core := 0, mode := .saved, res := ⟨0, 0, 0, 0, 0, 0, 0, g.area, none, []⟩, scratch := [],
    buf := [], restart := true, launchQ := [], freed := 0, windows := [], chans := [], queues := [], tiles := [], tbars := [],
    cbars := [], chain := [], coxLive := false, rollbacks := 0, err := none, fwdTo := none,
    audit := ⟨[], false, g.shadow.map fun _ => g.id⟩, home := none, away := [] }

/-- TEAM_START (R349): a team takes its place and starts. -/
def State.startTeam (s : State) (d : CtxDesc) (g : Grid) (uid : Nat) (f : Fit) : State :=
  let s1 := (s.takePlace g uid f).updTeam uid fun t => { t.started g with res := { t.res with area := g.area } }
  (s1.updCtx g.ctx fun c => { c with reserved := c.reserved + g.area }).startCrews d g uid f.core

/-- A team that is new on the chip. -/
def State.placeNew (s : State) (d : CtxDesc) (g : Grid) (index : Nat) (f : Fit) : State :=
  let uid := s.clock.nextId
  let s1 : State := { s with clock := { s.clock with nextId := uid + 1 },
                             sched := { s.sched with teams := s.sched.teams ++ [newTeam g uid index] } }
  s1.startTeam d g uid f

/-- The set of a team as R349 and R273 leave it, on its cluster. -/
def State.freshSet (s : State) (g : Grid) (index cl : Nat) : State :=
  match g.setOf index with
  | none => s
  | some k =>
    if (s.teamSet? g.id k).isSome then s.updSet g.id k fun x => { x with cluster := cl, cbars := [] }
    else s.updSched fun d => { d with sets := d.sets ++ [⟨g.id, k, cl, [], 0, [], []⟩] }

/-! ## Where a grid's teams may go -/

/-- Do the grid's teams run as a replay that may not use the cluster (R376, R378)? -/
def State.barred (s : State) (g : Grid) (cl : Nat) : Bool :=
  g.shadow.isSome && s.sched.replays.any fun r => r.id == g.id && (r.cl0 == cl || r.cl1 == some cl)

/-- Is the cluster on the compute die of the original run (R376)? -/
def State.nearOriginal (s : State) (g : Grid) (cl : Nat) : Bool :=
  s.sched.replays.any fun r => r.id == g.id && r.cl0 / 4 == cl / 4

/-- A place for one team, or for a set of `n`, among clusters of the context (R354). -/
def State.placeIn (s : State) (d : CtxDesc) (g : Grid) (n : Nat) (ok : Nat → Bool) : Option (Nat × List Fit) :=
  if n ≤ 1 then (s.chooseCore g (d.cores.filter fun k => ok (clusterOf k))).map fun f => (clusterOf f.core, [f])
  else s.chooseCluster g n (d.clusters.filter ok)

/-- A place for a grid's next teams; a replay prefers clusters of another compute die (R376). -/
def State.placeFor (s : State) (d : CtxDesc) (g : Grid) (n : Nat) : Option (Nat × List Fit) :=
  if !s.areaFits g n then none
  else if g.shadow.isNone then s.placeIn d g n fun _ => true
  else (s.placeIn d g n fun cl => !s.barred g cl && !s.nearOriginal g cl).orElse fun _ =>
    s.placeIn d g n fun cl => !s.barred g cl

/-! ## TEAM_PLACE -/

/-- Grids in the order in which placement serves them (R347): effective priority, then admission. -/
def Grid.servedBefore (a b : Grid) : Bool := b.prio < a.prio || (a.prio == b.prio && a.order < b.order)

/-- Does a grid have a team to place? A replay comes after the grid's own teams (R376). -/
def State.waitsPlace (s : State) (g : Grid) : Bool :=
  g.fin.isNone && g.next < g.stop && ((s.ctx? g.ctx).any fun (c : Ctx) => !c.suspended && !c.dying) &&
  match g.shadow with
  | none => true
  | some o => (s.grid? o).any fun h => h.next == h.stop

def State.placeOrder (s : State) : List Grid := sortBy Grid.servedBefore (s.sched.grids.filter s.waitsPlace)

/-- The teams placed together: the present members of the set that the next team begins, or the team alone. -/
def Grid.batch (g : Grid) : Nat := max 1 (g.setSize g.next)

/-- The entry whose grid has placed its first team leaves the queue (R347). -/
def State.launchPlaced (s : State) (g : Grid) : State :=
  match g.parent with
  | some u => if g.next = 0 then s.popLaunch u fun e => e.grid == some g.id else s
  | none => s

/-- No core stays reserved for the grid (R354). -/
def State.unreserve (s : State) (g : Nat) : State :=
  s.chip.cores.foldl (fun s k => if k.reserved == some g then s.updCore k.num fun c => { c with reserved := none } else s) s

/-- Place a grid's next teams (R354). -/
def State.placeTeams (s : State) (d : CtxDesc) (g : Grid) (cl : Nat) (fs : List Fit) : State :=
  let s1 := s.freshSet g g.next cl
  let s2 := (fs.zip ((List.range fs.length).map (g.next + ·))).foldl (fun s p => s.placeNew d g p.2 p.1) s1
  (((s2.updGrid g.id fun x => { x with next := g.next + fs.length }).unreserve g.id).launchPlaced g).settleRequests

/-- Do a core's teams all have a lower effective priority, and is there one (R354)? -/
def State.lowerOnly (s : State) (g : Grid) (core : Nat) : Bool :=
  !(s.residents core).isEmpty && (s.residents core).all fun t => (s.grid? t.grid).all fun h => h.prio < g.prio

/-- A core that could hold a team of the grid if it were empty. -/
def State.couldHold (s : State) (g : Grid) (core : Nat) : Bool :=
  s.inService core && ((s.ctx? g.ctx).any fun c => s.usable c core) && !s.barred g (clusterOf core)

/-- The least loaded of some, in rows. -/
def leastLoaded (rows : Nat → Nat) : List Nat → Option Nat
  | [] => none
  | x :: xs =>
    match leastLoaded rows xs with
    | none => some x
    | some y => some (if rows y < rows x then y else x)

/-- Reserve cores for a blocked team or set (R354). -/
def State.reserveFor (s : State) (g : Grid) (cores : List Nat) : State :=
  cores.foldl (fun s k => s.updCore k fun c => { c with reserved := some g.id }) s

/-- May a core be reserved for a grid: none of higher or equal rank holds it? -/
def State.reservable (s : State) (g : Grid) (core : Nat) : Bool :=
  (s.core core).reserved.all fun r => (s.grid? r).all fun h => h.prio < g.prio

/-- The clusters that a set could use. -/
def State.setClusters (s : State) (d : CtxDesc) (g : Grid) (n : Nat) : List Nat :=
  d.clusters.filter fun cl => n ≤ ((clusterCores cl).filter (s.couldHold g)).length

/-- A blocked team or set (R354): a pre-emption request, once, where cores hold only teams of lower priority; else the
least loaded core or cluster is reserved. -/
def State.block (s : State) (d : CtxDesc) (g : Grid) : State :=
  let n := g.batch
  let asked := s.sched.requests.any fun q => q.cause == .blocked g.id g.next
  let held := s.chip.cores.any fun k => k.reserved == some g.id
  if asked || held || !s.areaFits g n then s
  else if n ≤ 1 then
    let cores := d.cores.filter (s.couldHold g)
    let low := cores.filter (s.lowerOnly g)
    if !low.isEmpty then
      s.raiseRequest (.ctx g.ctx) g.prio (.count 1 ((low.map clusterOf).eraseDups)) (.blocked g.id g.next)
    else
      match leastLoaded s.grantedRows (cores.filter (s.reservable g)) with
      | some k => s.reserveFor g [k]
      | none => s
  else
    let cls := s.setClusters d g n
    let inUse (k : Nat) : Bool := !(s.residents k).isEmpty
    match leastLoaded s.clusterRows (cls.filter fun cl => (clusterCores cl).all fun k => !inUse k || s.lowerOnly g k) with
    | some cl => s.raiseRequest (.ctx g.ctx) g.prio (.cores ((clusterCores cl).filter (s.couldHold g))) (.blocked g.id g.next)
    | none =>
      match leastLoaded s.clusterRows (cls.filter fun cl => (clusterCores cl).all (s.reservable g)) with
      | some cl => s.reserveFor g (clusterCores cl)
      | none => s

/-- Place the next teams of the first grid of a list that fits. -/
def State.placeFirst (s : State) : List Grid → State
  | [] => s
  | g :: gs =>
    match (s.ctx? g.ctx).bind fun c => (s.placeFor c.d g g.batch).map fun x => (c, x) with
    | some (c, cl, fs) => s.placeTeams c.d g cl fs
    | none => s.placeFirst gs

/-- The grid that placement serves first asks for room or reserves it, where its next team fits no core (R354). -/
def State.blockFirst (s : State) : List Grid → State
  | [] => s
  | g :: _ =>
    match s.ctx? g.ctx with
    | some c => if (s.placeFor c.d g g.batch).isNone then s.block c.d g else s
    | none => s

/-- TEAM_PLACE (R354). -/
def execTeamPlace (s : State) : Host.Outcome State Fault Refusal :=
  .next ((s.blockFirst s.placeOrder).placeFirst s.placeOrder)

/-! ## Rollback (R365 to R368) -/

/-- The rollbacks of a team, or of its set, so far. -/
def State.rollbackCount (s : State) (g : Grid) (t : Team) : Nat :=
  match (g.setOf t.index).bind fun k => s.teamSet? g.id k with
  | some x => x.rollbacks
  | none => t.rollbacks

/-- One team is off the chip until it is relaunched; its reservation is returned (R365). -/
def State.rollOne (s : State) (cause uid : Nat) : State :=
  match s.team? uid with
  | none => s
  | some t =>
    let ctx := ((s.grid? t.grid).map (·.ctx)).getD 0
    let s1 := (s.endTeamWork uid).updTeam uid fun t =>
      { t with mode := .rolled, err := some cause, rollbacks := t.rollbacks + 1, scratch := [], tiles := [], queues := [],
               windows := [], res := { t.res with rows := 0, area := 0 } }
    s1.updCtx ctx fun c => { c with reserved := c.reserved - t.res.area }

/-- Are drains of this package under way to one of the teams? They cannot be applied any more (R271). One from a peer is
that package's to report. -/
def State.drainsTo (s : State) (ts : List Team) : Bool :=
  s.eng.drains.any fun d => d.port.isNone && d.far.isNone && ts.any fun t => t.grid == d.grid && t.index == d.target

/-- A rollback of a team, or of its whole set (R365, R366): relaunch follows, or a grid fault (R367). -/
def State.rollback (s : State) (uid cause : Nat) : State :=
  match s.team? uid, (s.team? uid).bind fun t => s.grid? t.grid with
  | some t, some g =>
    if t.mode == .rolled then s
    else if g.shadow.isSome then s.endGrid g.id ⟨2, 0, 2, cause⟩
    else
      let ms := t :: s.mates g t
      let ok := ms.all (·.restart)
      let n := s.rollbackCount g t + 1
      let s1 := ms.foldl (fun s m => s.rollOne cause m.uid) (s.updHealth fun h => h.bump 2 1)
      let s2 := match g.setOf t.index with
        | some k => s1.updSet g.id k fun x => { x with rollbacks := x.rollbacks + 1 }
        | none => s1
      (if !ok then s2.endGrid g.id ⟨2, 0, 3, cause⟩
        else if 3 < n then s2.endGrid g.id ⟨2, 0, 2, cause⟩
        else if s.drainsTo ms then s2.endGrid g.id ⟨2, 0, 3, ILLOPND⟩
        else s2.event (1 * 8192 + cause) g.ctx g.gid t.index [clusterOf t.core]).settleRequests.rewake
  | _, _ => s

/-- ECC_CONSUMED (R363, R365, R368): the value is withheld and the team rolled back; an error in a context's descriptor or
in its Starter state is a context fault. -/
def execEccConsumed (holder : EccHolder) (s : State) : Host.Outcome State Fault Refusal :=
  .next (match holder with
    | .team team => s.rollback team ECCU
    | .context ctx => if (s.ctx? ctx).isSome then s.endContext ctx 4 ECCU else s)

/-- A place for a relaunch: on another cluster where one is eligible, else on the same (R367). -/
def State.relaunchPlace (s : State) (d : CtxDesc) (g : Grid) (n old : Nat) : Option (Nat × List Fit) :=
  if !s.areaFits g n then none
  else (s.placeIn d g n fun cl => cl != old).orElse fun _ => s.placeIn d g n fun cl => cl == old

/-- TEAM_RELAUNCH (R367): the team, or its set, starts afresh under R349. -/
def execTeamRelaunch (grid team : Nat) (s : State) : Host.Outcome State Fault Refusal :=
  .next (match s.grid? grid, s.sched.teams.find? fun t => t.grid == grid && t.index == team && t.mode == .rolled with
    | some g, some t =>
      match s.ctx? g.ctx with
      | none => s
      | some c =>
        let ms := sortBy (fun (a b : Team) => a.index < b.index) (t :: s.mates g t)
        if c.suspended || c.dying then s
        else
          match s.relaunchPlace c.d g ms.length (clusterOf t.core) with
          | none => s
          | some (cl, fs) =>
            let s1 := (s.freshSet g t.index cl).updHealth fun h => h.bump 3 1
            ((fs.zip ms).foldl (fun s p => s.startTeam c.d g p.2.uid p.1) s1).settleRequests
    | _, _ => s)

/-! ## Retirement (R350) -/

/-- Has everything of a team been done but its retirement commit (R350)? -/
def State.allDone (s : State) (t : Team) : Bool :=
  t.mode != .rolled && t.fwdTo.isNone && !t.coxLive && t.launchQ.isEmpty && t.away.isEmpty &&
  (s.crews.all fun c => c.cox != some t.uid && c.lanes.all fun l => l.all (·.team != t.uid)) &&
  (t.chans.all fun k => k.src.isEmpty) &&
  (s.recs.all fun r => r.team != t.uid) && (s.eng.copies.all fun k => k.team != t.uid) &&
  (s.eng.sops.all fun k => k.team != t.uid) && (s.eng.kops.all fun k => k.team != t.uid) &&
  (s.eng.mxops.all fun k => k.issuer != t.uid && k.target != t.uid) && s.eng.drains.all fun d => d.issuer != t.uid

/-- Is the sample of a set or team taken (R375)? RATE in 256 draws. -/
def State.sampled (s : State) : State × Bool :=
  let k := s.clock.free
  ({ s with clock := { s.clock with free := k + 1 } },
    decide (Config.choice k % 256 < bits s.dev.relctl.toNat 0 5))

/-- The clusters on which a run of `n` teams of a grid could still be made (R376, R378). -/
def State.otherClusters (s : State) (d : CtxDesc) (g : Grid) (n : Nat) (used : List Nat) : List Nat :=
  d.clusters.filter fun cl => !used.contains cl &&
    n ≤ ((clusterCores cl).filter fun k => s.inService k && (s.ctx? g.ctx).any fun c => s.usable c k).length

/-- A grid for the next run of a sample: the same grid, record and team indices (R376). -/
def Grid.shadowOf (g : Grid) (id first count : Nat) : Grid :=
  { g with id := id, shadow := some g.id, order := id, parent := none, slot := none, next := first, stop := first + count,
           retired := 0, fin := none, wrote := false, unres := [] }

/-- The Umpire takes a sample of the teams with the given runs (R375, R376); without another cluster it is skipped. -/
def State.takeSample (s : State) (d : CtxDesc) (g : Grid) (first cl : Nat) (runs : List (List Host.Cell)) : State :=
  if (s.otherClusters d g runs.length [cl]).isEmpty then s.updHealth fun h => h.bump 5 1
  else
    let id := s.clock.nextId
    (s.addGrid (g.shadowOf id first runs.length)).updSched fun x =>
      { x with replays := x.replays ++ [⟨id, g.id, first, runs.length, cl, none, runs, none⟩] }

/-- UMPIRE_SELECT (R373, R375): judge a sampling unit at its retirement. -/
def State.umpireSelect (s : State) (g : Grid) (first cl : Nat) (runs : List Audit) : State :=
  if !(g.lr.audit && g.shadow.isNone && bit s.dev.relctl.toNat 16) then s
  else if runs.any (·.excluded) then s.updHealth fun h => h.bump 6 1
  else
    match s.sampled, s.ctx? g.ctx with
    | (s1, true), some c => s1.takeSample c.d g first cl (runs.map (·.log))
    | (s1, _), _ => s1

/-- A retired member leaves its chain slots and its audit with the set; with the last, the set is gone (R164, R377). -/
def State.leaveSet (s : State) (g : Grid) (t : Team) : State :=
  match g.setOf t.index with
  | none => s.umpireSelect g t.index (clusterOf t.core) [t.audit]
  | some k =>
    let slots := (List.range g.lr.threads).map fun i =>
      (t.index, { (t.chain.find? (·.idx == i)).getD ⟨i, 0, none, true⟩ with exited := true })
    let s1 := s.updSet g.id k fun x => { x with gone := x.gone ++ slots, audits := x.audits ++ [(t.index, t.audit)] }
    if s1.sched.teams.any fun u => u.grid == g.id && g.setOf u.index == some k then s1
    else
      let audits := ((s1.teamSet? g.id k).map (·.audits)).getD []
      let runs := (List.range g.lr.tset).filterMap fun i => audits.lookup (k * g.lr.tset + i)
      (s1.updSched fun d => { d with sets := d.sets.filter fun x => !(x.grid == g.id && x.set == k) }).umpireSelect g
        (k * g.lr.tset) (clusterOf t.core) runs

/-- Take a retired team off the chip; one that came from a peer was counted there (log entry 122). -/
def State.retire (s : State) (g : Grid) (t : Team) : State :=
  let own := if t.home.isNone then 1 else 0
  let s1 := (s.dropTeam t.uid).updGrid g.id fun x => { x with retired := x.retired + own }
  ((s1.leaveSet g t).settleRequests).rewake

/-- TEAM_RETIRE (R350): first the retirement commit begins, and once it is complete the team leaves. A replay stays for the
Umpire's decision. -/
def execTeamRetire (team : Nat) (s : State) : Host.Outcome State Fault Refusal :=
  .next (match s.team? team, (s.team? team).bind fun t => s.grid? t.grid with
    | some t, some g =>
      if !s.allDone t || !s.commitsDone team then s
      else if !t.buf.isEmpty then
        ((s.updTeam team fun t => { t with mode := .retiring }).beginCommit team t.core none fun _ => true).clearRestart team
      else if g.shadow.isSome then s.updTeam team fun t => { t with mode := .retiring }
      else s.retire g t
    | _, _ => s)

/-! ## GRID_COMPLETE (R350, R352) -/

/-- The STATUS word (R352). -/
def EndStatus.word (f : EndStatus) : Nat := 2 ^ 31 + f.kind * 2 ^ 28 + f.reason * 2 ^ 16 + f.grade * 2 ^ 13 + f.cause % 2 ^ 13

/-- How a grid ended, when it has (R350); the grade of an abandoned one counts every write so far (R352). -/
def Grid.ended (g : Grid) : Option EndStatus :=
  match g.fin with
  | some f => some (if f.kind = 4 then { f with grade := if g.wrote then 3 else 2 } else f)
  | none => if g.next = g.stop && g.retired = g.stop then some ⟨0, 0, 0, 0⟩ else none

/-- Can a grid complete now: its commits are complete, and its samples decided (R350, R376)? -/
def State.mayComplete (s : State) (g : Grid) : Bool :=
  g.shadow.isNone && g.ended.isSome && (s.sched.teams.all fun t => t.grid != g.id) && (s.eng.commits.all fun k => k.grid != g.id) && s.sched.replays.all fun r => r.grid != g.id

/-- Where a word that the device writes at completion lies; a page that is not reachable is passed over. -/
def State.endWord (s : State) (g : Grid) (va : Nat) : Sum (FaultKey × Bool) (Option (List Nat)) :=
  match s.ctx? g.ctx with
  | none => .inr none
  | some c =>
    match s.translateRange c va Need.write 4 with
    | .inr pas => .inr (some pas)
    | .inl (.miss k h) => if g.unres.contains k then .inr none else .inl (k, h)
    | .inl _ => .inr none

/-- A drain state of the health page may have changed (R408, R409). -/
def State.drainSeen (s : State) : State :=
  if s.health.ddrain || !s.health.tdrain.isEmpty then s.touchPage else s

/-- Forget a grid that has completed. -/
def State.forget (s : State) (g : Grid) : State :=
  ((((s.updSched fun d => { d with
    grids := d.grids.filter (·.id != g.id),
    sets := d.sets.filter (·.grid != g.id),
    grants := d.grants.filter (·.1 != g.id) }).updHost fun h =>
      { h with slots := h.slots.map fun q => { q with owed := q.owed.filter (· != g.id) } }).unreserve g.id).launchPlaced
    { g with next := 0 }).settleRequests.drainSeen

/-- GRID_COMPLETE (R350, R352): STATUS at its home slice, then the counter. -/
def execGridComplete (grid : Nat) (s : State) : Host.Outcome State Fault Refusal :=
  .next (match (s.grid? grid).bind fun g => g.ended.map fun f => (g, f) with
    | none => s
    | some (g, f) =>
      if !s.mayComplete g then s
      else
        let va := g.addr + 0x3C
        match s.endWord g va, if g.lr.ctr = 0 then .inr none else s.endWord g g.lr.ctr with
        | .inl (k, h), _ => s.addFault k va h
        | _, .inl (k, h) => s.addFault k g.lr.ctr h
        | .inr st, .inr ctr =>
          let s1 := match st with
            | some pas => s.pkgWrite (pas.zip (leBytes 4 f.word))
            | none => s
          let s2 := match ctr with
            | some pas => s1.pkgWrite (pas.zip (leBytes 4 (leNat (pas.map s1.mem.cells.get) + 1)))
            | none => s1
          (s2.forget g).rewake)

end Sys2Proof.Machine
end

