-- ==== Sys2Proof/Machine/Reliab.lean ====
section
/-! DEFINITION. Errors of the scratchpad and the LLC (R204 to R208, R279), withdrawal (R276, R320, R382), ageing (R369 to
R372), the Umpire's decision (R376 to R378), in-field test (R379, R380) and the run list (R403). -/

namespace Sys2Proof.Machine

/-! ## Withdrawal and cluster states (R379, R382) -/

/-- The state code of a cluster (R408). -/
def ClState.code : ClState → Nat
  | .inService => 1
  | .testDue => 2
  | .overdue => 3
  | .drained => 4
  | .withdrawn => 5

/-- Service is requested for a cause of the health page (R382, R408). -/
def State.requestService (s : State) (cause : Nat) : State :=
  s.updHealth fun h => { h with service := true, svc := h.svc ||| (1#64 <<< cause) }

/-- A cluster takes a state, with its event (R408). A withdrawn one leaves its state by a cold start alone (R379). -/
def State.clusterTo (s : State) (cl : Nat) (st : ClState) : State :=
  let old := (s.cluster cl).st
  if old == st || old == .withdrawn then s
  else (s.updCluster cl fun c => { c with st := st }).event (0x100 + st.code) 0 0 0 [cl]

/-- Vacate cores as a withdrawal does (R355, R357). -/
def State.vacateCores (s : State) (cores : List Nat) (cause : ReqCause) : State :=
  s.raiseRequest .device 16 (.cores cores) cause

/-- Withdraw a cluster: its teams are vacated (R276, R372, R379). -/
def State.withdrawCluster (s : State) (cl : Nat) : State :=
  if (s.cluster cl).st == .withdrawn then s
  else (((s.clusterTo cl .withdrawn).requestService 1).vacateCores (clusterCores cl) .withdraw).settleRequests

/-- Withdraw a core: teams that hold scratchpad are rolled back with RECON, the others vacated (R208). A cluster none of whose
cores is left is withdrawn with them (R379; log entry 120). -/
def State.withdrawCore (s : State) (core : Nat) : State :=
  if (s.core core).withdrawn then s
  else
    let s1 := ((s.updCore core fun k => { k with withdrawn := true }).event (4 * 8192 + RECON) 0 0 0 [clusterOf core]).requestService 0
    let us := ((s1.residents core).filter fun t => t.res.bytes != 0).map (·.uid)
    let s2 := ((us.foldl (fun s u => s.rollback u RECON) s1).vacateCores [core] .withdraw).settleRequests
    if (clusterCores (clusterOf core)).all fun k => (s2.core k).withdrawn then s2.withdrawCluster (clusterOf core) else s2

/-! ## The scratchpad (R201 to R208) -/

/-- SCRATCH_PARITY_UPDATE (R204): the oldest parity update of a core lands, and its row is stale no more. -/
def execScratchParityUpdate (core : Nat) (s : State) : Host.Outcome State Fault Refusal :=
  .next (if (s.core core).stale.isEmpty then s else s.updCore core fun k => { k with stale := k.stale.drop 1 })

/-- The parity group of a bank: 0 to 31 are data banks, 32 + g the parity bank of group g (R201). -/
def bankGroup (b : Nat) : Nat := if b < 32 then b / 4 else b - 32

/-- BANK_RETIRE (R206): a second retired bank of a group withdraws the core (R208). -/
def State.retireBank (s : State) (core b : Nat) : State :=
  if (s.core core).banks.contains b then s
  else
    let second := (s.core core).banks.any fun x => bankGroup x == bankGroup b
    let s1 := (s.updCore core fun k => { k with banks := k.banks ++ [b] }).touchPage
    if second then s1.withdrawCore core else s1

/-- A correctable error, counted (R205, R279). -/
def State.corrected (s : State) : State := s.updHealth fun h => (h.bump 0 1).bump 1 1

/-- An absorbed error, graded G0 (R205, R279, R364). -/
def State.absorbed (s : State) : State := s.updHealth fun h => h.bump 1 1

/-- The bank numbered `k` in a parity group: 0 to 3 its data banks, 4 its parity bank (R201). -/
def groupBank (group k : Nat) : Nat := if k < 4 then 4 * group + k else 32 + group

/-- An error that no reconstruction covers: its bank is retired, and the team that consumed the value is rolled back with
RECON (R207). -/
def State.recon (s : State) (core bank team : Nat) : State := (s.retireBank core bank).rollback team RECON

/-- SCRATCH_ERROR (R205): at core scratchpad offset P, of which P[7:3] is the data bank and P[7:5] the group (R201). A data
word is reconstructed only in a group with all five banks in service. -/
def execScratchError (core offset : Nat) (kind : ScratchErr) (s : State) : Host.Outcome State Fault Refusal :=
  .next (match kind with
    | .correctable => s.corrected
    | .data team =>
      if (s.core core).banks.any fun b => bankGroup b == bits offset 5 3 then s.recon core (bits offset 3 5) team
      else s.absorbed.retireBank core (bits offset 3 5)
    | .parity => s.absorbed.retireBank core (32 + bits offset 5 3)
    | .uncovered team bank => s.recon core (groupBank (bits offset 5 3) bank.toNat) team)

/-! ## The LLC (R279) -/

/-- LLC_ERROR (R279): a poisoned line keeps its mark until commits have written every byte of it. -/
def execLlcError (line : Nat) (kind : LlcErr) (s : State) : Host.Outcome State Fault Refusal :=
  .next (match kind with
    | .correctable => s.corrected
    | .clean => s.absorbed
    | .uncommitted team => s.rollback team ECCU
    | .committed =>
      let la := lineOf line
      { s with mem := { s.mem with
          poison := (la, (List.range 128).map (la + ·)) :: s.mem.poison.filter fun p => p.1 != la } })

/-! ## The Cox and the key units -/

/-- COX_FAILURE (R276): the teams on the cluster with a bound Cox context (R250) are rolled back with ECCU, and the cluster
is withdrawn. -/
def execCoxFailure (cluster : Nat) (s : State) : Host.Outcome State Fault Refusal :=
  let us := (s.sched.teams.filter fun t => t.holds && clusterOf t.core == cluster &&
    (s.grid? t.grid).any (·.cox.isSome)).map (·.uid)
  let s1 := s.withdrawCluster cluster
  .next (us.foldl (fun s u => s.rollback u ECCU) s1)

/-- KEY_UNIT_FAILURE (R320): the nearest other base die serves, and service is requested. -/
def execKeyUnitFailure (die : Nat) (s : State) : Host.Outcome State Fault Refusal :=
  .next (if s.eng.deadUnits.contains die then s
    else (s.updEng fun e => { e with deadUnits := e.deadUnits ++ [die] }).requestService 3)

/-! ## Ageing (R369 to R372) -/

/-- The clock steps that a drift costs (R372). -/
def driftSteps (agectl : Word) (drift : Nat) : Nat :=
  let limit := bits agectl.toNat 12 12
  if drift < limit then 0 else 1 + (drift - limit) / max (bits agectl.toNat 0 12) 1

/-- A measurement of a cluster's monitors (R371, R372). -/
def State.measure (s : State) (cl drift : Nat) : State :=
  let k := driftSteps s.dev.agectl drift
  let floor := bits s.dev.agectl.toNat 24 8
  if 0x54 < k + floor then
    ((s.updCluster cl fun c =>
      { c with drift := drift, fmax := floor, cur := min c.cur floor, floorBit := true }).touchPage).withdrawCluster cl
  else (s.updCluster cl fun c =>
    let f := min c.fmax (0x54 - k)
    { c with drift := drift, fmax := f, cur := min c.cur f }).touchPage

/-- A measurement whose drift nothing fixes (R369). -/
def State.measureFree (s : State) (cl : Nat) : State :=
  let k := s.clock.free
  ({ s with clock := { s.clock with free := k + 1 } } : State).measure cl (Config.drift k % 4096)

/-- The clusters of the enabled dies. -/
def Chip.clustersOn (c : Chip) : List Nat := (List.range 32).filter fun k => c.dieOn (k / 4)

/-- POWER_GOVERNOR_STEP (R371, R372): CUR is the lesser of FMAX and the grant. -/
def execPowerGovernorStep (cluster : Nat) (grant : BitVec 8) (s : State) : Host.Outcome State Fault Refusal :=
  .next (s.updCluster cluster fun c => { c with cur := min c.fmax grant.toNat }).touchPage

/-! ## The Umpire's decision (R376 to R378) -/

/-- One byte of CRC-64/ECMA-182, reflected (R377). -/
def crcByte (c : BitVec 64) (b : Byte) : BitVec 64 :=
  (List.range 8).foldl (fun c _ => if c.getLsbD 0 then (c >>> 1) ^^^ 0xC96C5795D7870F42#64 else c >>> 1) (c ^^^ b.zeroExtend 64)

def crc64 (bs : List Byte) : BitVec 64 := ~~~(bs.foldl crcByte (BitVec.allOnes 64))

/-- A line of a signature's stream: address, mask of committed bytes, the bytes (R377). -/
def sigLine (log : List Host.Cell) (la : Nat) : List Byte :=
  let mask := (List.range 128).foldl (fun m i => if (log.lookup (la + i)).isSome then m + 2 ^ i else m) 0
  leBytes 8 la ++ leBytes 16 mask ++ (List.range 128).map fun i => (log.lookup (la + i)).getD 0

/-- The signature of a run of a team (R377). -/
def signature (log : List Host.Cell) : BitVec 64 :=
  crc64 ((log.foldl (fun l p => insNat (lineOf p.1) l) []).flatMap (sigLine log))

/-- Do two runs agree: does every member (R377)? -/
def runsAgree (a b : List (List Host.Cell)) : Bool := a.map signature == b.map signature

/-- The teams of the run under way of a sample. -/
def State.runTeams (s : State) (r : Replay) : List Team :=
  sortBy (fun (a b : Team) => a.index < b.index) (s.sched.teams.filter (·.grid == r.id))

/-- Must a run be abandoned: it wrote outside a commit, holds more lines than COMMITCAP, or met an error (R376)? -/
def State.runDead (s : State) (r : Replay) : Bool :=
  ((s.grid? r.id).all (·.fin.isSome)) || (s.runTeams r).any fun t =>
    t.audit.excluded ||
      s.lineCap t.uid < ((t.audit.log.foldl (fun l p => insNat (lineOf p.1) l) []) ++ t.buf.map (·.addr)).eraseDups.length

/-- Is a run over (R376)? -/
def State.runOver (s : State) (r : Replay) : Bool :=
  (s.grid? r.id).any (fun g => g.next == g.stop) &&
  ((s.runTeams r).all fun t => t.mode == .retiring && t.buf.isEmpty && s.commitsDone t.uid) &&
  (s.runTeams r).length == r.count

/-- Take a run's teams and its grid off the chip. -/
def State.endRun (s : State) (r : Replay) : State :=
  let us := (s.sched.teams.filter (·.grid == r.id)).map (·.uid)
  let s1 := us.foldl (fun s u => (s.endTeamWork u).dropTeam u) s
  (s1.updSched fun d => { d with
    grids := d.grids.filter (·.id != r.id), sets := d.sets.filter (·.grid != r.id),
    grants := d.grants.filter (·.1 != r.id) }).settleRequests

/-- The sample is over. -/
def State.endSample (s : State) (r : Replay) : State :=
  (s.updSched fun d => { d with replays := d.replays.filter (·.id != r.id) }).rewake

/-- AUDIT_MISMATCH with its grade on the health page (R378). -/
def State.auditEvent (s : State) (r : Replay) (grade : Nat) (cls : List Nat) : State :=
  match s.grid? r.grid with
  | some g => (s.event (grade * 8192 + AUDIT_MISMATCH) g.ctx g.gid r.first cls).updHealth fun h => h.bump 7 1
  | none => s

/-- The Umpire drains a suspect cluster (R378, R379, R382). -/
def State.umpireDrain (s : State) (cl : Nat) : State := (s.clusterTo cl .drained).requestService 2

/-- The original grid completes with AUDIT_MISMATCH, G4 (R378). -/
def State.auditFail (s : State) (r : Replay) : State := s.endGrid r.grid ⟨2, 0, 4, AUDIT_MISMATCH⟩

/-- The decision on a run that is over, on cluster `cl` with the bytes it committed (R378). -/
def State.decide (s : State) (r : Replay) (cl : Nat) (run : List (List Host.Cell)) : State :=
  match r.sp with
  | none =>
    if runsAgree r.so run then (s.updHealth fun h => h.bump 4 1).endSample r
    else
      match s.grid? r.grid, (s.grid? r.grid).bind fun g => s.ctx? g.ctx with
      | some g, some c =>
        if (s.otherClusters c.d g r.count [r.cl0, cl]).isEmpty then
          (((s.auditEvent r 4 [r.cl0, cl]).auditFail r).endSample r)
        else
          let id := s.clock.nextId
          let next : Replay := { r with id := id, cl1 := some cl, sp := some run }
          (s.addGrid (g.shadowOf id r.first r.count)).updSched fun d =>
            { d with replays := d.replays.map fun x => if x.id = r.id then next else x }
      | _, _ => s.endSample r
  | some sp =>
    let cls := [r.cl0] ++ r.cl1.toList ++ [cl]
    if runsAgree run r.so then ((r.cl1.toList.foldl State.umpireDrain (s.auditEvent r 4 cls))).endSample r
    else if runsAgree run sp then (((s.auditEvent r 4 cls).umpireDrain r.cl0).auditFail r).endSample r
    else (s.auditEvent r 0 cls).endSample r

/-- UMPIRE_DECIDE (R376 to R378). -/
def execUmpireDecide (replay : Nat) (s : State) : Host.Outcome State Fault Refusal :=
  .next (match s.sched.replays.find? (·.id == replay) with
    | none => s
    | some r =>
      if s.runDead r then ((s.updHealth fun h => h.bump 5 1).endRun r).endSample r
      else if s.runOver r then
        let ts := s.runTeams r
        let cl := ((ts.head?).map fun t => clusterOf t.core).getD 0
        (s.endRun r).decide r cl (ts.map (·.audit.log))
      else s)

/-! ## In-field test (R379, R380) -/

/-- Is a cluster vacant (R358, R380)? -/
def State.clusterVacant (s : State) (cl : Nat) : Bool :=
  (clusterCores cl).all fun k =>
    (s.crews.all fun c => c.core != k || c.cox.isSome) && s.coxStopped k && s.grantedRows k == 0 &&
    ((s.cluster cl).st != .testDue || (s.core k).withdrawn || (s.core k).vac.any (·.vacant))

/-- IFT_DUE (R380): IFTINT rotations have passed since the cluster's last test. -/
def execIftDue (cluster : Nat) (s : State) : Host.Outcome State Fault Refusal :=
  let int := bits s.dev.relctl.toNat 24 8
  .next (if (s.cluster cluster).st == .inService && int != 0 && int ≤ (s.cluster cluster).sinceTest then
    ((s.clusterTo cluster .testDue).updCluster cluster fun c => { c with dueFor := 0 }).vacateCores
      ((clusterCores cluster).filter fun k => !(s.core k).withdrawn) (.test cluster)
  else s)

/-- The request of a test is withdrawn: cores that it closed reopen (R380). -/
def State.dropTest (s : State) (cl : Nat) : State :=
  let ids := (s.sched.requests.filter (·.cause == .test cl)).map (·.id)
  let s1 := (clusterCores cl).foldl (fun s k =>
    if (s.core k).vac.any fun v => ids.contains v.req && !v.vacant then s.updCore k fun c => { c with vac := none } else s) s
  s1.settleRequests

/-- IFT_OVERDUE (R380): not vacant by the end of the eighth rotation. -/
def execIftOverdue (cluster : Nat) (s : State) : Host.Outcome State Fault Refusal :=
  .next (if (s.cluster cluster).st == .testDue && 8 ≤ (s.cluster cluster).dueFor && !s.clusterVacant cluster then
    (s.clusterTo cluster .overdue).dropTest cluster
  else s)

/-- IFT_RUN (R380): the test of a vacant cluster, with its result and the drift that it measures. -/
def execIftRun (cluster : Nat) (pass : Bool) (drift : BitVec 12) (s : State) : Host.Outcome State Fault Refusal :=
  let st := (s.cluster cluster).st
  .next (if (st == .testDue || st == .overdue) && s.clusterVacant cluster then
    let s1 := s.measure cluster drift.toNat
    if pass then
      ((s1.clusterTo cluster .inService).updCluster cluster fun c => { c with sinceTest := 0, dueFor := 0 }).settleRequests
    else ((s1.withdrawCluster cluster).requestService 4).settleRequests
  else s)

/-! ## The run list (R403) -/

def Slot.enabled (q : Slot) : Bool := bit q.qctl.toNat 31

/-- The contexts that are not suspended and have a mapped queue, ascending (R403). -/
def State.runList (s : State) : List Nat :=
  ((s.ctxs.filter fun c => !c.suspended && !c.dying && s.host.slots.any fun q => q.enabled && q.ctx == c.id).map (·.id)).foldl
    (fun l c => insNat c l) []

/-- A rotation is over: it is counted, tests come nearer, and the monitors are measured (R369, R380, R403). -/
def State.rotated (s : State) : State :=
  let tick (s : State) (k : Nat) : State := (s.updCluster k fun c =>
    { c with sinceTest := c.sinceTest + 1, dueFor := if c.st == .testDue then c.dueFor + 1 else c.dueFor }).measureFree k
  s.chip.clustersOn.foldl tick (s.updHealth fun h => { h with rot := h.rot + 1 })

/-- The next turn goes to a context of a new rotation. -/
def State.newRotation (s : State) : State :=
  let l := s.runList
  s.updHost fun h => { h with turn := l.head?, turnSeen := l.drop 1 }

/-- RUNLIST_TURN (R403): the turn ends. -/
def execRunlistTurn (s : State) : Host.Outcome State Fault Refusal :=
  let l := s.runList
  .next (match s.host.turnSeen.filter l.contains with
    | c :: cs => s.updHost fun h => { h with turn := some c, turnSeen := cs }
    | [] =>
      if s.host.turn.isSome then s.rotated.newRotation
      else s.newRotation)

end Sys2Proof.Machine
end

