-- ==== Sys2Proof/Machine/Starter.lean ====
section
/-! DEFINITION. The commands of the admin ring (R394 to R398, R402, R409). A meaning performs its command and completes the
admin packet in progress, if one is; a command that must wait leaves the packet in progress. -/

namespace Sys2Proof.Machine

/-- A command that changes the state and completes with 0, or only completes with a status. -/
def State.adm (s : State) (status : Nat) : Host.Outcome State Fault Refusal := .next (s.admDone status)

/-! ## Contexts (R337, R338, R396) -/

/-- A virtual-die table breaks R338. -/
def vdtabBad (c : Chip) (t : BitVec 64) : Bool :=
  let b (v : Nat) : Nat := bits t.toNat (8 * v) 8
  let valid (v : Nat) : Bool := bit (b v) 7
  let n := ((List.range 8).filter valid).length
  let dies := (List.range n).map fun v => bits (b v) 0 3
  n = 0 || (List.range 8).any (fun v => if v < n then !valid v || bits (b v) 3 4 != 0 || !c.dieOn (bits (b v) 0 3) else b v != 0) ||
  dies.eraseDups.length != n

/-- The fields of a descriptor (R396), with the defaults of its zeros. -/
def descOf (b : List Byte) : CtxDesc :=
  let lim := fld b 0xC 4
  let dflt (v d : Nat) : Nat := if v = 0 then d else v
  { ptroot := fld b 0 8, pasid := bits (fld b 8 4) 0 20, tenant := bits (fld b 8 4) 20 4, maxprio := bits (fld b 8 4) 24 4,
    quant := dflt (bits lim 0 16) 1, preofflim := dflt (bits lim 16 8) 16, commitcap := dflt (bits lim 24 7) 16,
    bhbase := fld b 0x10 8, bhsize := fld b 0x18 8, bhllc := fld b 0x20 4, memdef := BitVec.ofNat 32 (fld b 0x24 4),
    fpcr := BitVec.ofNat 32 (fld b 0x28 4), bkpten := bit (fld b 0x2C 4) 1, poisonEn := bit (fld b 0x2C 4) 0,
    trapvec := fld b 0x30 8, emuvec := fld b 0x38 8, odis := BitVec.ofNat 128 (fld b 0x40 16),
    vdtab := BitVec.ofNat 64 (fld b 0x50 8), peers := BitVec.ofNat 12 (fld b 0x58 2) }

/-- Does a field of a descriptor break R396 or R338? -/
def State.descBad (s : State) (b : List Byte) : Bool :=
  let d := descOf b
  let lim := fld b 0xC 4
  d.ptroot % 65536 != 0 || bits (fld b 8 4) 28 4 != 0 || bit lim 31 || 64 < bits lim 24 7 ||
  d.bhbase % 65536 != 0 || d.bhsize % 65536 != 0 || 512 < d.bhllc || (d.memdef &&& ~~~0x007FC00F#32) != 0 ||
  bits d.memdef.toNat 16 3 = 7 || 16 ≤ d.fpcr.toNat || 4 ≤ fld b 0x2C 4 || d.trapvec % 4 != 0 || d.emuvec % 4 != 0 ||
  4096 ≤ fld b 0x58 2 || (b.drop 0x5A).any (· != 0) || vdtabBad s.chip d.vdtab || (s.tenant? d.tenant).isNone

/-- A context at its creation (R300, R328). -/
def newCtx (id : Nat) (d : CtxDesc) : Ctx :=
  { id := id, d := d, suspended := false, dying := false, pn := List.replicate 16 0,
    pnCopy := List.replicate 4 (List.replicate 16 0), keys := [], reserved := 0 }

/-- CTX_CREATE (R394, R396, R398, R409). -/
def execCtxCreate (desc ctx : Nat) (s : State) : Host.Outcome State Fault Refusal :=
  let b := s.mem.cells.read (hostAddr desc) 128
  let d := descOf b
  if desc % 64 != 0 then s.adm BADARG
  else if s.health.ddrain || (s.ctx? ctx).isSome then s.adm BUSY
  else if s.descBad b then s.adm BADDESC
  else if s.host.pasids.any (·.1 == d.pasid) then s.adm BUSY
  else
    let s1 : State := { s with ctxs := s.ctxs ++ [newCtx ctx d] }
    (s1.updHost fun h => { h with pasids := h.pasids ++ [(d.pasid, false)] }).adm OK

/-! ## PASIDs (R394) -/

/-- Is nothing of a PASID left: no context, and no ATS or PRI request outstanding (R394)? -/
def State.pasidIdle (s : State) (p : Nat) : Bool :=
  (s.ctxs.all fun (c : Ctx) => c.d.pasid != p) &&
  s.host.faults.all fun f => f.pasid != p || !(f.stage == .ats || f.stage == .pri)

/-- Closing PASIDs with nothing left become free, and their commands complete (R394). -/
def State.settlePasids (s : State) : State :=
  let free := (s.host.pasids.filter fun p => p.2 && s.pasidIdle p.1).map (·.1)
  let done := s.host.admPend.filter fun p => s.pasidIdle p.2
  let s1 := done.foldl (fun s p => s.admWrite p.1 (s.mem.cells.read (s.admAddr p.1) 64) OK) s
  (s1.updHost fun h =>
    { h with pasids := h.pasids.filter fun p => !free.contains p.1,
             faults := h.faults.filter fun f => !(free.contains f.pasid && f.stage == .gone),
             admPend := h.admPend.filter fun p => !done.contains p }).admPoint

/-- PASID_CLOSE (R394): the PASID is closing; the command pends while anything of it is left, and later packets go on. -/
def execPasidClose (pasid : Nat) (s : State) : Host.Outcome State Fault Refusal :=
  let s1 := s.updHost fun h =>
    { h with pasids := h.pasids.map fun p => if p.1 = pasid then (pasid, true) else p }
  .next ((if s1.host.admCur.isEmpty then s1
    else (s1.updHost fun h => { h with admPend := h.admPend ++ [(h.admNext, pasid)], admNext := h.admNext + 1, admCur := [] }).admPoint
    ).settlePasids)

/-! ## The life of a context (R398) -/

/-- Is a PASID closing (R394)? -/
def State.closing (s : State) (p : Nat) : Bool := s.host.pasids.any fun q => q.1 == p && q.2

/-- The launch that waits in a slot of a destroyed context completes with KIND 4 (R352). -/
def State.dropHostLaunch (s : State) (q : Slot) : State :=
  match q.launch with
  | some e => s.addGrid (ghostGrid s.clock.nextId q.ctx e.addr (fld e.bytes 0x28 8) ⟨4, 0, 2, 0⟩)
  | none => s

/-- Every grid of a context ends with KIND 4; its queues and bindings go (R398). -/
def State.beginDestroy (s : State) (ctx : Nat) : State :=
  let gs := (s.sched.grids.filter fun g => g.ctx == ctx && g.fin.isNone && g.shadow.isNone).map (·.id)
  let s1 := gs.foldl (fun s g => s.endGrid g ⟨4, 0, 2, 0⟩) s
  let mine := s1.host.slots.filter fun q => q.enabled && q.ctx == ctx
  let s2 := mine.foldl State.dropHostLaunch s1
  let s3 := s2.updHost fun h => { h with slots := h.slots.filter fun q => !(q.enabled && q.ctx == ctx) }
  (s3.updCtx ctx fun c => { c with dying := true, keys := [] }).settleRequests

/-- Does nothing of a context remain on the package (R398)? -/
def State.nothingLeft (s : State) (ctx : Nat) : Bool :=
  (s.sched.grids.all (·.ctx != ctx)) && (s.eng.commits.all (·.ctx != ctx)) && (s.crews.all (·.ctx != ctx)) &&
  s.recs.all (·.ctx != ctx)

/-- A context leaves: faults to be served by software are dropped, requests to the host stay until they are answered. -/
def State.endDestroy (s : State) (ctx : Nat) : State :=
  let s1 : State := { s with ctxs := s.ctxs.filter (·.id != ctx) }
  ((s1.updHost fun h => { h with
    faults := h.faults.filter fun f => f.key.ctx != ctx || f.stage == .ats || f.stage == .pri }).settlePasids).settleRequests

/-- CTX_DESTROY (R352, R398). -/
def execCtxDestroy (ctx : Nat) (s : State) : Host.Outcome State Fault Refusal :=
  if (s.ctx? ctx).isNone then s.adm NOTFOUND
  else
    let s1 := if (s.ctx? ctx).any (·.dying) then s else s.beginDestroy ctx
    if s1.nothingLeft ctx then (s1.endDestroy ctx).adm OK else .next s1

/-- The cores with a crew or a Cox context of a context. -/
def State.coresOf (s : State) (ctx : Nat) : List Nat :=
  ((s.crews.filter fun c => c.ctx == ctx).map (·.core)).eraseDups

/-- Does a context hold no crew, and do its Cox contexts stand still (R398)? -/
def State.still (s : State) (ctx : Nat) : Bool :=
  s.crews.all fun c => c.ctx != ctx || (c.cox.isSome && s.coxStopped c.core)

/-- CTX_SUSPEND (R40, R398): its cores are vacated at priority 16. -/
def execCtxSuspend (ctx : Nat) (s : State) : Host.Outcome State Fault Refusal :=
  if (s.ctx? ctx).isNone then s.adm NOTFOUND
  else
    let asked := s.sched.requests.any (·.cause == .suspend ctx)
    let s1 := (s.updCtx ctx fun c => { c with suspended := true }).settleRequests
    let s2 := if asked || s1.still ctx then s1 else s1.vacateCores (s1.coresOf ctx) (.suspend ctx)
    if s2.still ctx then s2.settleRequests.adm OK else .next s2

/-- CTX_RESUME (R40, R398). -/
def execCtxResume (ctx : Nat) (s : State) : Host.Outcome State Fault Refusal :=
  if (s.ctx? ctx).isNone then s.adm NOTFOUND
  else ((s.updCtx ctx fun c => { c with suspended := false }).settleRequests.rewake).adm OK

/-- QUEUE_MAP (R398): QCTL keeps its size and gets EN and the owner. -/
def execQueueMap (slot ctx : Nat) (base : DWord) (s : State) : Host.Outcome State Fault Refusal :=
  let q := s.slot slot
  if (s.ctx? ctx).isNone then s.adm NOTFOUND
  else if q.enabled then s.adm BUSY
  else
    let ctl := BitVec.ofNat 32 (2 ^ 31 + ctx % 256 * 2 ^ 16 + bits q.qctl.toNat 0 5)
    (s.updSlot slot fun _ => ⟨slot, base, ctl, 0, 0, [], none, [], []⟩).adm OK

/-! ## Page faults (R22, R353, R393, R398) -/

/-- A lane for which a fault is unresolvable: one that waits for it in place, or has ended for it (R22). -/
def Lane.unserved (k : FaultKey) (l : Lane) : Lane :=
  if l.faultOn == some k || l.ending.any (fun e => e.wait == .fault k) then { l with unres := k :: l.unres } else l

def PendLaunch.unserved (k : FaultKey) (p : PendLaunch) : PendLaunch := { p with unres := k :: p.unres }

/-- Everything of the context that waits for a fault learns that it is unresolvable (R22, R353, R399). -/
def State.markUnserved (s : State) (k : FaultKey) : State :=
  let mine (t : Team) : Bool := (s.grid? t.grid).any (·.ctx == k.ctx)
  let ofTeam (u : Nat) : Bool := (s.team? u).any mine
  { s with
    crews := s.crews.map fun c =>
      if c.ctx == k.ctx then { c with lanes := c.lanes.map (Option.map (Lane.unserved k)) } else c,
    recs := s.recs.map fun r => if r.wait == .fault k then { r with unres := k :: r.unres } else r,
    sched := { s.sched with
      teams := s.sched.teams.map fun t =>
        if mine t then { t with launchQ := t.launchQ.map (PendLaunch.unserved k) } else t,
      grids := s.sched.grids.map fun g => if g.ctx == k.ctx && g.ended.isSome then { g with unres := k :: g.unres } else g },
    host := { s.host with slots := s.host.slots.map fun q =>
      if q.enabled && q.ctx == k.ctx then
        { q with unres := k :: q.unres, launch := q.launch.map (PendLaunch.unserved k) }
      else q },
    eng := { s.eng with
      sops := s.eng.sops.map fun o => if ofTeam o.team then { o with unres := k :: o.unres } else o,
      kops := s.eng.kops.map fun o => if ofTeam o.team then { o with unres := k :: o.unres } else o },
    chip := { s.chip with ports := s.chip.ports.map fun p => { p with unres := k :: p.unres } } }

/-- A fault is resolved, or declared unresolvable: what waits for it tries again (R22). -/
def State.faultAnswered (s : State) (f : Flt) (unresolvable : Bool) : State :=
  let s1 := if unresolvable then s.markUnserved f.key else s
  (s1.updHost fun h => { h with faults := h.faults.filter (· != f) }).rewake

/-- FAULT_DONE (R22, R393, R398). -/
def execFaultDone (fid : Nat) (unresolvable : Bool) (s : State) : Host.Outcome State Fault Refusal :=
  match s.host.faults.find? fun f => f.stage == .written fid with
  | some f => (s.faultAnswered f unresolvable).adm OK
  | none => s.adm NOTFOUND

/-! ## Drains, tenants, service, the bitstream -/

/-- DRAIN (R379, R409). -/
def execDrain (sc : DrainScope) (undrain : Bool) (s : State) : Host.Outcome State Fault Refusal :=
  match sc with
  | .device => (s.updHealth fun h => { h with ddrain := !undrain }).adm OK
  | .tenant n =>
    if 16 ≤ n then s.adm BADARG
    else (s.updHealth fun h =>
      { h with tdrain := if undrain then h.tdrain.filter (· != n) else (n :: h.tdrain.filter (· != n)) }).adm OK
  | .cluster c =>
    if 32 ≤ c || !s.chip.dieOn (c / 4) then s.adm BADARG
    else if undrain then
      (if (s.cluster c).st == .drained then (s.clusterTo c .inService).settleRequests else s).adm OK
    else (s.clusterTo c .drained).settleRequests.adm OK

/-- The oldest grid of a context with a present team of an index. -/
def State.teamOfCtx (s : State) (ctx index : Nat) : Option Team :=
  s.sched.teams.find? fun t => t.index == index && (s.grid? t.grid).any fun g => g.ctx == ctx && g.shadow.isNone

/-- MIGRATE (R46, R355, R398): the team, or its set, gathers for the peer. -/
def execMigrate (ctx team port : Nat) (s : State) : Host.Outcome State Fault Refusal :=
  if (s.ctx? ctx).isNone then s.adm NOTFOUND
  else
    match s.teamOfCtx ctx team with
    | none => s.adm BADARG
    | some t =>
      if 11 < port || !s.bound ctx port then s.adm BADARG
      else
        let go (s : State) (u : Team) : State := s.updTeam u.uid fun x =>
          { x with fwdTo := x.fwdTo.orElse fun _ => some (.peer port) }
        ((s.movers t).foldl go s).adm OK

/-- A tenant block (R395). -/
def tenantOf (n : Nat) (b : List Byte) : Tenant :=
  ⟨n, BitVec.ofNat 32 (fld b 0 4), BitVec.ofNat 32 (fld b 4 4),
    ((List.range 8).map fun w => (fld b (0x10 + 16 * w) 8, fld b (0x18 + 16 * w) 8)).filter (·.2 != 0)⟩

/-- Does a block break R395: clusters or windows of another tenant, ranges that are no multiples of 1 GiB or not of HBM (R3)? -/
def State.tenantBad (s : State) (t : Tenant) (b : List Byte) : Bool :=
  let others := s.host.tenants.filter (·.num != t.num)
  fld b 8 8 != 0 || (others.any fun u => (u.clmask &&& t.clmask) != 0) ||
  (t.wins.any fun w => w.1 % 2 ^ 30 != 0 || w.2 % 2 ^ 30 != 0 || hbmSize < w.1 + w.2) ||
  others.any fun u => u.wins.any fun v => t.wins.any fun w => rangesMeet w.1 w.2 v.1 v.2

/-- TENANT_SET (R395). -/
def execTenantSet (tenant block : Nat) (s : State) : Host.Outcome State Fault Refusal :=
  let b := s.mem.cells.read (hostAddr block) 144
  let t := tenantOf tenant b
  if 16 ≤ tenant then s.adm BADARG
  else if s.ctxs.any fun (c : Ctx) => c.d.tenant == tenant then s.adm BUSY
  else if s.tenantBad t b then s.adm BADARG
  else (s.updHost fun h => { h with tenants := putBy Tenant.num t h.tenants, tenantSet := true }).touchPage.adm OK

/-- Is a withdrawn resource left (R398)? -/
def State.withdrawnLeft (s : State) : Bool :=
  (s.chip.cores.any (·.withdrawn)) || (s.chip.clusters.any (·.st == .withdrawn)) || !s.eng.deadUnits.isEmpty

/-- SVC_CLEAR (R382, R398). -/
def execSvcClear (s : State) : Host.Outcome State Fault Refusal :=
  if s.withdrawnLeft then s.adm BUSY
  else (s.updHealth fun h => { h with service := false, svc := 0 }).adm OK

/-! ## Cold and warm start (R401, R402, R404) -/

/-- The ends that both starts share: contexts, queues and all work are gone, peer ports are trained, the rings of R391 and
the cycle counters start anew (R124). -/
def State.started (s : State) : State :=
  { s with
    agenda := [], cur := none, ctxs := [], crews := [], recs := [], sched := Sched.reset,
    clock := { s.clock with start := s.clock.time },
    chip := { s.chip with ports := [], cores := s.chip.cores.map fun k => { k with floor := 0, view := [], stale := [], vac := none, reserved := none } },
    dev := { s.dev with admctl := DevRegs.reset.admctl, admwptr := 0, admrptr := 0, fltctl := DevRegs.reset.fltctl,
                        fltwptr := 0, fltrptr := 0 },
    host := { s.host with pasids := [], faults := [], ats := [], slots := [], turn := none, turnSeen := [], admNext := 0,
                          admCur := [], admPend := [] },
    eng := { Engines.reset with deadUnits := s.eng.deadUnits } }

/-- All HBM zeroed (R404); host and peer memory is not the package's. -/
def State.clearHbm (s : State) : State :=
  { s with mem := { s.mem with cells := s.mem.cells.filter fun c => hostBase ≤ c.1, hist := [], poison := [] } }

/-- A warm start (R404): verification only where the image is not the one verified last. -/
def State.warmStart (s : State) : State :=
  let ok := s.host.digest == some s.host.image || Config.imageOk s.host.image
  let s1 := if s.host.tenantSet then s.started.clearHbm else s.started
  (s1.updHost fun h => { h with digest := if ok then some h.image else none, tenantSet := false }).updHealth fun h =>
    { h with recovery := !ok }

/-- DEVCTL_WARM (R404, R410). -/
def execDevctlWarm (s : State) : Host.Outcome State Fault Refusal := .next s.warmStart

/-- BITLOAD (R401, R402): accepted only in recovery. -/
def execBitload (addr len : Nat) (s : State) : Host.Outcome State Fault Refusal :=
  let img := s.mem.cells.read (hostAddr addr) len
  if !s.health.recovery then s.adm BADARG
  else if !Config.imageOk img then s.adm BADDESC
  else .next (((s.updHost fun h => { h with image := img, digest := some img }).admDone OK).warmStart)

/-- The banks of a core among those, by core and bank, that fail the self-test (R206, R404). -/
def failedBanks (failed : List (Nat × Nat)) (core : Nat) : List Nat := (List.range 40).filter fun b => failed.contains (core, b)

/-- Does a group hold two of the banks (R208)? -/
def twoInGroup : List Nat → Bool
  | [] => false
  | b :: bs => (bs.any fun x => bankGroup x == bankGroup b) || twoInGroup bs

/-- A core after the self-test of a cold start (R206, R208, R404). -/
def testedCore (failed : List (Nat × Nat)) (k : Nat) : Core :=
  let b := failedBanks failed k
  { Core.fresh k with banks := b, withdrawn := twoInGroup b }

/-- The steps of a cold start, with the image that the flash holds and the banks that its self-test finds failing (R401, R404). -/
def State.coldStart (s : State) (failed : List (Nat × Nat)) : State :=
  let image := s.host.image
  let ok := Config.imageOk image
  let cores := ((List.range 256).filter fun k => s.chip.dieOn (dieOf k)).map (testedCore failed)
  let s1 : State := { s.started.clearHbm with
    clock := { s.clock with start := s.clock.time },
    chip := { s.chip with cores := cores.filter fun k => !k.banks.isEmpty, clusters := [], ports := [] },
    dev := DevRegs.reset,
    health := { Health.reset with recovery := !ok },
    host := { HostSide.reset with image := image, digest := if ok then some image else none },
    eng := Engines.reset }
  let s2 := s1.chip.clustersOn.foldl State.measureFree s1
  if cores.any (·.withdrawn) then s2.requestService 0 else s2

/-- COLD_START (R401, R404). -/
def execColdStart (failed : List (Nat × Nat)) (s : State) : Host.Outcome State Fault Refusal := .next (s.coldStart failed)

end Sys2Proof.Machine
end

