-- ==== Sys2Proof/Machine/Queues.lean ====
section
/-! DEFINITION. The packets of user queues (R399), and the writes of registers of the BAR (R370, R375, R390, R391, R410). -/

namespace Sys2Proof.Machine

/-! ## User packets (R397, R399) -/

/-- Where a packet's word or record lies: its bytes, a fault to be served first, or a failure. -/
inductive Reach where
  | ok (pas : List Nat)
  | wait (key : FaultKey) (host : Bool)
  | bad

/-- Reach `n` bytes for a packet of a slot: aligned to `al`, with the rights, and served unless declared unresolvable. -/
def State.reach (s : State) (slot addr n al : Nat) (need : Need) : Reach :=
  match s.ctx? (s.slot slot).ctx with
  | none => .bad
  | some c =>
    if addr % al != 0 then .bad
    else
      match s.translateRange c addr need n with
      | .inr pas => .ok pas
      | .inl (.miss k h) => if (s.slot slot).unres.contains k then .bad else .wait k h
      | .inl _ => .bad

/-- QUEUE_LAUNCH (R399): the record goes to admission, and the packet completes there. -/
def execQueueLaunch (slot rec : Nat) (s : State) : Host.Outcome State Fault Refusal :=
  .next (if (s.slot slot).launch.isSome then s
  else
    match s.reach slot rec 64 64 Need.read with
    | .bad => s.userDone slot BADARG
    | .wait k h => s.addFault k rec h
    | .ok pas =>
      let b := pas.map s.mem.cells.get
      match recChk b with
      | .ok _ => s.updSlot slot fun q => { q with launch := some ⟨b, rec, none, []⟩ }
      | _ => s.userDone slot BADARG)

/-- WAITCTR (R399). -/
def execWaitctr (slot addr : Nat) (value : Word) (s : State) : Host.Outcome State Fault Refusal :=
  .next (match s.reach slot addr 4 4 Need.read with
    | .bad => s.userDone slot BADARG
    | .wait k h => s.addFault k addr h
    | .ok pas => if value.toNat ≤ leNat (pas.map s.mem.cells.get) then s.userDone slot OK else s)

/-- SIGNAL (R399): an addition at the word's home slice. -/
def execSignal (slot addr : Nat) (value : Word) (s : State) : Host.Outcome State Fault Refusal :=
  .next (match s.reach slot addr 4 4 Need.both with
    | .bad => s.userDone slot BADARG
    | .wait k h => s.addFault k addr h
    | .ok pas => (s.pkgWrite (pas.zip (leBytes 4 (leNat (pas.map s.mem.cells.get) + value.toNat)))).userDone slot OK)

/-! ## Rings and doorbells (R390, R391, R399) -/

/-- Set ERR, bit 30, of a ring's control register when the write pointer has run too far ahead. -/
def ringErr (ctl : Word) (top : Nat) (w r : Word) : Word := if ringOver ctl top w r then ctl ||| 0x40000000 else ctl

/-- ADMWPTR_WRITE (R391). -/
def execAdmwptrWrite (v : Word) (s : State) : Host.Outcome State Fault Refusal :=
  .next (s.updDev fun d => { d with admwptr := v, admctl := ringErr d.admctl 12 v d.admrptr })

/-- QUEUE_DOORBELL (R390, R399). -/
def execQueueDoorbell (slot : Nat) (v : Word) (s : State) : Host.Outcome State Fault Refusal :=
  .next (if slot < 64 then s.updSlot slot fun q => { q with wptr := v, qctl := ringErr q.qctl 16 v q.rptr } else s)

/-- A write of a ring's control register: the fields of `rw` are stored, ERR is cleared by a one. -/
def ctlWrite (old v rw : Word) : Word :=
  let err := old &&& 0x40000000 &&& ~~~v
  (old &&& ~~~(rw ||| 0x40000000)) ||| (v &&& rw) ||| err

/-- The control register after a write of it: ERR is set too where the new LOG2N makes the pointers too far apart (R391, R399,
log entry 124). -/
def ringWrite (old v rw : Word) (top : Nat) (w r : Word) : Word :=
  let new := ctlWrite old v rw
  if ringOver old top w r then new else ringErr new top w r

/-- ADMCTL_WRITE (R391): EN and LOG2N are stored, ERR is W1C. -/
def execAdmctlWrite (v : Word) (s : State) : Host.Outcome State Fault Refusal :=
  .next (s.updDev fun d => { d with admctl := ringWrite d.admctl v 0x8000001F 12 d.admwptr d.admrptr })

/-- FLTCTL_WRITE (R391): EN, VEC and LOG2N are stored. -/
def execFltctlWrite (v : Word) (s : State) : Host.Outcome State Fault Refusal :=
  .next (s.updDev fun d => { d with fltctl := v &&& 0x87FF001F })

/-- FLTRPTR_WRITE (R391). -/
def execFltrptrWrite (v : Word) (s : State) : Host.Outcome State Fault Refusal :=
  .next (s.updDev fun d => { d with fltrptr := v })

/-- QCTL_WRITE (R399): LOG2N is stored, ERR is W1C, EN and CTXID are read only. -/
def execQctlWrite (slot : Nat) (v : Word) (s : State) : Host.Outcome State Fault Refusal :=
  .next (if slot < 64 then s.updSlot slot fun q => { q with qctl := ringWrite q.qctl v 0x0000001F 16 q.wptr q.rptr } else s)

/-! ## DEVCTL (R410) -/

def State.setDevctl (s : State) (n : Nat) (v : Bool) : State :=
  s.updDev fun d => { d with devctl := (d.devctl &&& ~~~(1#32 <<< n)) ||| (if v then 1#32 <<< n else 0) }

/-- DEVCTL_AGE (R410): AGECTL takes its reset value, or LIMIT its greatest. -/
def execDevctlAge (v : Bool) (s : State) : Host.Outcome State Fault Refusal :=
  .next ((s.setDevctl 3 v).updDev fun d =>
    { d with agectl := if v then 0x300C8032 else (d.agectl &&& 0xFF000FFF) ||| 0x00FFF000 })

/-- DEVCTL_IFT (R410): IFTINT takes 0x40, or 0. -/
def execDevctlIft (v : Bool) (s : State) : Host.Outcome State Fault Refusal :=
  .next ((s.setDevctl 2 v).updDev fun d =>
    { d with relctl := (d.relctl &&& 0x00FFFFFF) ||| (if v then 0x40000000 else 0) })

/-- DEVCTL_UMP (R410): UMPEN with RATE 4, or UMPEN off. -/
def execDevctlUmp (v : Bool) (s : State) : Host.Outcome State Fault Refusal :=
  .next ((s.setDevctl 1 v).updDev fun d =>
    { d with relctl := if v then (d.relctl &&& 0xFF000000) ||| 0x00010004 else d.relctl &&& 0xFFFEFFFF })

/-- DEVCTL_DRAIN (R409, R410). -/
def execDevctlDrain (v : Bool) (s : State) : Host.Outcome State Fault Refusal :=
  .next ((s.setDevctl 0 v).updHealth fun h => { h with ddrain := v })

/-! ## Registers without behaviour of their own (R38, R370, R375, R390) -/

/-- RELCTL as a write stores it: RATE above 16 stores 16 (R375). -/
def relctlWrite (v : Word) : Word :=
  let rate := min (bits v.toNat 0 5) 16
  (v &&& 0xFF010000) ||| BitVec.ofNat 32 rate

/-- REGISTER_WRITE (R390). -/
def execRegisterWrite (reg : PlainReg) (v : DWord) (s : State) : Host.Outcome State Fault Refusal :=
  let w := wordOf v 0
  .next (match reg with
    | .agectl => s.updDev fun d => { d with agectl := w }
    | .relctl => s.updDev fun d => { d with relctl := relctlWrite w }
    | .admbase => s.updDev fun d => { d with admbase := v }
    | .fltbase => s.updDev fun d => { d with fltbase := v }
    | .segctl k =>
      if k < 256 && s.chip.dieOn (dieOf k) then s.updCore k fun c => { c with segctl := w &&& 0xFFFF0FFF } else s)

end Sys2Proof.Machine
end

