-- ==== Sys2Proof/Machine/Fabric.lean ====
section
/-! DEFINITION. The fault ring (R391, R393), the host's translation services (R393, R394), the host ports and pages (R336,
R389) and the peer ports (R405 to R407). -/

namespace Sys2Proof.Machine

/-! ## Faults and translation services -/

/-- Has the fault ring room for a record (R391)? -/
def State.fltRoom (s : State) : Bool :=
  bit s.dev.fltctl.toNat 31 && (s.dev.fltwptr - s.dev.fltrptr).toNat < 2 ^ ringLog s.dev.fltctl 16

/-- The record of a fault (R393). -/
def Flt.record (f : Flt) (fid : Nat) : List Byte :=
  leBytes 8 f.va ++ leBytes 1 f.key.ctx ++ leBytes 1 (b1 f.key.write + 2 * b1 f.key.fetch) ++ leBytes 2 0 ++ leBytes 4 fid ++
  leBytes 16 0

/-- The next number that no unresolved fault has (R391). -/
def State.freshFid (s : State) : Nat :=
  let used (n : Nat) : Bool := s.host.faults.any (·.stage == .written n)
  (((List.range (s.host.faults.length + 1)).map fun k => (s.host.nextFid + k) % 2 ^ 32).find? (!used ·)).getD s.host.nextFid

/-- FAULT_RECORD_WRITE (R391, R393): the oldest fault without a record gets one where there is room; a record into an empty
ring is signalled. -/
def execFaultRecordWrite (s : State) : Host.Outcome State Fault Refusal :=
  .next (match s.host.faults.find? (·.stage == .ring) with
    | some f =>
      if !s.fltRoom then s
      else
        let fid := s.freshFid
        let a := hostAddr (s.dev.fltbase.toNat + 32 * (s.dev.fltwptr.toNat % 2 ^ ringLog s.dev.fltctl 16))
        let empty := s.dev.fltwptr == s.dev.fltrptr
        let s1 := (s.pkgWrite (place a (f.record fid))).updHost fun h =>
          { h with nextFid := (fid + 1) % 2 ^ 32, faults := h.faults.map fun g => if g == f then { g with stage := .written fid } else g }
        let s2 := s1.updDev fun d => { d with fltwptr := d.fltwptr + 1 }
        if empty then s2.signal (bits s.dev.fltctl.toNat 16 11) else s2
    | none => s)

/-- The faults of a PASID's host page in a stage. -/
def State.hostFaults (s : State) (pasid page : Nat) (st : FltStage) : List Flt :=
  s.host.faults.filter fun f => f.pasid == pasid && f.va / 4096 == page && f.stage == st

def State.stageTo (s : State) (fs : List Flt) (st : FltStage) : State :=
  s.updHost fun h => { h with faults := h.faults.map fun f => if fs.contains f then { f with stage := st } else f }

/-- Faults are resolved, or declared unresolvable. -/
def State.answerAll (s : State) (fs : List Flt) (unresolvable : Bool) : State :=
  fs.foldl (fun s f => s.faultAnswered f unresolvable) s

/-- ATS_TRANSLATION_RESPONSE (R393, R394): a translation, or a page that is absent and is requested through PRI. For a
closing PASID it is discarded, and the lanes stay parked. -/
def execAtsTranslationResponse (pasid page : Nat) (ans : AtsAnswer) (s : State) : Host.Outcome State Fault Refusal :=
  let fs := s.hostFaults pasid page .ats
  .next (if fs.isEmpty then s
  else if s.closing pasid then (s.stageTo fs .gone).settlePasids
  else
    match ans with
    | .absent => s.stageTo fs .pri
    | .mapped hpa r w x =>
      (s.updHost fun h => { h with
        ats := (pasid, page, hpa, r, w, x) :: h.ats.filter fun t => !(t.1 == pasid && t.2.1 == page) }).answerAll fs false)

/-- PRI_RESPONSE (R393, R394): Success resolves the fault, any other response makes it unresolvable. -/
def execPriResponse (pasid page : Nat) (success : Bool) (s : State) : Host.Outcome State Fault Refusal :=
  let fs := s.hostFaults pasid page .pri
  .next (if fs.isEmpty then s
  else if s.closing pasid then (s.stageTo fs .gone).settlePasids
  else s.answerAll fs (!success))

/-- ATS_INVALIDATION (R389, R394): the translation is forgotten; for a closing PASID its completion cancels the requests. -/
def execAtsInvalidation (pasid page : Nat) (s : State) : Host.Outcome State Fault Refusal :=
  let s1 := s.updHost fun h => { h with ats := h.ats.filter fun t => !(t.1 == pasid && t.2.1 == page) }
  .next (if s.closing pasid then
    (s1.stageTo (s.hostFaults pasid page .ats ++ s.hostFaults pasid page .pri) .gone).settlePasids
  else s1)

/-! ## The host -/

/-- HOST_PORT_DOWN (R389): the other port serves every host line; G0. -/
def execHostPortDown (port : Nat) (s : State) : Host.Outcome State Fault Refusal :=
  .next (if nth s.health.hostUp port false then
    (s.updHealth fun h => { h with hostUp := setNth h.hostUp port false }).event 0 0 0 0 []
  else s)

/-- HOST_PAGE_WRITE (R321, R336). -/
def execHostPageWrite (hpa : Nat) (bytes : List Byte) (s : State) : Host.Outcome State Fault Refusal :=
  .next (s.pkgWrite (place (hostAddr hpa) bytes))

/-! ## Peer ports (R405 to R407) -/

/-- The bytes of a peer's page as the peer has them now (R406). -/
def State.peerBytes (s : State) (port ctx : Nat) (cells : List Host.Cell) : State :=
  if cells.isEmpty then s else s.pkgWrite (cells.map fun c => (peerAddr ctx port c.1, c.2))

/-- The range of a peer's page that a transfer of this package reads. -/
def flitReads : FlitBody → Option (Nat × Nat × Nat)
  | .load ctx va n => some (ctx, va, n)
  | .atomic ctx va _ w64 _ => some (ctx, va, if w64 then 8 else 4)
  | _ => none

/-- What waits for a transfer goes on with its acknowledgement (R271, R405, R406): an operation whose last answer this is
performs next, so that an ATOM returns the value before its own. -/
def State.xferDone (s : State) (port : Nat) (ok : Bool) : XferFor → State
  | .none => s
  | .commit id => s.updEng fun e => { e with
      commits := e.commits.map fun k => if k.id = id then { k with unacked := k.unacked.filter (· != port) } else k }
  | .drain id =>
    match s.eng.drains.find? (·.id == id) with
    | some d =>
      if ok then s.dropDrain id else (s.dropDrain id).endGrid d.grid ⟨2, 0, 3, (causeWord 0 0 ILLOPND).toNat⟩
    | none => s
  | .op crew serial =>
    if s.answered (.op crew serial) then { s with agenda := .longLatencyComplete crew serial :: s.agenda } else s
  | .copy id => if s.answered (.copy id) then { s with agenda := .copyComplete id :: s.agenda } else s

/-- A transfer of this package is acknowledged (R405). -/
def State.peerAck (s : State) (port seq : Nat) (ok : Bool) (cells : List Host.Cell) : State :=
  match (s.port port).unacked.find? (·.seq == seq) with
  | none => s
  | some u =>
    let s1 := s.updPort port fun p => { p with unacked := p.unacked.filter (·.seq != seq) }
    let s2 := match flitReads u.body with
      | some (ctx, va, n) => s1.peerBytes port ctx (cells.filter fun c => va ≤ c.1 && c.1 < va + n)
      | none => s1
    (s2.xferDone port ok u.what).rewake

/-- What comes of a flit: it is not taken yet, or it is taken, with the acknowledgement that goes back at once. -/
inductive Taken where
  | no (s : State)
  | yes (s : State) (ack : Option (Bool × List Host.Cell))

/-- Translate a byte of a peer's access here (R393): where it lies, nowhere (PROT, or a fault declared unresolvable), or a page
that must be served first. -/
def State.peerTr (s : State) (port : Nat) (c : Ctx) (va : Nat) (n : Need) : Tr :=
  match s.translate c va n with
  | .miss k h => if (s.port port).unres.contains k then .prot else .miss k h
  | t => t

/-- Translate the bytes of a peer's access; the first page to be served makes it wait, with its fault recorded (R393). -/
def State.peerPas (s : State) (port ctx : Nat) (n : Need) (vas : List Nat) : Sum State (List (Option Nat)) :=
  match s.ctx? ctx with
  | none => .inr (vas.map fun _ => none)
  | some c =>
    match vas.findSome? fun va => match s.peerTr port c va n with
      | .miss k h => some (s.addFault k va h)
      | _ => none with
    | some s1 => .inl s1
    | none => .inr (vas.map fun va => match s.peerTr port c va n with
        | .ok pa => some pa
        | _ => none)

/-- The stores of a peer commit enter the histories at one instant, translated here (R406). -/
def State.peerStores (s : State) (port ctx : Nat) (cells : List Host.Cell) : Taken :=
  match s.peerPas port ctx Need.write (cells.map (·.1)) with
  | .inl s1 => .no s1
  | .inr pas =>
    let bs := (pas.zip cells).filterMap fun p => p.1.map fun pa => (pa, p.2.2)
    .yes (s.commitWrite bs none) (some (bs.length == cells.length, []))

/-- The value of a peer's atomic (R219, R406). -/
def peerOpValue (op : PeerOp) (w b old : Nat) : Nat :=
  match op with
  | .red op => redValue op w b old
  | .exch => b
  | .cas cmp => if old = cmp.toNat % 2 ^ w then b else old
  | .copy rd ty => cpyRedValue rd ty old b

/-- A peer's atomic, performed at its home slice here: the old bytes go back (R406). -/
def State.peerAtomic (s : State) (port ctx va : Nat) (op : PeerOp) (w64 : Bool) (v : DWord) : Taken :=
  let n := if w64 then 8 else 4
  match s.peerPas port ctx Need.both ((List.range n).map (va + ·)) with
  | .inl s1 => .no s1
  | .inr ps =>
    let pas := ps.filterMap id
    if pas.length != n then .yes s (some (false, []))
    else
      let old := pas.map s.mem.cells.get
      .yes (s.pkgWrite (pas.zip (leBytes n (peerOpValue op (8 * n) (v.toNat % 2 ^ (8 * n)) (leNat old)))))
        (some (true, old.mapIdx fun i b => (va + i, b)))

/-- A peer's load: the bytes go back (R406). -/
def State.peerLoad (s : State) (port ctx va n : Nat) : Taken :=
  match s.peerPas port ctx Need.read ((List.range n).map (va + ·)) with
  | .inl s1 => .no s1
  | .inr ps =>
    let got := (ps.mapIdx fun i p => p.map fun pa => (va + i, s.mem.cells.get pa)).filterMap id
    .yes s (some (got.length == n, got))

/-- The grid with a GRIDID in this instance of a context (R269). -/
def State.peerGrid (s : State) (ctx grid : Nat) : Option Grid :=
  s.sched.grids.find? fun g => g.gid == grid && g.ctx == ctx && g.shadow.isNone && g.fin.isNone

/-- The team of an index in a grid. -/
def State.teamAt (s : State) (g : Grid) (index : Nat) : Option Team :=
  s.sched.teams.find? fun t => t.grid == g.id && t.index == index

/-- A team of which threads have come from a peer and nothing else is here; tiles that came with them wait for slots (R44, R46).
-/
def State.guestTeam (s : State) (g : Grid) (index port : Nat) (tiles : List Tile) : State :=
  let uid := s.clock.nextId
  let core := ((((s.ctx? g.ctx).map fun (c : Ctx) => c.d.cores).getD []).head?).getD 0
  let t : Team := { newTeam g uid index with
    core := core, home := some port, tiles := tiles, mode := if tiles.isEmpty then .restarted else .saved,
    windows := List.replicate 8 none, queues := List.replicate g.lr.nq [],
    res := ⟨core, 0, 0, 0, 0, 0, if tiles.isEmpty then 0 else g.lr.tiles, 0, none, []⟩ }
  { s with clock := { s.clock with nextId := uid + 1 }, sched := { s.sched with teams := s.sched.teams ++ [t] } }

/-- The wait of a record that has come (R45): the word that it waits for is found through this package's page table; a page
fault is met again here. -/
def State.waitIn (s : State) (port : Nat) (c : Ctx) : Wait → Sum State Wait
  | .word va _ cc n b =>
    match s.peerPas port c.id Need.read [va] with
    | .inl s1 => .inl s1
    | .inr ps => .inr (.word va ((ps.head?.join).getD 0) cc n b)
  | .counter va _ b =>
    match s.peerPas port c.id Need.read [va] with
    | .inl s1 => .inl s1
    | .inr ps => .inr (.counter va ((ps.head?.join).getD 0) b)
  | .fault _ => .inr .none
  | .cut n => .inr (.cut (2 ^ 27 + 2 ^ 23 * port + n % 2 ^ 23))
  | w => .inr w

/-- A record as it stands here, held until PEER_RECORD_ARRIVAL has it (R46). -/
def State.recHere (s : State) (port : Nat) (g : Grid) (t : Team) (r : Rec) (w : Wait) : Rec :=
  let k := s.clock.nextId
  { r with
    team := t.uid, ctx := g.ctx, grid := g.id, idem := g.inIdem r.resume, restartable := t.restart, event := k, wait := w,
    unres := [], seen := [], wrote := [],
    cut := r.cut.map fun x => match w with
      | .cut n => { x with serial := n }
      | _ => x,
    bin := { ready := false, since := 0, aged := false, closed := none, cluster := clusterOf t.core, level := 1, written := k,
             bind := none, hold := some (.peer port) } }

/-- Take a record from a peer (R46): its team is the one of that index here, or a guest; a thread that went away has come back.
-/
def State.peerRecord (s : State) (port grid index : Nat) (r : Rec) (tiles : List Tile) : Taken :=
  match s.peerGrid r.ctx grid, s.ctx? r.ctx with
  | some g, some c =>
    let s1 := if (s.teamAt g index).isSome then s else s.guestTeam g index port tiles
    match s1.teamAt g index, s.waitIn port c r.wait with
    | _, .inl s2 => .no s2
    | none, _ => .no s
    | some t, .inr w =>
      let q := s1.recHere port g t r w
      if !s1.storeRoom q.bin.cluster q.bytes then .no s
      else .yes (({ s1 with recs := s1.recs ++ [q], clock := { s1.clock with nextId := s1.clock.nextId + 1 } } : State).updTeam
        t.uid fun t => { t with away := t.away.filter (·.1 != r.idx) }) (some (true, []))
  | _, _ => .no s

/-- Places for a team that comes from a peer: on the cluster of its set, where members of it are here (R45, R248, R354). -/
def State.placeGuest (s : State) (c : Ctx) (g : Grid) (index : Nat) : Option Fit :=
  match g.setOf index with
  | none => s.chooseCore g c.d.cores
  | some k =>
    match s.teamSet? g.id k with
    | some x =>
      s.chooseCore g ((clusterCores x.cluster).filter fun n =>
        s.sched.teams.all fun u => !(u.grid == g.id && g.setOf u.index == some k && u.core == n))
    | none => (s.chooseCluster g (g.setSize index) c.d.clusters).bind fun p => p.2.head?

/-- The Cox context of a team that has come from a peer (R250). -/
def coxFrom (x : CoxImage) (d : CtxDesc) (g : Grid) (uid core id budget : Nat) : Crew :=
  let c := startCrew d g id core budget 8 (some uid)
    ((List.range 8).map fun j => if j = 0 then some { x.lane with team := uid, seen := [], wrote := [], unres := [] } else none)
  { c with wb := x.wb, regs := x.regs, scal := x.scal, hregs := x.hregs, fpcr := x.fpcr, memdef := x.memdef,
           bkpten := x.bkpten, poisonEn := x.poisonEn, lv := x.lv }

/-- Take a whole team from a peer (R45, R46): with its scratchpad, tiles, queues, barriers and pending launches it takes a place
here, and its Cox context goes on; its records follow. -/
def State.peerTeam (s : State) (port ctx grid : Nat) (t : Team) (cox : Option CoxImage) : Taken :=
  match s.peerGrid ctx grid, s.ctx? ctx with
  | some g, some c =>
    if (s.teamAt g t.index).isSome || !s.areaFits g 1 then .no s
    else
      match s.placeGuest c g t.index with
      | none => .no s
      | some f =>
        let uid := s.clock.nextId
        let fresh := ((g.setOf t.index).any fun k => (s.teamSet? g.id k).isNone)
        let u : Team := { t with
          uid := uid, grid := g.id, core := f.core, mode := .vacated, buf := [], err := none, fwdTo := none, away := [],
          home := some port, launchQ := t.launchQ.map fun e => { e with grid := none, unres := [] },
          res := { t.res with rows := 0, area := g.area, tgo := none, imgs := [] }, audit := ⟨[], true, none⟩ }
        let s1 : State := { s with clock := { s.clock with nextId := uid + 1 },
                                   sched := { s.sched with teams := s.sched.teams ++ [u] } }
        let s2 := if fresh then
            (s1.freshSet g t.index (clusterOf f.core)).updSet g.id (((g.setOf t.index)).getD 0) fun x => { x with cbars := t.cbars }
          else s1
        let s3 := (s2.takePlace g uid f).updCtx ctx fun c => { c with reserved := c.reserved + g.area }
        .yes (match cox, g.cox with
          | some x, some d => s3.addCrew (coxFrom x c.d g uid f.core s3.clock.nextId d.2)
          | _, _ => s3) (some (true, []))
  | _, _ => .no s

/-- Take a thread's chain slot from a peer (R165): the others that have threads of the team learn of it; a thread that has
exited there is away no more. -/
def State.peerChain (s : State) (port ctx grid index : Nat) (slot : ChainSlot) : State :=
  match (s.peerGrid ctx grid).bind fun g => s.teamAt g index with
  | none => s
  | some t =>
    let s1 := s.updTeam t.uid fun t => { t with
      chain := putBy ChainSlot.idx slot t.chain,
      away := if slot.exited then t.away.filter (·.1 != slot.idx) else t.away }
    (s1.tellChain t.uid slot.idx (t.peers.filter (· != port))).rewake

/-- A drain from a peer waits for its target here, and is acknowledged once it is applied (R269, R271). -/
def State.peerDrain (s : State) (port seq : Nat) (g : Grid) (target tile rows cols : Nat) (sq : Option Word)
    (elems : List (Nat × Word)) : State :=
  let id := s.clock.nextId
  let d : Drain := ⟨id, id, 0, g.id, none, some (port, seq), target, tile, rows, cols, sq,
    (List.range (rows * cols)).map fun i => (elems.lookup i).getD 0⟩
  { s with clock := { s.clock with nextId := id + 1 }, eng := { s.eng with drains := s.eng.drains ++ [d] } }

/-- Deliver a flit's content (R165, R269, R405, R406). -/
def State.peerDeliver (s : State) (port seq : Nat) : FlitBody → Taken
  | .ack n ok cells => .yes (s.peerAck port n ok cells) none
  | .stores ctx _ cells => s.peerStores port ctx cells
  | .load ctx va n => s.peerLoad port ctx va n
  | .atomic ctx va op w64 v => s.peerAtomic port ctx va op w64 v
  | .record grid index r tiles => s.peerRecord port grid index r tiles
  | .team ctx grid t cox => s.peerTeam port ctx grid t cox
  | .drain ctx grid target tile rows cols sq elems =>
    match s.peerGrid ctx grid with
    | some g => .yes (s.peerDrain port seq g target tile rows cols sq elems) none
    | none => .yes s (some (false, []))
  | .chain ctx grid index slot => .yes (s.peerChain port ctx grid index slot) (some (true, []))
  | .watched ctx cells => .yes (s.peerBytes port ctx cells).rewake (some (true, []))

/-- PEER_FLIT_RECEIVE (R405): flits are taken in the order sent, and each transfer is acknowledged; one taken before, or out of
order, changes nothing. -/
def execPeerFlitReceive (port seq : Nat) (body : FlitBody) (s : State) : Host.Outcome State Fault Refusal :=
  .next (if 11 < port || (s.port port).lost || seq != (s.port port).rxSeq then s
  else
    match s.peerDeliver port seq body with
    | .no s1 => s1
    | .yes s1 ack =>
      let s2 := s1.updPort port fun p => { p with rxSeq := p.rxSeq + 1 }
      match ack with
      | some (ok, cells) => s2.acknowledge port seq ok cells
      | none => s2)

/-- Has a grid an unacknowledged commit with lines on the port (R407)? -/
def State.commitOn (s : State) (port g : Nat) : Bool := s.eng.commits.any fun k => k.grid == g && k.unacked.contains port

/-- The grids with traffic in flight on a port (R407): a transfer of theirs, a commit or a drain is not acknowledged, or
threads of theirs are at the peer, whose ends the port would bring (log entry 122). -/
def State.gridsOn (s : State) (port : Nat) : List Nat :=
  ((s.sched.grids.filter fun g => g.fin.isNone && (s.commitOn port g.id ||
    ((s.port port).unacked.any fun x => x.grid == some g.id) ||
    (s.eng.drains.any fun d => d.grid == g.id && d.port == some port) ||
    s.sched.teams.any fun t => t.grid == g.id && t.away.any (·.2 == port))).map (·.id))

/-- A port is lost (R407): each grid with traffic on it faults with LINK_LOSS, G3 with an unacknowledged commit. Nothing
waits for the port any more. -/
def State.losePort (s : State) (port : Nat) : State :=
  let gs := (s.gridsOn port).map fun g => (g, if s.commitOn port g then 3 else 2)
  let s1 := s.updPort port fun p => { p with lost := true, unacked := [] }
  let s2 := gs.foldl (fun s p => s.endGrid p.1 ⟨2, 0, p.2, LINK_LOSS⟩) s1
  ((s2.updEng fun e => { e with
    commits := e.commits.map fun k => { k with unacked := k.unacked.filter (· != port) },
    drains := e.drains.filter (·.port != some port) }).touchPage).rewake

/-- PEER_PORT_LOSS (R407). -/
def execPeerPortLoss (port : Nat) (s : State) : Host.Outcome State Fault Refusal :=
  .next (if port < 12 && !(s.port port).lost then s.losePort port else s)

/-- PEER_RETRY_TIMEOUT (R405, R407): the transfer is sent again; sixteen failed retries lose the port. -/
def execPeerRetryTimeout (port seq : Nat) (s : State) : Host.Outcome State Fault Refusal :=
  .next (match (s.port port).unacked.find? (·.seq == seq) with
    | none => s
    | some u =>
      if 16 ≤ u.tries then s.losePort port
      else s.updPort port fun p =>
        { p with unacked := p.unacked.map fun x => if x.seq = seq then { x with tries := x.tries + 1 } else x })

end Sys2Proof.Machine
end

