-- ==== Sys2Proof/Machine/Dispatch.lean ====
section
/-! DEFINITION. What each instruction, prefix form and device step does: one arm per constructor, each a direct call of
its meaning. -/

namespace Sys2Proof.Machine

/-- The meaning of an instruction. -/
def exec (i : Instr) (s : State) : Host.Outcome State Fault Refusal :=
  match i with
  | .nop => Sys2Proof.Machine.execNop s
  | .mov d a => Sys2Proof.Machine.execMov d a s
  | .movi d imm => Sys2Proof.Machine.execMovi d imm s
  | .sel d a b p w64 => Sys2Proof.Machine.execSel d a b p w64 s
  | .iadd d a b => Sys2Proof.Machine.execIadd d a b s
  | .isub d a b => Sys2Proof.Machine.execIsub d a b s
  | .iaddi d a la imm => Sys2Proof.Machine.execIaddi d a la imm s
  | .imul d a b => Sys2Proof.Machine.execImul d a b s
  | .imulh d a b n => Sys2Proof.Machine.execImulh d a b n s
  | .imad d a b c => Sys2Proof.Machine.execImad d a b c s
  | .imadw d a b c n => Sys2Proof.Machine.execImadw d a b c n s
  | .idiv d a b rem n w64 lh => Sys2Proof.Machine.execIdiv d a b rem n w64 lh s
  | .imin d a b n w64 => Sys2Proof.Machine.execImin d a b n w64 s
  | .imax d a b n w64 => Sys2Proof.Machine.execImax d a b n w64 s
  | .abs d a => Sys2Proof.Machine.execAbs d a s
  | .neg d a => Sys2Proof.Machine.execNeg d a s
  | .popc d a => Sys2Proof.Machine.execPopc d a s
  | .clz d a => Sys2Proof.Machine.execClz d a s
  | .ctz d a => Sys2Proof.Machine.execCtz d a s
  | .brev d a => Sys2Proof.Machine.execBrev d a s
  | .not d a => Sys2Proof.Machine.execNot d a s
  | .sx8 d a => Sys2Proof.Machine.execSx8 d a s
  | .sx16 d a => Sys2Proof.Machine.execSx16 d a s
  | .zx8 d a => Sys2Proof.Machine.execZx8 d a s
  | .zx16 d a => Sys2Proof.Machine.execZx16 d a s
  | .sx32 d a => Sys2Proof.Machine.execSx32 d a s
  | .abs64 d a => Sys2Proof.Machine.execAbs64 d a s
  | .neg64 d a => Sys2Proof.Machine.execNeg64 d a s
  | .popc64 d a => Sys2Proof.Machine.execPopc64 d a s
  | .clz64 d a => Sys2Proof.Machine.execClz64 d a s
  | .ctz64 d a => Sys2Proof.Machine.execCtz64 d a s
  | .brev64 d a => Sys2Proof.Machine.execBrev64 d a s
  | .not64 d a => Sys2Proof.Machine.execNot64 d a s
  | .icmp pd a b cc n w64 comb => Sys2Proof.Machine.execIcmp pd a b cc n w64 comb s
  | .iset d a b cc n w64 mask => Sys2Proof.Machine.execIset d a b cc n w64 mask s
  | .and d a b => Sys2Proof.Machine.execAnd d a b s
  | .or d a b => Sys2Proof.Machine.execOr d a b s
  | .xor d a b => Sys2Proof.Machine.execXor d a b s
  | .andn d a b => Sys2Proof.Machine.execAndn d a b s
  | .lut3 d a b c tt => Sys2Proof.Machine.execLut3 d a b c tt s
  | .shl d a b => Sys2Proof.Machine.execShl d a b s
  | .shr d a b => Sys2Proof.Machine.execShr d a b s
  | .sar d a b => Sys2Proof.Machine.execSar d a b s
  | .rot d a b => Sys2Proof.Machine.execRot d a b s
  | .fsh d a b amt right clamp => Sys2Proof.Machine.execFsh d a b amt right clamp s
  | .bfx d a signed pl => Sys2Proof.Machine.execBfx d a signed pl s
  | .bfi d a b pl => Sys2Proof.Machine.execBfi d a b pl s
  | .lea d a b shift zx off => Sys2Proof.Machine.execLea d a b shift zx off s
  | .idot4 d a b c na nb sat => Sys2Proof.Machine.execIdot4 d a b c na nb sat s
  | .plog pd pa pb pc tt => Sys2Proof.Machine.execPlog pd pa pb pc tt s
  | .pmovGet0 d => Sys2Proof.Machine.execPmovGet0 d s
  | .pmovGet1 d => Sys2Proof.Machine.execPmovGet1 d s
  | .pmovSet0 a => Sys2Proof.Machine.execPmovSet0 a s
  | .pmovSet1 a => Sys2Proof.Machine.execPmovSet1 a s
  | .pmovPredToReg d p => Sys2Proof.Machine.execPmovPredToReg d p s
  | .pmovRegToPred p a => Sys2Proof.Machine.execPmovRegToPred p a s
  | .fadd d a b => Sys2Proof.Machine.execFadd d a b s
  | .fsub d a b => Sys2Proof.Machine.execFsub d a b s
  | .fmul d a b => Sys2Proof.Machine.execFmul d a b s
  | .ffma d a b c np nc rm => Sys2Proof.Machine.execFfma d a b c np nc rm s
  | .fmin d a b => Sys2Proof.Machine.execFmin d a b s
  | .fmax d a b => Sys2Proof.Machine.execFmax d a b s
  | .fcmp pd a b cc sig comb => Sys2Proof.Machine.execFcmp pd a b cc sig comb s
  | .fabs d a => Sys2Proof.Machine.execFabs d a s
  | .fneg d a => Sys2Proof.Machine.execFneg d a s
  | .fsat d a => Sys2Proof.Machine.execFsat d a s
  | .fclass d a => Sys2Proof.Machine.execFclass d a s
  | .frintRne d a => Sys2Proof.Machine.execFrintRne d a s
  | .frintRz d a => Sys2Proof.Machine.execFrintRz d a s
  | .frintRd d a => Sys2Proof.Machine.execFrintRd d a s
  | .frintRu d a => Sys2Proof.Machine.execFrintRu d a s
  | .frint d a => Sys2Proof.Machine.execFrint d a s
  | .fspec d a fn rm lh => Sys2Proof.Machine.execFspec d a fn rm lh s
  | .fdiv d a b rm lh => Sys2Proof.Machine.execFdiv d a b rm lh s
  | .cvt d a b dty sty nsat rm de se => Sys2Proof.Machine.execCvt d a b dty sty nsat rm de se s
  | .pkadd d a b bf sel rm => Sys2Proof.Machine.execPkadd d a b bf sel rm s
  | .pkmul d a b bf sel rm => Sys2Proof.Machine.execPkmul d a b bf sel rm s
  | .pkfma d a b c bf sel rm => Sys2Proof.Machine.execPkfma d a b c bf sel rm s
  | .fdot4 d a b c aE5 bE5 rm => Sys2Proof.Machine.execFdot4 d a b c aE5 bE5 rm s
  | .fdot8 d a b c rm => Sys2Proof.Machine.execFdot8 d a b c rm s
  | .mxscl d a b sel rm => Sys2Proof.Machine.execMxscl d a b sel rm s
  | .dadd d a b rm => Sys2Proof.Machine.execDadd d a b rm s
  | .dmul d a b rm => Sys2Proof.Machine.execDmul d a b rm s
  | .dfma d a b c np nc rm => Sys2Proof.Machine.execDfma d a b c np nc rm s
  | .dcmp pd a b cc sig comb => Sys2Proof.Machine.execDcmp pd a b cc sig comb s
  | .dmin d a b => Sys2Proof.Machine.execDmin d a b s
  | .dmax d a b => Sys2Proof.Machine.execDmax d a b s
  | .nbr d a right bnd w => Sys2Proof.Machine.execNbr d a right bnd w s
  | .nbrChain d a right bnd => Sys2Proof.Machine.execNbrChain d a right bnd s
  | .shfl d a idx mode w pc => Sys2Proof.Machine.execShfl d a idx mode w pc s
  | .pjoin pd pa mode w => Sys2Proof.Machine.execPjoin pd pa mode w s
  | .lmaskLo d p => Sys2Proof.Machine.execLmaskLo d p s
  | .lmaskHi d p => Sys2Proof.Machine.execLmaskHi d p s
  | .lmask64 d p => Sys2Proof.Machine.execLmask64 d p s
  | .accum d a op excl w => Sys2Proof.Machine.execAccum d a op excl w s
  | .fold d a op w => Sys2Proof.Machine.execFold d a op w s
  | .matchv d a w64 w pc form => Sys2Proof.Machine.execMatchv d a w64 w pc form s
  | .lead pd => Sys2Proof.Machine.execLead pd s
  | .leadLast pd => Sys2Proof.Machine.execLeadLast pd s
  | .prank d p w incl => Sys2Proof.Machine.execPrank d p w incl s
  | .ld1 t a off lh => Sys2Proof.Machine.execLd1 t a off lh s
  | .ld2 t a off lh => Sys2Proof.Machine.execLd2 t a off lh s
  | .ld4 t a off lh => Sys2Proof.Machine.execLd4 t a off lh s
  | .ld8 t a off lh => Sys2Proof.Machine.execLd8 t a off lh s
  | .ld16 t a off lh => Sys2Proof.Machine.execLd16 t a off lh s
  | .st1 t a off lh => Sys2Proof.Machine.execSt1 t a off lh s
  | .st2 t a off lh => Sys2Proof.Machine.execSt2 t a off lh s
  | .st4 t a off lh => Sys2Proof.Machine.execSt4 t a off lh s
  | .st8 t a off lh => Sys2Proof.Machine.execSt8 t a off lh s
  | .st16 t a off lh => Sys2Proof.Machine.execSt16 t a off lh s
  | .atom d a b op w64 lh off => Sys2Proof.Machine.execAtom d a b op w64 lh off s
  | .red a b op w64 off => Sys2Proof.Machine.execRed a b op w64 off s
  | .cpy a b size tok rd ty dsp ssp lh => Sys2Proof.Machine.execCpy a b size tok rd ty dsp ssp lh s
  | .ldwp d ch => Sys2Proof.Machine.execLdwp d ch s
  | .fenceAcq sc => Sys2Proof.Machine.execFenceAcq sc s
  | .fenceRel sc => Sys2Proof.Machine.execFenceRel sc s
  | .fenceAcqrel sc => Sys2Proof.Machine.execFenceAcqrel sc s
  | .fenceX sc w r => Sys2Proof.Machine.execFenceX sc w r s
  | .phaseCommit => Sys2Proof.Machine.execPhaseCommit s
  | .phaseAdvance => Sys2Proof.Machine.execPhaseAdvance s
  | .tcfg tile ty rows cols => Sys2Proof.Machine.execTcfg tile ty rows cols s
  | .tzero tile => Sys2Proof.Machine.execTzero tile s
  | .twr tile a col idx => Sys2Proof.Machine.execTwr tile a col idx s
  | .trd d tile col idx => Sys2Proof.Machine.execTrd d tile col idx s
  | .tld tile a b cm lh => Sys2Proof.Machine.execTld tile a b cm lh s
  | .tst tile a b cm lh => Sys2Proof.Machine.execTst tile a b cm lh s
  | .trel tile => Sys2Proof.Machine.execTrel tile s
  | .tstat d tile => Sys2Proof.Machine.execTstat d tile s
  | .mma tile a b c ty acc => Sys2Proof.Machine.execMma tile a b c ty acc s
  | .mmab tile a b c ty acc => Sys2Proof.Machine.execMmab tile a b c ty acc s
  | .tdrain tile a b seq => Sys2Proof.Machine.execTdrain tile a b seq s
  | .pushq q a => Sys2Proof.Machine.execPushq q a s
  | .popq d q => Sys2Proof.Machine.execPopq d q s
  | .loopa a depth => Sys2Proof.Machine.execLoopa a depth s
  | .cbarArrive bar a => Sys2Proof.Machine.execCbarArrive bar a s
  | .cbarWait bar la ka => Sys2Proof.Machine.execCbarWait bar la ka s
  | .cbarSync bar a => Sys2Proof.Machine.execCbarSync bar a s
  | .tbarArrive bar a => Sys2Proof.Machine.execTbarArrive bar a s
  | .tbarWait bar la ka => Sys2Proof.Machine.execTbarWait bar la ka s
  | .tbarSync bar a => Sys2Proof.Machine.execTbarSync bar a s
  | .gbind win a scat => Sys2Proof.Machine.execGbind win a scat s
  | .gstat d win => Sys2Proof.Machine.execGstat d win s
  | .merge a isect => Sys2Proof.Machine.execMerge a isect s
  | .contract a => Sys2Proof.Machine.execContract a s
  | .kst slot a b => Sys2Proof.Machine.execKst slot a b s
  | .kgather d a b slot fb probe cap => Sys2Proof.Machine.execKgather d a b slot fb probe cap s
  | .kreg slot a => Sys2Proof.Machine.execKreg slot a s
  | .kregUnbind slot la ka => Sys2Proof.Machine.execKregUnbind slot la ka s
  | .launch a => Sys2Proof.Machine.execLaunch a s
  | .bra off => Sys2Proof.Machine.execBra off s
  | .call off => Sys2Proof.Machine.execCall off s
  | .jmp a => Sys2Proof.Machine.execJmp a s
  | .calli a => Sys2Proof.Machine.execCalli a s
  | .ret a => Sys2Proof.Machine.execRet a s
  | .awaitTok mask tl => Sys2Proof.Machine.execAwaitTok mask tl s
  | .awaitWord a b cc n tl => Sys2Proof.Machine.execAwaitWord a b cc n tl s
  | .awaitCtr a b tl => Sys2Proof.Machine.execAwaitCtr a b tl s
  | .awaitPhase a b dom tl => Sys2Proof.Machine.execAwaitPhase a b dom tl s
  | .awaitTbar bar tl => Sys2Proof.Machine.execAwaitTbar bar tl s
  | .awaitCbar bar tl => Sys2Proof.Machine.execAwaitCbar bar tl s
  | .win wb => Sys2Proof.Machine.execWin wb s
  | .exit => Sys2Proof.Machine.execExit s
  | .yield tl => Sys2Proof.Machine.execYield tl s
  | .fwd a tl => Sys2Proof.Machine.execFwd a tl s
  | .preoff => Sys2Proof.Machine.execPreoff s
  | .preon => Sys2Proof.Machine.execPreon s
  | .vdid d => Sys2Proof.Machine.execVdid d s
  | .vdhops d a b => Sys2Proof.Machine.execVdhops d a b s
  | .cyc d => Sys2Proof.Machine.execCyc d s
  | .srr d reg => Sys2Proof.Machine.execSrr d reg s
  | .srw reg a => Sys2Proof.Machine.execSrw reg a s
  | .trap code => Sys2Proof.Machine.execTrap code s
  | .bkpt => Sys2Proof.Machine.execBkpt s
  | .rte => Sys2Proof.Machine.execRte s
  | .emret n => Sys2Proof.Machine.execEmret n s
  | .rpqr d a => Sys2Proof.Machine.execRpqr d a s
  | .rpqw d a => Sys2Proof.Machine.execRpqw d a s
  | .tmask a => Sys2Proof.Machine.execTmask a s
  | .hmovf d n => Sys2Proof.Machine.execHmovf d n s
  | .hmovt n a => Sys2Proof.Machine.execHmovt n a s
  | .grd p neg count => Sys2Proof.Machine.execGrd p neg count s
  | .kw mask => Sys2Proof.Machine.execKw mask s
  | .mem m => Sys2Proof.Machine.execMem m s
  | .tokenWaitPark crew => Sys2Proof.Machine.execTokenWaitPark crew s
  | .longLatencyComplete crew op => Sys2Proof.Machine.execLongLatencyComplete crew op s
  | .recordWrite team thread => Sys2Proof.Machine.execRecordWrite team thread s
  | .boathouseSpill cluster => Sys2Proof.Machine.execBoathouseSpill cluster s
  | .binAgeExpiry team thread => Sys2Proof.Machine.execBinAgeExpiry team thread s
  | .binDrain team thread core => Sys2Proof.Machine.execBinDrain team thread core s
  | .activeSetChange crew => Sys2Proof.Machine.execActiveSetChange crew s
  | .teamMove team => Sys2Proof.Machine.execTeamMove team s
  | .peerRecordArrival port ctx grid team thread => Sys2Proof.Machine.execPeerRecordArrival port ctx grid team thread s
  | .binForward team thread core => Sys2Proof.Machine.execBinForward team thread core s
  | .trapDelivery crew => Sys2Proof.Machine.execTrapDelivery crew s
  | .emulationEntry crew => Sys2Proof.Machine.execEmulationEntry crew s
  | .scratchParityUpdate core => Sys2Proof.Machine.execScratchParityUpdate core s
  | .scratchError core offset kind => Sys2Proof.Machine.execScratchError core offset kind s
  | .llcError line kind => Sys2Proof.Machine.execLlcError line kind s
  | .eccConsumed holder => Sys2Proof.Machine.execEccConsumed holder s
  | .teamRelaunch grid team => Sys2Proof.Machine.execTeamRelaunch grid team s
  | .copyComplete copy => Sys2Proof.Machine.execCopyComplete copy s
  | .channelDelivery team ch bytes => Sys2Proof.Machine.execChannelDelivery team ch bytes s
  | .commitComplete commit => Sys2Proof.Machine.execCommitComplete commit s
  | .teamRetire team => Sys2Proof.Machine.execTeamRetire team s
  | .gridComplete grid => Sys2Proof.Machine.execGridComplete grid s
  | .matrixOpPerform team op => Sys2Proof.Machine.execMatrixOpPerform team op s
  | .drainApply drain => Sys2Proof.Machine.execDrainApply drain s
  | .coxFailure cluster => Sys2Proof.Machine.execCoxFailure cluster s
  | .mergePerform team => Sys2Proof.Machine.execMergePerform team s
  | .contractPerform team => Sys2Proof.Machine.execContractPerform team s
  | .kstInsert crew => Sys2Proof.Machine.execKstInsert crew s
  | .keyUnitFailure die => Sys2Proof.Machine.execKeyUnitFailure die s
  | .admission team => Sys2Proof.Machine.execAdmission team s
  | .teamPlace => Sys2Proof.Machine.execTeamPlace s
  | .preemptRequest who prio want => Sys2Proof.Machine.execPreemptRequest who prio want s
  | .graceExpiry core => Sys2Proof.Machine.execGraceExpiry core s
  | .preoffLimitExpiry crew => Sys2Proof.Machine.execPreoffLimitExpiry crew s
  | .maskedDeferExpiry crew => Sys2Proof.Machine.execMaskedDeferExpiry crew s
  | .coreVacant core => Sys2Proof.Machine.execCoreVacant core s
  | .runlistTurn => Sys2Proof.Machine.execRunlistTurn s
  | .powerGovernorStep cluster grant => Sys2Proof.Machine.execPowerGovernorStep cluster grant s
  | .umpireDecide replay => Sys2Proof.Machine.execUmpireDecide replay s
  | .iftDue cluster => Sys2Proof.Machine.execIftDue cluster s
  | .iftOverdue cluster => Sys2Proof.Machine.execIftOverdue cluster s
  | .iftRun cluster pass drift => Sys2Proof.Machine.execIftRun cluster pass drift s
  | .ctxCreate desc ctx => Sys2Proof.Machine.execCtxCreate desc ctx s
  | .ctxDestroy ctx => Sys2Proof.Machine.execCtxDestroy ctx s
  | .ctxSuspend ctx => Sys2Proof.Machine.execCtxSuspend ctx s
  | .ctxResume ctx => Sys2Proof.Machine.execCtxResume ctx s
  | .queueMap slot ctx base => Sys2Proof.Machine.execQueueMap slot ctx base s
  | .pasidClose pasid => Sys2Proof.Machine.execPasidClose pasid s
  | .faultDone fid unresolvable => Sys2Proof.Machine.execFaultDone fid unresolvable s
  | .drain sc undrain => Sys2Proof.Machine.execDrain sc undrain s
  | .migrate ctx team port => Sys2Proof.Machine.execMigrate ctx team port s
  | .tenantSet tenant block => Sys2Proof.Machine.execTenantSet tenant block s
  | .svcClear => Sys2Proof.Machine.execSvcClear s
  | .bitload addr len => Sys2Proof.Machine.execBitload addr len s
  | .queueLaunch slot rec => Sys2Proof.Machine.execQueueLaunch slot rec s
  | .waitctr slot addr value => Sys2Proof.Machine.execWaitctr slot addr value s
  | .signal slot addr value => Sys2Proof.Machine.execSignal slot addr value s
  | .admwptrWrite v => Sys2Proof.Machine.execAdmwptrWrite v s
  | .queueDoorbell slot v => Sys2Proof.Machine.execQueueDoorbell slot v s
  | .admctlWrite v => Sys2Proof.Machine.execAdmctlWrite v s
  | .fltctlWrite v => Sys2Proof.Machine.execFltctlWrite v s
  | .fltrptrWrite v => Sys2Proof.Machine.execFltrptrWrite v s
  | .qctlWrite slot v => Sys2Proof.Machine.execQctlWrite slot v s
  | .devctlWarm => Sys2Proof.Machine.execDevctlWarm s
  | .devctlAge v => Sys2Proof.Machine.execDevctlAge v s
  | .devctlIft v => Sys2Proof.Machine.execDevctlIft v s
  | .devctlUmp v => Sys2Proof.Machine.execDevctlUmp v s
  | .devctlDrain v => Sys2Proof.Machine.execDevctlDrain v s
  | .registerWrite reg v => Sys2Proof.Machine.execRegisterWrite reg v s
  | .faultRecordWrite => Sys2Proof.Machine.execFaultRecordWrite s
  | .atsTranslationResponse pasid page ans => Sys2Proof.Machine.execAtsTranslationResponse pasid page ans s
  | .priResponse pasid page success => Sys2Proof.Machine.execPriResponse pasid page success s
  | .atsInvalidation pasid page => Sys2Proof.Machine.execAtsInvalidation pasid page s
  | .peerFlitReceive port seq body => Sys2Proof.Machine.execPeerFlitReceive port seq body s
  | .peerRetryTimeout port seq => Sys2Proof.Machine.execPeerRetryTimeout port seq s
  | .peerPortLoss port => Sys2Proof.Machine.execPeerPortLoss port s
  | .hostPortDown port => Sys2Proof.Machine.execHostPortDown port s
  | .coldStart failed => Sys2Proof.Machine.execColdStart failed s
  | .translationComplete crew op => Sys2Proof.Machine.execTranslationComplete crew op s
  | .hostPageWrite hpa bytes => Sys2Proof.Machine.execHostPageWrite hpa bytes s
  | .phaseCopyUpdate ctx dom die => Sys2Proof.Machine.execPhaseCopyUpdate ctx dom die s

end Sys2Proof.Machine
end

