-- ==== Sys2Proof/Machine/Policy.lean ====
section
/-! DEFINITION. Which step comes next where the agenda names none (log entry 1): the events that could come about now, the
crews that can issue, and the packets that the Starter can take. A free value picks one (log entry 5). -/

namespace Sys2Proof.Machine

/-! ## Crews that can issue (R16, R19, R250, R358) -/

/-- Can a crew make an issue: it has its place, nothing holds it, and a lane is eligible? -/
def State.able (s : State) (c : Crew) : Bool :=
  c.inSet && !c.pipe.waiting && c.pipe.traps.isEmpty && (c.elig != 0 || !c.pipe.reinj.isEmpty) && !s.cutDue c &&
  match c.cox with
  | none => true
  | some u =>
    ((s.team? u).any (·.mode == .placed)) &&
    (!s.vacating c.core || c.pipe.stage != 0 || (c.lv.cur.masked && 0 < c.depth && !c.pipe.cut.maskedOver))

/-! ## Events that could come about -/

/-- The events of a crew: translation, completion, delivery, parking, its place in the active set, the ends of its
deferrals. While the crew can go on issuing inside the window of an operation, a trap of that operation does not come yet,
so that these issues read the mappings held before it (R64, R188). -/
def State.crewEvents (s : State) (c : Crew) : List Instr :=
  ((s.toTranslate c).toList.filter fun o => !(s.able c && s.trapsInWindow c o)).map
    (fun o => .translationComplete c.id o.entry.serial) ++
  (c.pipe.inflight.filter fun o => o.translated && !o.done).map (fun o => .longLatencyComplete c.id o.entry.serial) ++
  (match c.trapDue with
    | some t => [if t.emul then .emulationEntry c.id else .trapDelivery c.id]
    | none => []) ++
  (if c.parks != 0 then [.tokenWaitPark c.id] else []) ++
  (if c.cox.isSome then []
    else if !c.inSet then (if s.mayChange c then [.activeSetChange c.id] else [])
    else if c.pipe.waiting && s.mayChange c && s.crews.any fun d => d.core == c.core && !d.inSet then [.activeSetChange c.id]
    else []) ++
  (if (s.core c.core).vac.any (·.graceOver) && s.deferred c then [.preoffLimitExpiry c.id, .maskedDeferExpiry c.id] else [])

/-- Ended lanes whose records can be written; 1024 stands for a Cox context. -/
def State.recordEvents (s : State) : List Instr :=
  s.crews.flatMap fun c => (List.range c.lanes.length).filterMap fun n =>
    (c.lane n).bind fun l => l.ending.bind fun e =>
      if s.mayWrite c n l e then some (.recordWrite l.team (if c.cox.isSome then 1024 else l.idx)) else none

/-- The drain that comes first (R40): of the bin that became ready earliest among those that can drain somewhere. -/
def State.drainEvent (s : State) : Option Instr :=
  (sortBy s.earlier (s.recs.filter s.drains)).findSome? fun r =>
    ((List.range 256).find? fun k => (s.drainOnto r k).isSome).map fun k => .binDrain r.team r.idx k

/-- Ready records that may grow old, and bins that may be forwarded. -/
def State.binEvents (s : State) : List Instr :=
  (s.recs.filter fun r => r.bin.ready && !r.bin.aged).map (fun r => .binAgeExpiry r.team r.idx) ++
  (s.recs.filter s.mayForward).flatMap fun r =>
    (((s.ctx? r.ctx).map fun (c : Ctx) => c.d.cores).getD []).filterMap fun k =>
      if clusterOf k != r.bin.cluster && s.takesBin r k then some (.binForward r.team r.idx k) else none

/-- The events of the engines. -/
def State.engineEvents (s : State) : List Instr :=
  (s.eng.copies.filter fun k => !s.copyHeld k).map (fun k => .copyComplete k.id) ++
  (s.eng.commits.filter (·.unacked.isEmpty)).map (fun k => .commitComplete k.id) ++ s.eng.hostDue.map (fun k => .commitComplete k.1) ++
  s.eng.mxops.map (fun m => .matrixOpPerform m.target m.id) ++
  s.eng.drains.map (fun d => .drainApply d.id) ++
  ((s.eng.sops.map (·.team)).eraseDups.flatMap fun u => [.mergePerform u, .contractPerform u]) ++
  (s.eng.kops.map (·.crew)).eraseDups.map (fun c => .kstInsert c) ++
  (s.sched.teams.flatMap fun t => (t.chans.filter fun k => !k.src.isEmpty).map fun k => .channelDelivery t.uid k.num k.left) ++
  s.ctxs.flatMap fun c => (List.range 16).flatMap fun d => (List.range 4).filterMap fun b =>
    if c.pnAt b d != nth c.pn d 0 then some (.phaseCopyUpdate c.id d b) else none

/-- The events of the dispatcher and the reliability services. -/
def State.schedEvents (s : State) : List Instr :=
  (s.sched.teams.filter fun t => s.allDone t && s.commitsDone t.uid).map (fun t => .teamRetire t.uid) ++
  (s.sched.grids.filter s.mayComplete).map (fun g => .gridComplete g.id) ++
  (s.sched.teams.filter (·.mode == .rolled)).map (fun t => .teamRelaunch t.grid t.index) ++
  (s.sched.teams.filter fun t => t.launchQ.head?.any (·.grid.isNone)).map (fun t => .admission (some t.uid)) ++
  (if s.hostLaunches.isEmpty then [] else [.admission none]) ++
  (if s.placeOrder.isEmpty then [] else [.teamPlace]) ++
  (s.sched.teams.filter fun t => t.fwdTo.isSome && s.gathered t).map (fun t => .teamMove t.uid) ++
  s.sched.replays.map (fun r => .umpireDecide r.id) ++
  (s.chip.cores.filter fun k => k.vac.any (!·.graceOver) || s.crews.any fun c => c.core == k.num && s.cutDue c).map
    (fun k => .graceExpiry k.num) ++
  (s.chip.cores.filter fun k => s.vacantNow k.num).map (fun k => .coreVacant k.num) ++
  (s.chip.cores.filter fun k => !k.stale.isEmpty).map (fun k => .scratchParityUpdate k.num) ++
  s.chip.clusters.flatMap fun c =>
    match c.st with
    | .inService => [.iftDue c.num]
    | .testDue => [.iftOverdue c.num]
    | _ => []

/-- In-field tests of vacant clusters; the result and the drift measured are free. -/
def State.testEvents (s : State) : List Instr :=
  (s.chip.clusters.filter fun c => (c.st == .testDue || c.st == .overdue) && s.clusterVacant c.num).map fun c =>
    .iftRun c.num (Config.choice (s.clock.free + 1) % 2 == 0) (BitVec.ofNat 12 (Config.drift (s.clock.free + 1)))

/-- Records from a peer, spills, fault records, turns of the run list. -/
def State.otherEvents (s : State) : List Instr :=
  (s.recs.filterMap fun r => match r.bin.hold, s.team? r.team, s.grid? r.grid with
    | some (.peer p), some t, some g =>
      if t.fwdTo.isNone then some (.peerRecordArrival p r.ctx g.gid t.index r.idx) else none
    | _, _, _ => none) ++
  (s.recs.map (·.bin.cluster)).eraseDups.filterMap (fun k => if s.storeHigh k then some (.boathouseSpill k) else none) ++
  (if s.host.faults.any (·.stage == .ring) && s.fltRoom then [.faultRecordWrite] else []) ++
  if s.runList.isEmpty then [] else [.runlistTurn]

def State.events (s : State) : List Instr :=
  s.crews.flatMap s.crewEvents ++ s.recordEvents ++ s.engineEvents ++ s.schedEvents ++ s.drainEvent.toList ++ s.testEvents ++
  s.binEvents ++ s.otherEvents

/-- The crews that can issue, beginning with another one as time goes on. -/
def State.ableCrews (s : State) : List Nat :=
  let l := (s.crews.filter s.able).map (·.id)
  let k := s.clock.time % max l.length 1
  l.drop k ++ l.take k

/-! ## Packets (R391, R394, R397 to R399, R402, R403, R409) -/

/-- The command of an admin packet; none completes with BADARG (R398). -/
def adminInstr (b : List Byte) : Option Instr :=
  let a0 := pktArg b 0
  let a1 := pktArg b 1
  let a2 := pktArg b 2
  if pktReserved b then none
  else
    match pktOpc b with
    | 0x10 => some (.ctxCreate a0 (a1 % 256))
    | 0x11 => some (.ctxDestroy (a1 % 256))
    | 0x12 => some (.ctxSuspend (a1 % 256))
    | 0x13 => some (.ctxResume (a1 % 256))
    | 0x14 => some (.queueMap (a0 % 64) (a1 % 256) (BitVec.ofNat 64 a2))
    | 0x15 => some (.pasidClose (a0 % 2 ^ 20))
    | 0x16 => some (.faultDone (a0 % 2 ^ 32) (bit a1 0))
    | 0x17 =>
      match a0 % 4 with
      | 0 => some (.drain .device (bit a2 0))
      | 1 => some (.drain (.tenant a1) (bit a2 0))
      | 2 => some (.drain (.cluster a1) (bit a2 0))
      | _ => none
    | 0x18 => some (.migrate (a0 % 256) (a1 % 2 ^ 32) (a2 % 16))
    | 0x19 => some (.tenantSet (a0 % 16) a1)
    | 0x1A => some .svcClear
    | 0x1B => some (.bitload a0 a1)
    | _ => none

/-- In recovery the admin ring accepts only BITLOAD (R402). -/
def State.adminCmd (s : State) (b : List Byte) : Option Instr :=
  if s.health.recovery && pktOpc b != 0x1B then none else adminInstr b

/-- Is there a packet in the admin ring to start (R391)? -/
def State.adminReady (s : State) : Bool :=
  s.host.admCur.isEmpty && bit s.dev.admctl.toNat 31 && !bit s.dev.admctl.toNat 30 && s.host.admNext != s.dev.admwptr

def State.fetchAdmin (s : State) : State :=
  s.updHost fun h => { h with admCur := s.mem.cells.read (s.admAddr h.admNext) 64 }

/-- The command of a user packet (R399). -/
def userInstr (slot : Nat) (b : List Byte) : Option Instr :=
  match pktOpc b with
  | 1 => some (.queueLaunch slot (pktArg b 0))
  | 2 => some (.waitctr slot (pktArg b 0) (BitVec.ofNat 32 (pktArg b 1)))
  | 3 => some (.signal slot (pktArg b 0) (BitVec.ofNat 32 (pktArg b 1)))
  | _ => none

/-- May the queue of a slot be fetched now (R391, R394, R398, R403, R409)? -/
def State.userReady (s : State) (q : Slot) : Bool :=
  q.cur.isEmpty && q.enabled && !bit q.qctl.toNat 30 && q.wptr != q.rptr && s.host.turn == some q.ctx && !s.health.ddrain &&
  (s.ctx? q.ctx).any fun (c : Ctx) => !c.suspended && !c.dying && !s.closing c.d.pasid && !s.health.tdrain.contains c.d.tenant

/-- Take the packet of a slot: its bytes and its CPL are reached through the context; a FENCE waits for the grids of earlier
packets (R397). -/
def State.fetchUser (s : State) (q : Slot) : State :=
  match s.ctx? q.ctx with
  | none => s
  | some c =>
    match s.readCtx c q.va 64, s.translateRange c (q.va + 0x38) Need.write 8 with
    | .inr b, .inr _ =>
      if bit (pktFlags b) 1 && !q.owed.isEmpty then s else s.updSlot q.num fun q => { q with cur := b }
    | .inl (.miss k h), _ => if q.unres.contains k then s else s.addFault k (s.missAt c q.va Need.read 64) h
    | _, .inl (.miss k h) =>
      if q.unres.contains k then s else s.addFault k (s.missAt c (q.va + 0x38) Need.write 8) h
    | _, _ => s

/-! ## The choice -/

/-- What can come next: an event, an issue of a crew, the admin ring, a user queue. -/
inductive Turn where
  | event (i : Instr)
  | crew (k : Nat)
  | admin
  | queue (slot : Nat)
deriving DecidableEq, Repr

def State.turns (s : State) : List Turn :=
  s.events.map .event ++ (if s.adminReady || !s.host.admCur.isEmpty then [.admin] else []) ++
  ((s.host.slots.filter fun q => s.userReady q || !q.cur.isEmpty).map fun q => .queue q.num) ++ s.ableCrews.map .crew

/-- Begin an issue of a crew: its parts stand in the agenda (R19, R49, R188). -/
def State.beginIssue (s : State) (k : Nat) : Host.Outcome State Fault Refusal :=
  let a : Act (List Instr) :=
    match (s.crew? k).bind fun c => c.pipe.reinj.head? with
    | some e => reinject k e
    | none => freshIssue k
  match EStateM.run a s with
  | .ok l t => .next { t with agenda := l ++ t.agenda }
  | .error .done t => .next t
  | .error (.fault f) _ => .fault f
  | .error (.refused r) _ => .refused r

/-- Execute a command, or complete its packet with BADARG. -/
def State.command (s : State) (i : Option Instr) (bad : State) : Host.Outcome State Fault Refusal :=
  match i with
  | some i => exec i s
  | none => .next bad

/-- Take a turn; an issue's first part is executed with it. -/
def State.take (s : State) : Turn → Host.Outcome State Fault Refusal
  | .event i => exec i s
  | .crew k =>
    match s.beginIssue k with
    | .next t =>
      match t.agenda with
      | i :: rest => exec i { t with agenda := rest }
      | [] => .next t
    | o => o
  | .admin =>
    let t := if s.host.admCur.isEmpty then s.fetchAdmin else s
    t.command (t.adminCmd t.host.admCur) (t.admDone BADARG)
  | .queue n =>
    let t := if (s.slot n).cur.isEmpty then s.fetchUser (s.slot n) else s
    let b := (t.slot n).cur
    if b.isEmpty then .next t else t.command (userInstr n b) (t.userDone n BADARG)

/-- Does a turn change anything? -/
def State.works (s : State) (x : Turn) : Bool :=
  match s.take x with
  | .next t => t != s
  | _ => true

/-- Rotate a list. -/
def rotate {α : Type} (n : Nat) (l : List α) : List α := l.drop n ++ l.take n

/-- The turn to take, and the state after the choice: of several, a free value says where the search begins. -/
def State.pick (s : State) : State × Option Turn :=
  match s.turns with
  | [] => (s, none)
  | [.crew k] => (s, some (.crew k))
  | [x] => (s, if s.works x then some x else none)
  | l =>
    let s1 : State := { s with clock := { s.clock with free := s.clock.free + 1 } }
    (s1, (rotate (Config.choice s.clock.free % l.length) l).find? s1.works)

/-- A crew that waits in place tries again. -/
def State.retry (s : State) : State :=
  { s with crews := s.crews.map fun c => { c with pipe := { c.pipe with waiting := false } } }

/-- The end of a turn: no issue is in progress any more, and crews that wait try again, unless the turn itself only
waited. -/
def State.endTurn (s : State) : State :=
  if !s.agenda.isEmpty then s
  else
    match s.cur with
    | none => s.retry
    | some i =>
      let t : State := { s with cur := none }
      if (s.crew? i.crew).any fun c => c.pipe.waiting then t else t.retry

/-- One unit of model time passes (log entry 4). -/
def State.tickClock (s : State) : State := { s with clock := { s.clock with time := s.clock.time + 1 } }

/-- Bring an outcome to its end. -/
def endOutcome : Host.Outcome State Fault Refusal → Host.Outcome State Fault Refusal
  | .next t => .next t.endTurn
  | o => o

/-- A turn with an empty agenda. -/
def State.turn (s : State) : Host.Outcome State Fault Refusal :=
  match s.tickClock.pick with
  | (t, some x) => endOutcome (t.take x)
  | (t, none) => .next t

end Sys2Proof.Machine
end

