-- ==== Sys2Proof/Machine/Loader.lean ====
section
/-! DEFINITION. How a program stands in the machine without the host: one team of a grid, placed and about to issue, whose
code lies in a page of its context (log entry 11). The words of an instruction are put where the next issue fetches. -/

namespace Sys2Proof.Machine

/-- The longest run of words of one decoded instruction: a guard, a prefix, two words and a literal. -/
def longest : Nat := 20

/-- The bytes of an instruction whose bits are `w`: little-endian words, the first lowest (R4, R48), zero behind. -/
def instrBytes (w : Nat) : List Byte := leBytes longest w

/-- The first of the `n` numbers from `k` on that a predicate does not exclude, or 0. -/
def firstFree (used : Nat → Bool) : (n k : Nat) → Nat
  | 0, _ => 0
  | n + 1, k => if used k then firstFree used n (k + 1) else k

/-- A number below `n` that a predicate does not exclude. -/
def unused (n : Nat) (used : Nat → Bool) : Nat := firstFree used n 0

def codeVa : Nat := 0x8000
def codePa : Nat := 0x38000

/-- A page table with one 32 KiB page at `codeVa`, readable, writable and executable (R392). -/
def loaderTable : List (Nat × Byte) :=
  let entry (a v : Nat) : List (Nat × Byte) := place a (leBytes 8 v)
  entry 0x10000 (2 ^ 63 + 0x20000) ++ entry 0x20000 (2 ^ 63 + 0x30000) ++ entry 0x30000 (2 ^ 63 + 0x31000) ++
  entry 0x31008 (2 ^ 63 + codePa + 0xF)

/-- A context that uses it (R396). -/
def loaderDesc (tenant pasid : Nat) : CtxDesc :=
  { ptroot := 0x10000, pasid := pasid, tenant := tenant, maxprio := 15, quant := 1, preofflim := 16, commitcap := 16,
    bhbase := 0, bhsize := 2 ^ 30, bhllc := 0, memdef := 0, fpcr := 0, bkpten := false, poisonEn := false, trapvec := 0,
    emuvec := 0, odis := 0, vdtab := 0x80, peers := 0 }

/-- A launch record of one team of eight threads (R341). -/
def loaderRec : LaunchRec := ⟨codeVa, 1, 1, 1, 8, 1, 1, 8, 16, 4096, 8, 1, 0, 0, 0, 0, false⟩

/-- The grid that it launches, with its team placed. -/
def loaderGrid (id ctx : Nat) : Grid :=
  { gridOf id ctx 0 loaderRec 0 none none with roles := [⟨codeVa, 1, 256⟩], next := 1 }

/-- A machine with that team on core 0, about to issue for the first time (R349). -/
def State.withProgram (s : State) : State :=
  let tn := unused 16 fun n => (s.tenant? n).isSome
  let cn := unused 256 fun n => (s.ctx? n).isSome
  let d := loaderDesc tn (unused (2 ^ 20) fun n => s.host.pasids.any (·.1 == n))
  let gid := s.clock.nextId
  let g := loaderGrid gid cn
  let t : Team := { (newTeam g (gid + 1) 0).started g with
    core := 0, mode := .placed, res := ⟨0, g.rows, 0, 4096, 0, 0, 8, g.area, none, []⟩ }
  let c := { vectorCrew d g (gid + 1) 0 (gid + 2) 0 with inSet := true }
  { s with
    clock := { s.clock with nextId := gid + 3 },
    mem := { s.mem with cells := s.mem.cells.setAll loaderTable },
    host := { s.host with
      tenants := putBy Tenant.num ⟨tn, 0, 0, [(0, 2 ^ 30)]⟩ s.host.tenants,
      pasids := s.host.pasids ++ [(d.pasid, false)] },
    ctxs := s.ctxs ++ [{ newCtx cn d with reserved := g.area }],
    sched := { s.sched with grids := s.sched.grids ++ [g], teams := s.sched.teams ++ [t] },
    crews := s.crews ++ [c] }

/-- Where the next issue of the only thing that can happen fetches: the crew's PC, translated. -/
def State.nextFetch (s : State) : Option Nat :=
  match s.agenda, s.turns with
  | [], [.crew k] =>
    match s.crew? k, (s.crew? k).bind fun c => s.ctx? c.ctx with
    | some c, some x =>
      if !c.pipe.reinj.isEmpty then none
      else c.choose.bind fun p =>
        match s.translateRange x p.2.1 Need.exec longest with
        | .inr (pa :: pas) => if (pa :: pas) == (List.range longest).map (pa + ·) then some pa else none
        | _ => none
    | _, _ => none
  | _, _ => none

/-- Put the words of an instruction at a physical address. -/
def State.putWords (s : State) (pa w : Nat) : State :=
  { s with mem := { s.mem with cells := s.mem.cells.setAll (place pa (instrBytes w)) } }

end Sys2Proof.Machine
end

