-- ==== Sys2Proof/Machine/Step.lean ====
section
/-! DEFINITION. One step of the machine: the next part of an issue, the next step that the agenda names, or a turn. -/

namespace Sys2Proof.Machine

/-- One step. -/
def step (s : State) : Host.Outcome State Fault Refusal :=
  match s.agenda with
  | i :: rest => endOutcome (exec i { s with agenda := rest })
  | [] => s.turn

/-- The state with an instruction where the next step fetches: at the PC of the crew that issues next, or of a crew that is
put there for it (log entry 11). -/
def State.withFetchWord (s : State) (_nbits w : Nat) : State :=
  match s.nextFetch with
  | some pa => s.putWords pa w
  | none => ({ s with agenda := [] } : State).withProgram.putWords codePa w

end Sys2Proof.Machine
end

