-- ==== Sys2Proof/Machine/Bar.lean ====
section
/-! DEFINITION. What the host reads of the device: the BAR byte by byte (R390) with the health page (R408), built from the
state. Reads change nothing; writes are the steps of the host interface. -/

namespace Sys2Proof.Machine

/-- A drain state: 0 none, 1 draining, 2 drained (R408, R409). -/
def drainCode (on busy : Bool) : Nat := if !on then 0 else if busy then 1 else 2

/-- Is a grid of a tenant (or of any) admitted or running (R409)? -/
def State.gridsOf (s : State) (tenant : Option Nat) : Bool :=
  s.sched.grids.any fun g => match tenant with
    | none => true
    | some n => (s.ctx? g.ctx).any fun c => c.d.tenant == n

/-- The state code of a cluster (R408). -/
def State.clCode (s : State) (c : Nat) : Nat :=
  if !s.chip.dieOn (c / 4) then 0
  else match (s.cluster c).st with
    | .inService => 1
    | .testDue => 2
    | .overdue => 3
    | .drained => 4
    | .withdrawn => 5

/-- CLc of the health page (R408). -/
def State.clWord (s : State) (c : Nat) : Nat :=
  if !s.chip.dieOn (c / 4) then 0
  else
    let ks := (List.range 8).map fun k => s.core (8 * c + k)
    (s.cluster c).fmax % 256 * 2 ^ 24 + (s.cluster c).cur % 256 * 2 ^ 16 +
    natOfBits 8 (fun k => (s.core (8 * c + k)).withdrawn) * 2 ^ 8 +
    min 31 ((ks.map fun k => k.banks.length).sum) * 2 ^ 3 + s.clCode c

/-- AGESTAT of a cluster (R371). -/
def State.agestat (s : State) (c : Nat) : Nat :=
  if !s.chip.dieOn (c / 4) then 0
  else
    let k := s.cluster c
    k.fmax % 256 * 2 ^ 24 + k.cur % 256 * 2 ^ 16 + k.drift % 4096 * 2 ^ 4 + (if k.floorBit then 2 else 0) +
    (if k.fmax < 0x54 then 1 else 0)

/-- PORTS of the health page (R408). -/
def State.portsWord (s : State) : Nat :=
  natOfBits 12 (fun p => !(s.port p).lost) + natOfBits 2 (fun p => nth s.health.hostUp p false) * 2 ^ 12

/-- STATE of the health page (R382, R402, R408). -/
def Health.stateCode (h : Health) : Nat := if h.recovery then 3 else if h.service then 2 else 1

def Variant.code : Variant → Nat
  | .t => 0
  | .t224 => 1
  | .e => 2

/-- An event record (R408). -/
def Event.bytes (e : Event) : List Byte :=
  leBytes 2 e.code ++ leBytes 2 (e.ctx % 256) ++ leBytes 4 e.grid ++ leBytes 4 e.team ++
  ((e.cls.take 3 ++ [0xFF, 0xFF, 0xFF]).take 3).map (BitVec.ofNat 8) ++ leBytes 17 0

/-- The event record in place `n` of the health page's 256: the latest lies at EVCOUNT − 1 modulo 256. -/
def Health.eventAt (h : Health) (n : Nat) : List Byte :=
  match h.events[(h.evcount + 255 - n) % 256]? with
  | some e => e.bytes
  | none => leBytes 32 0

/-- The health page from its first byte on (R408). -/
def State.healthBytes (s : State) : List Byte :=
  let h := s.health
  let tdrain (n : Nat) : Nat :=
    if (s.tenant? n).isNone then 0 else drainCode (h.tdrain.contains n) (s.gridsOf (some n))
  leBytes 4 h.seq ++
  [BitVec.ofNat 8 s.chip.variant.code, BitVec.ofNat 8 h.stateCode,
    BitVec.ofNat 8 (drainCode h.ddrain (s.gridsOf none)), 0] ++
  leBytes 4 h.rot.toNat ++ leBytes 4 s.portsWord ++ leBytes 8 h.svc.toNat ++
  (List.range 32).flatMap (fun c => leBytes 4 (s.clWord c)) ++
  (List.range 16).map (fun n => BitVec.ofNat 8 (tdrain n)) ++
  (List.range 8).flatMap (fun n => leBytes 8 (nth h.counts n 0)) ++ leBytes 4 h.evcount

def State.healthByte (s : State) (off : Nat) : Byte :=
  if 0x1000 ≤ off && off < 0x3000 then nth (s.health.eventAt ((off - 0x1000) / 32)) (off % 32) 0
  else nth s.healthBytes off 0

/-- The registers at the foot of the BAR (R390). -/
def DevRegs.bytes (d : DevRegs) : List Byte :=
  leBytes 4 d.devctl.toNat ++ leBytes 4 0 ++ leBytes 4 d.agectl.toNat ++ leBytes 4 d.relctl.toNat ++
  leBytes 8 d.admbase.toNat ++ leBytes 4 d.admctl.toNat ++ leBytes 4 d.admwptr.toNat ++
  leBytes 4 d.admrptr.toNat ++ leBytes 4 0 ++
  leBytes 8 d.fltbase.toNat ++ leBytes 4 d.fltctl.toNat ++ leBytes 4 d.fltwptr.toNat ++ leBytes 4 d.fltrptr.toNat

/-- One byte of the BAR (R390). Offsets not listed read as zero. -/
def State.barByte (s : State) (off : Nat) : Byte :=
  if off < 0x100 then nth s.dev.bytes off 0
  else if off < 0x500 then
    let q := s.slot ((off - 0x100) / 16)
    nth (leBytes 8 q.base.toNat ++ leBytes 4 q.qctl.toNat) (off % 16) 0
  else if off < 0x10000 then 0
  else if off < 0x20000 then s.healthByte (off - 0x10000)
  else if off < 0x60000 then
    let q := s.slot ((off - 0x20000) / 0x1000)
    nth (leBytes 4 q.wptr.toNat ++ leBytes 4 q.rptr.toNat) (off % 0x1000) 0
  else if off < 0x62000 then nth (leBytes 4 (s.agestat ((off - 0x60000) / 256))) (off % 256) 0
  else if off < 0x70000 then 0
  else if off < 0x74000 then
    let k := (off - 0x70000) / 64
    if s.chip.dieOn (dieOf k) then nth (leBytes 4 (s.core k).segctl.toNat) (off % 64) 0 else 0
  else 0

end Sys2Proof.Machine
end

