-- ==== Sys2Proof/Safety.lean ====
section
/-! DEFINITION. The terms that the statements use: when an issue executes (R86), what its operands are, and what it means
that an issue wrote registers, predicates or flags and changed nothing else. -/

namespace Sys2Proof.Machine

/-! ## When an issue executes -/

/-- Does the issue decode its names as handler mode does (R175)? -/
def Issue.inHandler (i : Issue) (c : Crew) (kernel : Bool := false) : Bool := !kernel && 0 < c.depthAt i.s

/-- The operands of an issue: captured when it is made anew, those of its entry when it is re-injected (R179, R188). -/
def Issue.opn (i : Issue) (c : Crew) (sh : Shape) (kernel : Bool := false) : Opn :=
  match i.entry with
  | some e => ⟨e.a, e.b, e.c⟩
  | none => c.captureAll (i.inHandler c kernel) i.act sh.srcs

/-- Every check of R86 before the tagged reads passes: names (REGNAME, R54, R55), the instruction's mode and its own
ILLOPND conditions (`bad`), the windows of R63 and R65, and its token waits are met without error (R69); and neither R178 nor
R324 has it wait for an earlier issue. A re-injected entry with no lane left makes none of them (R188). -/
structure Passes (s : State) (i : Issue) (c : Crew) (sh : Shape) (bad : State → Crew → Issue → Bool) (sync ll : Bool)
    (kernel : Bool) (gs : Option (List (Rn × Nat × Nat))) : Prop where
  early : c.waitsTranslation i.s = false
  order : (sync && s.forcing c c.pipe.serial) = false
  names : nameCheck c (i.inHandler c kernel) (gs.getD sh.groups) = none
  mode : modeBad c i = false
  own : bad s c i = false
  clash : inWindowClash c i (sh.changes c (i.inHandler c kernel)) = false
  wait : mustWait c i (sh.names c (i.inHandler c kernel)) sync ll = false
  toks : ∀ n l, n < 64 → has i.s n = true → c.lane n = some l →
    toksMet i.mask l.toks = true ∧ l.errTok i.mask = none

/-- The issue `i` of the crew `c` is in progress. -/
structure InProgress (s : State) (i : Issue) (c : Crew) : Prop where
  cur : s.cur = some i
  crew : s.crew? i.crew = some c

/-- An issue of this shape is in progress and executes: R86's checks pass, or it is a re-injected entry with no lane
left. -/
structure Checked (s : State) (i : Issue) (c : Crew) (sh : Shape) (bad : State → Crew → Issue → Bool := fine)
    (sync ll : Bool := false) (kernel : Bool := false) (gs : Option (List (Rn × Nat × Nat)) := none) : Prop
    extends InProgress s i c where
  checks : (i.entry.isSome = true ∧ i.s = 0) ∨ Passes s i c sh bad sync ll kernel gs

/-- No lane of ACTIVE makes a tagged read (R59, R60); a re-injected entry makes none. -/
def Untagged (i : Issue) (c : Crew) (sh : Shape) (kernel : Bool := false) (who : Crew → Issue → LaneMask := allRead) : Prop :=
  i.entry.isSome = true ∨ ∀ n, n < 64 → has i.act n = true → has (who c i) n = true →
    c.taggedField (i.inHandler c kernel) sh.srcs n = none

/-- There is room for the destination (R57, R200), beside what the issue itself frees but where it must pass translation
first (`mem`). -/
def HasRoom (s : State) (i : Issue) (c : Crew) (sh : Shape) (ll : Bool) (kernel : Bool := false) (mem : Bool := false) :
    Prop :=
  ∀ r w, sh.dst = some (r, w) → i.act ≠ 0 →
    let d := if mem then c else c.free (sh.frees c (i.inHandler c kernel))
    d.allocs (nameOf c.wb (i.inHandler c kernel) r) w ll ≤ (s.setCrew d).poolFree d

/-- An issue of this shape executes with its whole effect: its checks pass, it reads no tagged value, and there is room for
its destination. -/
structure Ready (s : State) (i : Issue) (c : Crew) (sh : Shape) (bad : State → Crew → Issue → Bool := fine)
    (sync ll : Bool := false) (kernel : Bool := false) (who : Crew → Issue → LaneMask := allRead) (mem : Bool := false) : Prop
    extends Checked s i c sh bad sync ll kernel none where
  tags : kernel = true ∨ Untagged i c sh kernel who
  room : HasRoom s i c sh ll kernel mem

/-- The names whose mappings an issue's last-use bits end (R58); an entry captured by a cut ends none (R188). -/
def Issue.frees (i : Issue) (c : Crew) (sh : Shape) (kernel : Bool := false) : List Nat :=
  if i.entry.any (·.cut) then [] else sh.frees c (i.inHandler c kernel)

/-- The crew after the last-use frees of an issue (R58). -/
def Crew.spent (c : Crew) (i : Issue) (sh : Shape) (kernel : Bool := false) : Crew :=
  if i.entry.any (·.cut) then c else c.free (sh.frees c (i.inHandler c kernel))

/-- The state after an issue whose whole effect is on its crew: frees, writes, and the crew moves on. -/
def State.retired (s : State) (i : Issue) (sh : Shape) (o : Opn) (w : Crew → Issue → Crew) (kernel : Bool := false) : State :=
  s.updCrew i.crew fun c => (w (c.spent i sh kernel) i).advance i (entryOf c i o)

/-! ## Registers as a reader sees them -/

/-- The word that a lane holds in a named register; none where it is tagged or has no mapping (R57, R59). A handler
register that nothing has written holds 0. -/
def Crew.val (c : Crew) (nm : Name) (lane : Nat) : Option Word :=
  match nm with
  | .v n => (c.regs.find? (·.name == n)).bind fun r => if has r.tags lane then none else some (nth r.vals lane 0)
  | .h n =>
    match c.hregs.find? (·.name == n) with
    | some r => if has r.tags lane then none else some (nth r.vals lane 0)
    | none => some 0
  | .s n => (c.scal[n]?).bind fun x => if x.tag then none else some x.v
  | _ => none

/-- What a group of registers holds after an issue wrote it: the words of `f` in the lanes of ACTIVE (R54, R57, R59).
Writes of `zr` are discarded; an `s` register takes the value of the lowest lane. -/
def HoldsGroup (d : Crew) (nm : Name) (w : Nat) (act : LaneMask) (f : Nat → DWord) : Prop :=
  ∀ k, k < w → ∀ lane, lane < d.width → has act lane = true →
    match nm with
    | .v n => d.val (.v (n + k)) lane = some (wordOf (f lane) k)
    | .h n => d.val (.h (n + k)) lane = some (wordOf (f lane) k)
    | .s n => n + k < d.scal.length → lowest act = some lane → d.val (.s (n + k)) lane = some (wordOf (f lane) k)
    | _ => True

/-- The lanes of an issue stand behind it with their guarded run counted; the others stand where they stood. A
re-injected entry moves no lane (R19, R48, R68, R188). -/
def Moved (c d : Crew) (i : Issue) : Prop :=
  ∀ n, (d.lane n).map (fun l => (l.pc, l.run)) = (c.lane n).map fun l =>
    if i.entry.isNone && has i.s n then (i.pc + 4 * i.raw.len, (i.grd.orElse fun _ => l.run).bind Run.next)
    else (l.pc, l.run)

/-- What an issue writes: a group of `w` registers with a value for each lane, the value of each predicate of each lane of
ACTIVE, and FPCR. -/
structure Writes where
  nm : Name
  w : Nat
  value : Nat → DWord
  pred : Nat → Lane → Nat → Bool
  fpcr : Word

/-- What an issue leaves of its crew: the group holds its value in the lanes of ACTIVE; every other register and lane
holds what it held, but that the last-use frees end mappings (R58); the predicates of the lanes of ACTIVE are those
written, those of the other lanes as before; FPCR is as written; the lanes have moved; R19 has noted the issue with the
lanes chosen for it; its windows have counted it (R63). Nothing else of a lane (POISONST, PHASEDOM, PREOFF, tokens, depth,
saves, ending, thread) and nothing else of the crew changes, but that a fault served or declared unresolvable at this place
is forgotten, and that a crew that waits in place may be called to try again. -/
structure Wrote (c d : Crew) (i : Issue) (sh : Shape) (x : Writes) : Prop where
  result : HoldsGroup d x.nm x.w i.act x.value
  vregs : ∀ n lane, lane < c.width → lane < 64 → n ∉ i.frees c sh → (n ∉ vNames x.nm x.w ∨ has i.act lane = false) →
    d.val (.v n) lane = c.val (.v n) lane
  freed : ∀ n lane, lane < c.width → lane < 64 → n ∈ i.frees c sh → (n ∉ vNames x.nm x.w ∨ has i.act lane = false) →
    d.val (.v n) lane = none
  hregs : ∀ n lane, lane < c.width → (512 + n ∉ x.nm.keys x.w ∨ has i.act lane = false) →
    d.val (.h n) lane = c.val (.h n) lane
  scal : ∀ n lane, (256 + n ∉ x.nm.keys x.w ∨ i.act = 0) → d.val (.s n) lane = c.val (.s n) lane
  preds : ∀ n l, c.lane n = some l → ∃ l', d.lane n = some l' ∧
    ∀ q, q < 48 → l'.pred q = if has i.act n then x.pred n l q else l.pred q
  fpcr : d.fpcr = x.fpcr
  moved : Moved c d i
  lanes : ∀ n l l', c.lane n = some l → d.lane n = some l' →
    l' = { l with preds := l'.preds, pc := l'.pc, run := l'.run, unres := l'.unres, faultOn := l'.faultOn }
  crew : d = { c with
    lanes := d.lanes, regs := d.regs, scal := d.scal, hregs := d.hregs, fpcr := d.fpcr, sel := d.sel, pipe := d.pipe }
  sel : d.sel = if i.entry.isSome then c.sel else c.sel.after i.yl i.elig i.chosen
  pipe : d.pipe = { c.pipe with
    inflight := if i.entry.isSome then c.pipe.inflight else (c.tick i.s).pipe.inflight,
    reinj := if i.entry.isSome then c.pipe.reinj.drop 1 else c.pipe.reinj,
    issued := d.pipe.issued, held := (c.spent i sh).pipe.held, park := d.pipe.park, serial := d.pipe.serial,
    stage := 0, desc := [], waiting := d.pipe.waiting }
  awake : d.pipe.waiting = true → c.pipe.waiting = true

/-- The value of one predicate replaced; a write of `p47` is discarded (R109). -/
def setOne (p : Nat) (b : Bool) (l : Lane) (q : Nat) : Bool := if q = p && p != 47 then b else l.pred q

/-- The instruction computes: whenever its issue executes, the next state differs in the issuing crew alone, and there as
`Wrote` says. `x` gives what it writes from the crew, the issue and its operands. -/
def Computes (ins : Instr) (sh : Shape) (x : Crew → Issue → Opn → Writes)
    (bad : State → Crew → Issue → Bool := fine) : Prop :=
  ∀ s i c, Ready s i c sh bad → ∃ upd : Crew → Crew,
    exec ins s = .next (s.updCrew i.crew upd) ∧ Wrote c (upd c) i sh (x c i (i.opn c sh))

/-- A value for a register group of the shape, no predicate and no flag. -/
def toReg (sh : Shape) (c : Crew) (i : Issue) (f : Nat → DWord) : Writes :=
  let d := sh.dst.getD (.zr, 0)
  ⟨nameOf c.wb (i.inHandler c) d.1, d.2, f, fun _ l => l.pred, c.fpcr⟩

/-- Nothing but one predicate. -/
def toPred (c : Crew) (p : Nat) (f : Nat → Lane → Bool) : Writes :=
  ⟨.zr, 0, fun _ => 0, fun n l q => setOne p (f n l) l q, c.fpcr⟩

/-! ## Instructions that compute lane by lane -/

/-- An operand read as an integer: 32 or 64 bits, signed or unsigned. -/
def readInt (w64 uns : Bool) (x : DWord) : Int :=
  if w64 then (if uns then (x.toNat : Int) else x.toInt)
  else if uns then (x.toNat % 2 ^ 32 : Int) else (x.truncate 32).toInt

/-- Position and length of BFX and BFI (R106): immediate, or from register C. -/
def bfPos (pl : PosLen) (c : Word) : Nat :=
  match pl with
  | .reg _ => c.toNat % 32
  | .imm p _ => p.toNat
def bfLen (pl : PosLen) (c : Word) : Nat :=
  match pl with
  | .reg _ => c.toNat / 2 ^ 8 % 64
  | .imm _ n => n.toNat

/-- ICOND on integers (R74). -/
def intCond (cc : ICond) (x y : Int) : Bool :=
  match cc with
  | .eq => x == y
  | .ne => x != y
  | .lt => x < y
  | .le => x ≤ y
  | .gt => y < x
  | .ge => y ≤ x

/-- Byte `i` of a word as an integer, unsigned or signed. -/
def byteOf (uns : Bool) (x : Word) (i : Nat) : Int :=
  let b := x.toNat / 2 ^ (8 * i) % 256
  if uns || b < 128 then b else (b : Int) - 256

/-- The instruction writes its destination with a function of the operands of the lane (and of no other state). -/
def Gives (ins : Instr) (sh : Shape) (f : Opn → Nat → DWord) : Prop := Computes ins sh fun c i o => toReg sh c i (f o)

/-- A word from one word, from two, and from three. -/
def Gives1 (ins : Instr) (d : Rn) (a : Src) (f : Word → Word) : Prop :=
  Gives ins (shapeA d a) fun o l => (f (o.wa l)).zeroExtend 64
def Gives2 (ins : Instr) (d : Rn) (a b : Src) (f : Word → Word → Word) : Prop :=
  Gives ins (shapeAB d a b) fun o l => (f (o.wa l) (o.wb l)).zeroExtend 64
def Gives3 (ins : Instr) (d : Rn) (a b c : Src) (f : Word → Word → Word → Word) : Prop :=
  Gives ins (shapeABC d a b c) fun o l => (f (o.wa l) (o.wb l) (o.wc l)).zeroExtend 64

/-- FPCR with the flags of the lanes of ACTIVE merged in (R133). -/
def mergedFpcr (c : Crew) (i : Issue) (fl : Nat → Flags) : Word :=
  (lanesOf i.act).foldl (fun w n => w ||| (fl n).word) c.fpcr

/-- The instruction writes its destination and merges flags: `f` gives both for a lane, under the rounding, FTZ and NANP
that FPCR and the override select (R132 to R134). -/
def GivesFp (ins : Instr) (sh : Shape) (rm : Rm) (f : FpEnv → Opn → Nat → DWord × Flags) : Prop :=
  Computes ins sh fun c i o =>
    { toReg sh c i (fun l => (f (envOf c.fpcr rm) o l).1) with
      fpcr := mergedFpcr c i fun l => (f (envOf c.fpcr rm) o l).2 }

/-- The instruction writes one predicate with a function of the lane and its operands. -/
def GivesPred (ins : Instr) (sh : Shape) (p : Nat) (f : Opn → Nat → Lane → Bool) : Prop :=
  Computes ins sh fun c _ o => toPred c p (f o)

/-- A comparison combined with predicate C (R102). -/
def combined (m : Comb) (l : Lane) (x : Bool) : Bool :=
  match m with
  | .none => x
  | .and p => x && l.pred p
  | .or p => x || l.pred p
  | .xor p => x != l.pred p

/-! ## Instructions that do more than write registers -/

/-- An issue that writes no register, predicate or flag. -/
def noWrites (c : Crew) : Writes := ⟨.zr, 0, fun _ => 0, fun _ l => l.pred, c.fpcr⟩

/-- The crew `k` of the state `t` is `e`, and every other crew is that of `s`. -/
def CrewAt (s t : State) (k : Nat) (e : Crew) : Prop := t.crew? k = some e ∧ ∀ j, j ≠ k → t.crew? j = s.crew? j

/-- The state differs in one crew alone. -/
def OnlyCrew (s t : State) (k : Nat) (e : Crew) : Prop := t = { s with crews := t.crews } ∧ CrewAt s t k e

/-- Whenever an issue of the shape executes and `ok` holds of it, the next state is `t` with `post`, where `d` is the
crew as it stands behind an issue that wrote nothing; `from_` says how the crew may have changed before it. -/
def Does (ins : Instr) (sh : Shape) (ok : State → Issue → Crew → Opn → Prop)
    (post : State → Issue → Crew → Opn → Crew → State → Prop) (sync : Bool := false)
    (bad : State → Crew → Issue → Bool := fine) (who : Crew → Issue → LaneMask := allRead)
    (from_ : State → Issue → Crew → Crew → Prop := fun _ _ c k => k = c) : Prop :=
  ∀ s i c, Ready s i c sh bad sync false false who → ok s i c (i.opn c sh) →
    ∃ k d t, from_ s i c k ∧ Wrote k d i sh (noWrites c) ∧ exec ins s = .next t ∧ post s i c (i.opn c sh) d t

/-- No condition beyond the execution of the issue. -/
def always : State → Issue → Crew → Opn → Prop := fun _ _ _ _ => True

/-- As `Computes`, where what is written depends on the rest of the state, and `ok` must hold. -/
def ComputesIn (ins : Instr) (sh : Shape) (ok : State → Crew → Prop) (x : State → Crew → Issue → Opn → Writes)
    (bad : State → Crew → Issue → Bool := fine) : Prop :=
  ∀ s i c, Ready s i c sh bad → ok s c → ∃ e t, exec ins s = .next t ∧ OnlyCrew s t i.crew e ∧
    Wrote c e i sh (x s c i (i.opn c sh))

/-- Whenever an issue that writes a destination and branches executes and `ok` holds, the crew stands as `Wrote` says but
for the branch: every issuing lane's run ends and its windows close, and the lanes of ACTIVE stand at their targets
(R110 to R112). A re-injected branch moves the lanes that no later entry issues in, and does nothing else (R187, log entry
105). -/
def Branches (ins : Instr) (sh : Shape) (ok : Issue → Opn → Prop) (link : Issue → DWord)
    (target : Issue → Opn → Nat → Nat) : Prop :=
  ∀ s i c, Ready s i c sh → ok i (i.opn c sh) → ∃ d e t, exec ins s = .next t ∧ OnlyCrew s t i.crew e ∧
    Wrote c d i sh (toReg sh c i fun _ => link i) ∧
    (i.entry = none → e = { d with lanes := e.lanes, pipe := { d.pipe with inflight := e.pipe.inflight } } ∧
      (∀ n, e.lane n = (d.lane n).map fun l =>
        { l with run := if has i.s n then none else l.run, pc := if has i.act n then target i (i.opn c sh) n else l.pc }) ∧
      ∀ p ∈ e.pipe.inflight, ∃ q ∈ d.pipe.inflight, p = { q with left := p.left } ∧
        ∀ n, nth p.left n 0 = if has i.s n = true then 0 else nth q.left n 0) ∧
    (i.entry.isSome → e = { d with lanes := e.lanes } ∧ ∀ n, e.lane n = (d.lane n).map fun l =>
      { l with pc := if has i.act n = true ∧ (∀ q ∈ d.pipe.reinj, has q.s n = false) then target i (i.opn c sh) n else l.pc })

/-- Whenever a long-latency instruction executes, it joins the crew's work in flight (R57, R62, R63, R178, R179): with its
operands, its lanes, a window of `lh` issues in each issuing lane (none in handler mode or at a re-injection), and
translation still to come where it makes an access. Its shape and its spaces follow the MEM fields in force. Nothing else
happens yet. With ACTIVE empty it makes no access and does no more than open its window, in which its destination reads as
before (R64); where it opens none, nothing at all. -/
def IssuesLong (ins : Instr) (sh : Issue → MemAttr → Shape) (bad : MemAttr → State → Crew → Issue → Bool) (lh : Nat)
    (mem : Bool) (who : Crew → Issue → LaneMask := allRead) (ok : State → Issue → Crew → Prop := fun _ _ _ => True)
    (also : Issue → Crew → Crew → Prop := fun _ e f => f = e) : Prop :=
  ∀ s i c, Ready s i c (sh i (c.attr i)) (bad (c.attr i)) false true false who mem → ok s i c →
    ∃ d e f t op, Wrote c d i (sh i (c.attr i)) (noWrites c) ∧ exec ins s = .next t ∧ OnlyCrew s t i.crew f ∧ also i e f ∧
      e = (if i.act = 0 ∧ op.left.all (· == 0) then d
        else { d with pipe := { d.pipe with inflight := d.pipe.inflight ++ [op], held := e.pipe.held } }) ∧
      op.instr = ins ∧ op.attr = c.attr i ∧ op.entry.part = i.act ∧ op.entry.s = i.s ∧
      (⟨op.entry.a, op.entry.b, op.entry.c⟩ : Opn) = i.opn c (sh i (c.attr i)) ∧
      op.group = (sh i (c.attr i)).dstKeys c (i.inHandler c) ∧ op.mem = mem ∧
      op.done = decide (i.act = 0) ∧ op.translated = (!mem || decide (i.act = 0)) ∧
      op.prev = (if i.act = 0 then op.group.map c.holding else []) ∧ op.ckpt = c.ckpt ∧
      (e.pipe.held.map (·.2)).sum = (d.pipe.held.map (·.2)).sum +
        (if mem ∧ i.act ≠ 0 ∧ c.holdsFrees c.pipe.serial = false then c.regs.length - d.regs.length else 0) ∧
      ∀ n, n < c.width → nth op.left n 0 =
        if has i.s n = true ∧ c.depthAt i.s = 0 ∧ i.entry = none then lh else 0

/-- Register `k` of a group holds the word `g lane k` in the lanes of a set. -/
def HoldsWords (d : Crew) (nm : Name) (w : Nat) (act : LaneMask) (g : Nat → Nat → Word) : Prop :=
  ∀ k, k < w → ∀ lane, lane < d.width → has act lane = true →
    match nm with
    | .v n => d.val (.v (n + k)) lane = some (g lane k)
    | .h n => d.val (.h (n + k)) lane = some (g lane k)
    | .s n => n + k < d.scal.length → lowest act = some lane → d.val (.s (n + k)) lane = some (g lane k)
    | _ => True

/-- The registers of an operation in flight are those of a group. -/
def LongOp.writes (o : LongOp) (nm : Name) (w : Nat) : Prop :=
  o.group = nm.keys w ∧ match nm with
    | .v n => n + w ≤ 256
    | .s n => n + w ≤ 12
    | .h n => n + w ≤ 16
    | _ => True

/-- The operation `o` of the crew `c` may be performed now (R22, R66, R213): none of its bytes lies on a page of a peer, which
is asked first (R406), and it reads none of a poisoned line (R279). -/
structure Performable (s : State) (c : Crew) (o : LongOp) : Prop where
  crew : s.crew? c.id = some c
  op : c.pipe.inflight.find? (·.entry.serial == o.entry.serial) = some o
  may : s.canPerform c o = true
  near : o.atPeer = false
  clean : ∀ p ∈ o.src, o.poisoned s (c.teamOf p.1) (p.2.filterMap id) = false

/-- The crew after an operation that wrote the registers `nm`: the group holds the words `g` in its lanes, every other
register and lane what it held, and FPCR has merged `fl`. -/
structure Landed (c e : Crew) (o : LongOp) (nm : Name) (w : Nat) (g : Nat → Nat → Word) (fl : Word) : Prop where
  result : HoldsWords e nm w o.entry.part g
  vregs : ∀ n lane, lane < c.width → lane < 64 → (n ∉ vNames nm w ∨ has o.entry.part lane = false) →
    e.val (.v n) lane = c.val (.v n) lane
  scal : ∀ n lane, (256 + n ∉ nm.keys w ∨ o.entry.part = 0) → e.val (.s n) lane = c.val (.s n) lane
  fpcr : e.fpcr = c.fpcr ||| fl
  same : e.wb = c.wb ∧ e.memdef = c.memdef ∧ e.lv = c.lv ∧
    ∀ n, (e.lane n).map (fun l => (l.pc, l.preds, l.toks, l.run, l.depth)) =
      (c.lane n).map fun l => (l.pc, l.preds, l.toks, l.run, l.depth)

/-- Where the bytes of an access of a lane lie (R209 to R211, R249, R314); gather windows stand apart. An access that is not
bounded, of a copy, has no place for a byte past an allocation (R221). -/
def Lies (s : State) (c : Crew) (lane : Nat) (sp : Space) (ea n : Nat) (nd : Need) (bounded : Bool) (ps : List (Option Place)) :
    Prop :=
  let glob (va : Nat) : Prop := ∃ cx pa, s.ctx? c.ctx = some cx ∧ s.translate cx va nd = .ok pa ∧
    ps = (List.range n).map fun i => some (.mem (pa + i))
  let scr (u : Nat) (off : Nat) : Prop := ∃ t, s.team? u = some t ∧ (bounded = true → off + n ≤ t.res.ssize) ∧
    ps = (List.range n).map fun i => if off + i < t.res.ssize then some (.scr u (off + i)) else none
  let rem (a : Nat) : Prop := a < 2 ^ 27 ∧ ∃ t u, s.team? (c.teamOf lane) = some t ∧
    s.member? t (a / 2 ^ 24 % 8) = some u ∧ scr u.uid (a % 2 ^ 24)
  match sp with
  | .global | .constant => glob ea
  | .scratch => scr (c.teamOf lane) ea
  | .remote => rem ea
  | .generic =>
    if ea / 2 ^ 56 = 0 then glob ea
    else ea / 2 ^ 32 % 2 ^ 24 = 0 ∧ notTeamLocal c = false ∧
      ((ea / 2 ^ 56 = 0xFE ∧ scr (c.teamOf lane) (ea % 2 ^ 32)) ∨ (ea / 2 ^ 56 = 0xFD ∧ rem (ea % 2 ^ 32)))
  | .key => ea < 2 ^ 35 ∧ ∃ k, s.kslot? c.ctx (ea / 2 ^ 32) = some k ∧
      ea % 2 ^ 32 + n ≤ k.tmax * (k.ctl.toNat % 2 ^ 8 + 1) * (k.ctl.toNat / 2 ^ 8 % 2 ^ 8 + 1) *
        (if k.ctl.toNat / 2 ^ 16 % 4 = 2 then 1 else 2) ∧ glob (k.kbase + ea % 2 ^ 32)
  | .gwin => False

/-- As `Lies`, of an access within its allocation. -/
def Placed (s : State) (c : Crew) (lane : Nat) (sp : Space) (ea n : Nat) (nd : Need) (ps : List Place) : Prop :=
  Lies s c lane sp ea n nd true (ps.map some)

/-- An access that has no permission, in the order of R211 and R283: a page without the right, a place past the allocation, an
absent member, an unbound slot or window, a place past its end, a store through a window without scatter, or an address
bit that must be zero. -/
def Forbidden (s : State) (c : Crew) (lane : Nat) (sp : Space) (ea n : Nat) (nd : Need) : Prop :=
  let glob (va : Nat) : Prop := ∃ cx, s.ctx? c.ctx = some cx ∧ s.translate cx va nd = .prot
  let scr (u : Nat) (off : Nat) : Prop := ∃ t, s.team? u = some t ∧ t.res.ssize < off + n
  let rem (a : Nat) : Prop := 2 ^ 27 ≤ a ∨ ∃ t, s.team? (c.teamOf lane) = some t ∧
    (s.member? t (a / 2 ^ 24 % 8) = none ∨ ∃ u, s.member? t (a / 2 ^ 24 % 8) = some u ∧ scr u.uid (a % 2 ^ 24))
  match sp with
  | .global | .constant => glob ea
  | .scratch => scr (c.teamOf lane) ea
  | .remote => rem ea
  | .generic =>
    if ea / 2 ^ 56 = 0 then glob ea
    else (ea / 2 ^ 56 ≠ 0xFE ∧ ea / 2 ^ 56 ≠ 0xFD) ∨ ea / 2 ^ 32 % 2 ^ 24 ≠ 0 ∨
      (notTeamLocal c = false ∧
        ((ea / 2 ^ 56 = 0xFE ∧ scr (c.teamOf lane) (ea % 2 ^ 32)) ∨ (ea / 2 ^ 56 = 0xFD ∧ rem (ea % 2 ^ 32))))
  | .key => 2 ^ 35 ≤ ea ∨ s.kslot? c.ctx (ea / 2 ^ 32) = none ∨ ∃ k, s.kslot? c.ctx (ea / 2 ^ 32) = some k ∧
      (k.size < ea % 2 ^ 32 + n ∨ glob (k.kbase + ea % 2 ^ 32))
  | .gwin => 2 ^ 35 ≤ ea ∨ ∃ t, s.team? (c.teamOf lane) = some t ∧
      ((t.windows[ea / 2 ^ 32]?).join = none ∨ ∃ w, (t.windows[ea / 2 ^ 32]?).join = some w ∧
        (w.count * w.es < ea % 2 ^ 32 + n ∨ (nd.w = true ∧ w.scat = false)))

/-- An access of `n` bytes of a lane through the window `w` (R282, R283): `x` gives for each of its positions the index, none
where it is out of range, and `ps` where each byte lies, nowhere where its index is out of range. The index words are read in
the team's view, none of them in a poisoned line. -/
structure Gathers (s : State) (c : Crew) (lane ea n : Nat) (nd : Need) (w : Window) (x : Nat → Option Nat)
    (ps : List Place) : Prop where
  top : ea < 2 ^ 35
  slot : ∃ t, s.team? (c.teamOf lane) = some t ∧ (t.windows[ea / 2 ^ 32]?).join = some w
  bound : 0 < n ∧ 0 < w.es ∧ ea % 2 ^ 32 + n ≤ w.count * w.es
  right : nd.w = true → w.scat = true
  index : ∀ p, ea % 2 ^ 32 / w.es ≤ p → p ≤ (ea % 2 ^ 32 + n - 1) / w.es → ∃ cx pa, s.ctx? c.ctx = some cx ∧
    (let z := if w.itype < 2 then 4 else 8
     let raw := leNat ((List.range z).map fun k => s.view (c.teamOf lane) (pa + k))
     s.translate cx (w.ibase + p * z) Need.read = .ok pa ∧
     s.readsPoison (c.teamOf lane) ((List.range z).map fun k => .mem (pa + k)) = false ∧
     x p = if ((w.itype = 1 ∨ w.itype = 3) ∧ 2 ^ (8 * z - 1) ≤ raw) ∨ w.tlen ≤ raw then none else some raw)
  bytes : ps.length = n ∧ ∀ i p, ps[i]? = some p → match x ((ea % 2 ^ 32 + i) / w.es) with
    | none => p = .void
    | some v => ∃ cx pa, s.ctx? c.ctx = some cx ∧
        s.translate cx (w.tbase + v * w.es + (ea % 2 ^ 32 + i) % w.es) nd = .ok pa ∧ p = .mem pa

/-- The out-of-range positions of an access through a window. -/
def badPositions (w : Window) (ea n : Nat) (x : Nat → Option Nat) (p : Nat) : Prop :=
  ea % 2 ^ 32 / w.es ≤ p ∧ p ≤ (ea % 2 ^ 32 + n - 1) / w.es ∧ x p = none

/-- The crew `e` is `d` but for a group of `g` registers, where register `r` of a lane of a set takes the word that `f r lane`
gives, if any. -/
structure Filled (d e : Crew) (nm : Name) (g : Nat) (act : LaneMask) (f : Nat → Nat → Option Word) : Prop where
  rest : e = { d with regs := e.regs, scal := e.scal, hregs := e.hregs }
  result : ∀ r w lane, r < g → lane < d.width → lane < 64 → has act lane = true → f r lane = some w →
    match nm with
    | .v n => e.val (.v (n + r)) lane = some w
    | .h n => e.val (.h (n + r)) lane = some w
    | .s n => n + r < d.scal.length → lowest act = some lane → e.val (.s (n + r)) lane = some w
    | _ => True
  vregs : ∀ n lane, lane < d.width → lane < 64 →
    (∀ r w, r < g → has act lane = true → f r lane = some w → nm.plus r ≠ .v n) → e.val (.v n) lane = d.val (.v n) lane
  hregs : ∀ n lane, lane < d.width → lane < 64 →
    (∀ r w, r < g → has act lane = true → f r lane = some w → nm.plus r ≠ .h n) → e.val (.h n) lane = d.val (.h n) lane
  scal : ∀ n lane, (256 + n ∉ nm.keys g ∨ act = 0) → e.val (.s n) lane = d.val (.s n) lane

/-- The state differs in one team, where it is `x`, and in crews. -/
def OnTeam (s t : State) (u : Nat) (x : Option Team) : Prop :=
  t = { s with crews := t.crews, sched := { s.sched with teams := t.sched.teams } } ∧ t.team? u = x ∧
  ∀ v, v ≠ u → t.team? v = s.team? v

/-- Nothing that the crew has issued is still to come: no long-latency work, no trap, no entry. -/
def Crew.quiet (c : Crew) : Prop :=
  (∀ o ∈ c.pipe.inflight, o.done = true ∧ o.translated = true) ∧ c.pipe.traps = [] ∧ c.pipe.issued = [] ∧ c.pipe.reinj = []

/-- Is the operation a CPY on a token, with its copies still to start? -/
def LongOp.countsOn (o : LongOp) (k : Nat) : Prop :=
  o.done = false ∧ ∃ a b z t rd ty ds ss lh, o.instr = .cpy a b z t rd ty ds ss lh ∧ t.toNat = k

/-- What an entry of the lanes `m` leaves, of a trap or of an emulation (R174, R181, R191): each lane of `m` is one level
deeper at the handler's address with no guarded run, the others keep their depth; the registers are those of the
checkpoint; MASKED is set and saved; the lanes of the level below keep their handler registers in their save slots. -/
structure Entered (c e : Crew) (m : LaneMask) (k : Ckpt) (emul : Bool) (vec : Nat) : Prop where
  lanes : ∀ n l, has m n = true → c.lane n = some l → ∃ x, e.lane n = some x ∧ x.pc = vec ∧ x.depth = l.depth + 1 ∧
    x.run = none ∧ x.ending = none ∧ x.team = l.team ∧ x.idx = l.idx ∧ x.toks.length = l.toks.length ∧
    (∃ v, x.saves = v :: l.saves) ∧
    (0 < c.depthAt m → x.hsave.length = 16)
  others : ∀ n l, has m n = false → c.lane n = some l → ∃ x, e.lane n = some x ∧ x.team = l.team ∧ x.idx = l.idx ∧
    x.depth = l.depth ∧ x.saves = l.saves ∧ x.run = l.run
  regs : e.regs = k.regs ∧ e.scal = k.scal ∧ e.wb = k.wb ∧ e.fpcr = k.fpcr ∧ e.memdef = k.memdef
  masked : e.lv.cur.masked = true ∧ e.lv.cur.pmasked = c.lv.cur.masked
  levels : if c.depthAt m = 0 then e.lv.k1 = emul ∧ e.lv.k2 = c.lv.k2 else e.lv.k1 = c.lv.k1 ∧ e.lv.k2 = emul
  below : 0 < c.depthAt m → e.lv.saved = some c.lv.cur

/-- What an entry of the issue `serial` puts back in every lane that goes on (R179): the predicates, POISONST, PREOFF and
PHASEDOM of the checkpoint, and the token counts without the copies of later issues, which are discarded. The token of a
token trap is no longer in error in the lanes of EMASK (R180). -/
def Restored (c e : Crew) (k : Ckpt) (serial : Nat) (tok : Option Nat) (emask : LaneMask) : Prop :=
  ∀ n l x, n < 64 → c.lane n = some l → e.lane n = some x →
    (∀ o, k.lanes[n]? = some (some o) → o.team = l.team → o.idx = l.idx → x.ending = none →
      x.preds = o.preds ∧ x.poison = o.poison ∧ x.preoff = o.preoff ∧ x.dom = o.dom) ∧
    ∀ j, (nth x.toks j ⟨0, false⟩).err = (if tok = some j ∧ has emask n = true then false else (nth l.toks j ⟨0, false⟩).err) ∧
      ((∀ o ∈ c.pipe.inflight, serial < o.entry.serial → has o.entry.part n = true → ¬ o.countsOn j) →
        (nth x.toks j ⟨0, false⟩).count = (nth l.toks j ⟨0, false⟩).count) ∧
      ∀ o, (c.pipe.inflight.filter fun p => serial < p.entry.serial) = [o] → has o.entry.part n = true → o.countsOn j →
        (nth x.toks j ⟨0, false⟩).count = (nth l.toks j ⟨0, false⟩).count - 1

/-- The frame registers that a trap entry writes (R177, R181), and the handler registers: cleared, but at KEY_DENSE the query
address in `h0` and `h1` (R387). -/
structure TookTrap (c e : Crew) (m emask : LaneMask) (k : Ckpt) (vec pc grade arg code : Nat) (queue : List Entry)
    (query : List DWord := []) : Prop extends Entered c e m k false vec where
  cause : e.lv.cur.cause = BitVec.ofNat 32 (grade * 2 ^ 13 + arg * 2 ^ 6 + code)
  frame : e.lv.cur.trappc = BitVec.ofNat 64 pc ∧ e.lv.cur.emask = emask ∧ e.lv.cur.rpq = queue
  start : ∀ n lane, n < 16 → lane < c.width → has m lane = true →
    e.val (.h n) lane = some (if n < 2 then wordOf (nth query lane 0) n else 0)
  nothing : e.pipe.traps = [] ∧ e.pipe.reinj = []

/-- A trap can be taken: the lanes are below depth 2 and their level does not mask traps, and a handler is installed
(R174, R176). -/
def Crew.mayTrap (c : Crew) (cx : Ctx) (m : LaneMask) : Prop :=
  c.depthAt m < 2 ∧ (0 < c.depthAt m → c.lv.cur.masked = false) ∧ cx.d.trapvec ≠ 0

/-- Grade P for the issuing lanes (R197): G2 while the team of the lowest of them can restart, else G3. -/
def State.gradeAt (s : State) (c : Crew) (m : LaneMask) : Nat :=
  if (s.team? (c.teamOf ((lowest m).getD 0))).any (·.restart) then 2 else 3

/-- Whenever an issue of the shape that is not re-injected executes and `on` holds, where nothing of its crew is outstanding
and a trap can be taken, it takes the trap: `code`, the argument and lanes that `arg` gives, its entry in the replay queue
unless it is TRAP or BKPT (R178, R179, R181), and at KEY_DENSE the query addresses (R387). -/
def Traps (ins : Instr) (sh : Shape) (on : State → Issue → Crew → Opn → Prop) (code : Nat)
    (arg : State → Issue → Crew → Opn → Nat × LaneMask) (inQueue : Bool := true) (sync : Bool := false)
    (bad : State → Crew → Issue → Bool := fine) (who : Crew → Issue → LaneMask := allRead)
    (query : Issue → Crew → List DWord := fun _ _ => []) : Prop :=
  ∀ s i c cx, Ready s i c sh bad sync false false who → i.entry = none → on s i c (i.opn c sh) → c.quiet →
    s.ctx? c.ctx = some cx → c.mayTrap cx i.s → (arg s i c (i.opn c sh)).1 < 128 →
    ∃ e t, exec ins s = .next t ∧ OnlyCrew s t i.crew e ∧
      TookTrap c e i.s (arg s i c (i.opn c sh)).2 c.ckpt cx.d.trapvec i.pc (s.gradeAt c i.s) (arg s i c (i.opn c sh)).1 code
        (if inQueue then [entryOf c i (i.opn c sh)] else []) (query i c) ∧
      Restored c e c.ckpt c.pipe.serial none 0 ∧
      ∀ n l, has i.s n = true → c.lane n = some l → ∃ x, e.lane n = some x ∧
        x.saves.head? = some ⟨(i.grd.orElse fun _ => l.run).bind Run.next, i.pc + 4 * i.raw.len⟩

/-- The lanes of ACTIVE have ended their segments behind the issue; the other lanes go on (R20, R21). -/
def EndedBehind (d e : Crew) (act : LaneMask) (tl exit : Bool) (w : Nat → Wait) (fwd : Option FwdTarget) : Prop :=
  e = { d with lanes := e.lanes, pipe := e.pipe } ∧ ∀ n, e.lane n = (d.lane n).map fun l =>
    if has act n then { l with ending := some ⟨l.pc, d.wb, l.run, w n, tl, fwd, exit, none⟩ } else l

/-- Every store, ATOM and tile store of the crew is performed, at package and system scope each commit that it issued
is complete, and at system scope its lines for host pages are at the host's coherence point (R213, R336). -/
def Released (s : State) (c : Crew) (sc : Scope) : Prop :=
  (∀ o ∈ c.pipe.inflight, o.done = true ∨ (match o.instr with
    | .st1 .. | .st2 .. | .st4 .. | .st8 .. | .st16 .. | .atom .. | .tst .. => False
    | _ => True)) ∧
  (sc = .package ∨ sc = .system → ∀ k ∈ s.eng.commits, k.crew ≠ some c.id) ∧
  (sc = .system → ∀ k ∈ s.eng.hostDue, k.2 ≠ some c.id)

/-- Every class-w access that the crew started has been performed, those of the engines it started among them (R224, R262,
R271, R286, R287, R313). -/
def ClassPerformed (s : State) (c : Crew) (i : Issue) (sc : Scope) (w : Cls) : Prop :=
  (∀ o ∈ c.pipe.inflight, o.done = true ∨ o.cls ≠ some w) ∧
  match w with
  | .c => Released s c sc
  | .y => (∀ n l, has i.act n = true → c.lane n = some l → ∀ x ∈ l.toks, x.count = 0) ∧
      (c.cox.isSome → ∀ u ∈ c.teamsIn i.act, ∀ t, s.team? u = some t → ∀ k ∈ t.chans, k.src = [])
  | .x => (∀ m ∈ s.eng.mxops, m.crew ≠ c.id) ∧ ∀ d ∈ s.eng.drains, d.crew ≠ c.id
  | .s => ∀ p ∈ s.eng.sops, p.team ∉ c.teamsIn i.act
  | .k => ∀ k ∈ s.eng.kops, k.crew ≠ c.id
  | .g => ∀ k ∈ s.eng.copies, k.crew = c.id → k.win = false

/-- The instant below which a core's snapshot shows nothing of a byte (R322). -/
def Core.sees (k : Core) (a : Nat) : Nat := raiseFloor k.floor k.view [a]

/-- The state but for the snapshot of the core of a crew. At package and system scope it shows nothing before the last
instant (R213, R322). At a narrower scope it shows what the teams in the scope's reach had written, and what the cores of
their crews were shown (R325, R326, log entry 116), and nothing older than before. -/
def Acquired (s t : State) (c : Crew) (sc : Scope) : Prop :=
  (∃ f : Core → Core, t = { s.updCore c.snap f with crews := t.crews } ∧ ∀ k, f k = { k with floor := (f k).floor, view := (f k).view }) ∧
  (sc = .package ∨ sc = .system → (t.core c.snap).floor = s.mem.now) ∧
  (sc = .team ∨ sc = .cluster →
    (∀ a, (s.core c.snap).sees a ≤ (t.core c.snap).sees a) ∧
    (∀ h ∈ s.mem.hist, ∀ w, h.who = some w → s.reaches c sc w = true → h.t ≤ (t.core c.snap).sees h.addr) ∧
    ∀ d ∈ s.crews, ∀ u ∈ d.teams, ∀ tm, s.team? u = some tm → s.reaches c sc tm.author = true →
      ∀ a, (s.core d.snap).sees a ≤ (t.core c.snap).sees a)

/-- The crew but for what its lanes remember to have seen and written (R323). -/
def Sees (c k : Crew) : Prop :=
  k = { c with lanes := k.lanes } ∧ ∀ n, (c.lane n = none → k.lane n = none) ∧ ∀ l, c.lane n = some l →
    ∃ x, k.lane n = some x ∧ x = { l with seen := x.seen, wrote := x.wrote }

/-- As `Sees`; each lane remembers that it may miss no uncommitted byte of its team any more (R225, R326). -/
def Noted (s : State) (c k : Crew) : Prop :=
  Sees c k ∧ ∀ n l x, c.lane n = some l → k.lane n = some x → x.seen = l.seen ∧
    ∀ w ∈ s.uncommitted l.team, w ∈ x.wrote

/-- A lane's loads of these bytes return the present bytes: none of them has changed since the instants below which the lane
sees nothing (R322, R323), and none that is not the team's own lies in a poisoned line (R279). -/
def State.Current (s : State) (c : Crew) (lane : Nat) (as : List Nat) : Prop :=
  ∀ a ∈ as,
    (∀ h ∈ s.mem.hist, h.addr = a → h.t ≤ (s.freshOf c).floorFor (((c.lane lane).map (·.seen)).getD []) [a]) ∧
    (s.mem.bad a = false ∨ (s.ownByte (c.teamOf lane) a).isSome)

/-- The byte of a place that a load of a team returns at an instant: the team's own uncommitted one, else the package's at that
instant (R225, R322). -/
def State.byteSeen (s : State) (team t : Nat) : Place → Byte
  | .mem pa => (s.ownByte team pa).getD (s.mem.byteAt t pa)
  | p => s.placeByte team p

/-- The addresses of a lane's half of 8 bytes that are not the team's own. -/
def LongOp.half (o : LongOp) (s : State) (c : Crew) (lane k : Nat) : List Nat :=
  (memBytes (((((o.src.lookup lane).getD []).filterMap id).drop (8 * k)).take 8)).filter fun a =>
    (s.ownByte (c.teamOf lane) a).isNone

/-- The instant below which a lane's load of these bytes shows nothing (R322, R323). -/
def State.floorAt (s : State) (c : Crew) (lane : Nat) (as : List Nat) : Nat :=
  (s.freshOf c).floorFor (((c.lane lane).map (·.seen)).getD []) as

/-- `at_` gives for each half of 8 bytes of each lane of a load an instant that the load may return (R214, R322, R323): none
below the lane's floor for these bytes, and the floor itself, the instant of a change, or that of an earlier half; the bytes
are the present ones where they have not changed since the floor. -/
def Instants (s : State) (c : Crew) (o : LongOp) (at_ : Nat → Nat → Nat) : Prop :=
  ∀ l k, (o.src.lookup l).isSome → let as := o.half s c l k
    s.floorAt c l as ≤ at_ l k ∧
    (at_ l k = s.floorAt c l as ∨ (∃ h ∈ s.mem.hist, at_ l k = h.t) ∨ ∃ j, j < k ∧ at_ l k = at_ l j) ∧
    ∀ a ∈ as, (∀ h ∈ s.mem.hist, h.addr = a → h.t ≤ s.floorAt c l as) → s.mem.byteAt (at_ l k) a = s.mem.cells.get a

/-- The bytes of `n` lines of 32 bytes at an address, as the team of a lane sees them; each line has a translation for reads,
and the lane's loads return them. -/
def Lines (s : State) (c : Crew) (lane n va : Nat) (bs : List Byte) : Prop :=
  ∃ (cx : Ctx) (pa : Nat → Nat), s.ctx? c.ctx = some cx ∧
    (∀ i, i < n → s.translate cx (va + 32 * i) Need.read = .ok (pa i) ∧
      s.Current c lane ((List.range 32).map (pa i + ·))) ∧
    bs = (List.range n).flatMap fun i => (List.range 32).map fun k => s.view (c.teamOf lane) (pa i + k)

/-- As `Lines`, for a descriptor aligned to `al` bytes whose address has bits [63:56] zero. -/
def Block (s : State) (c : Crew) (lane al n va : Nat) (bs : List Byte) : Prop :=
  va % al = 0 ∧ va < 2 ^ 56 ∧ Lines s c lane n va bs

/-- A team as it is, outside a replay, with nothing uncommitted. -/
def Clean (s : State) (tm : Team) : Prop :=
  s.team? tm.uid = some tm ∧ tm.buf = [] ∧ tm.audit.replay = none ∧ ∀ k ∈ s.eng.commits, k.team ≠ tm.uid

end Sys2Proof.Machine
end

