-- ==== Sys2Proof/Certificates/Slice0/Obligations.lean ====
section
/-! DEFINITION. What is to be proved of the model: one statement per definition, each citing the rules it formalises. -/

open Sys2Proof Sys2Proof.Machine

/-! ## Results of the integer instructions -/

/-- R92, R94 to R96: moves, additions and multiplications give the exact result taken modulo 2^32 (IMADW 2^64), in
every lane of ACTIVE; nothing else of the crew changes but last-use frees and the lanes' places, and nothing outside it.
R94: logic is bitwise and shifts take their amount modulo 32. -/
def Obligations.IntegerResults : Prop :=
  (∀ (d : Rn) (a b c : Src) (ra : Rn) (la n : Bool) (i18 : BitVec 18) (i10 : BitVec 10),
     Gives1 (.mov d a) d a id ∧
     Gives (.movi d i18) ⟨some (d, 1), []⟩ (fun _ _ => (BitVec.ofInt 32 i18.toInt).zeroExtend 64) ∧
     Gives2 (.iadd d a b) d a b (fun x y => BitVec.ofNat 32 (x.toNat + y.toNat)) ∧
     Gives2 (.isub d a b) d a b (fun x y => BitVec.ofInt 32 (x.toNat - y.toNat)) ∧
     Gives1 (.iaddi d ra la i10) d ⟨ra, la, false⟩ (fun x => BitVec.ofInt 32 (x.toInt + i10.toInt)) ∧
     Gives2 (.imul d a b) d a b (fun x y => BitVec.ofNat 32 (x.toNat * y.toNat)) ∧
     Gives2 (.imulh d a b n) d a b (fun x y =>
       if n then BitVec.ofNat 32 (x.toNat * y.toNat / 2 ^ 32) else BitVec.ofInt 32 (x.toInt * y.toInt / 2 ^ 32)) ∧
     Gives3 (.imad d a b c) d a b c (fun x y z => BitVec.ofNat 32 (x.toNat * y.toNat + z.toNat)) ∧
     Gives (.imadw d a b c n) ⟨some (d, 2), [useA a, useB b, useC c 2]⟩ (fun o l =>
       if n then BitVec.ofNat 64 ((o.wa l).toNat * (o.wb l).toNat + (o.fc l).toNat)
       else BitVec.ofInt 64 ((o.wa l).toInt * (o.wb l).toInt + (o.fc l).toInt))) ∧
  (∀ (d : Rn) (a b : Src),
     Gives2 (.and d a b) d a b (fun x y => x &&& y) ∧
     Gives2 (.or d a b) d a b (fun x y => x ||| y) ∧
     Gives2 (.xor d a b) d a b (fun x y => x ^^^ y) ∧
     Gives2 (.andn d a b) d a b (fun x y => x &&& ~~~y) ∧
     Gives2 (.shl d a b) d a b (fun x y => BitVec.ofNat 32 (x.toNat * 2 ^ (y.toNat % 32))) ∧
     Gives2 (.shr d a b) d a b (fun x y => BitVec.ofNat 32 (x.toNat / 2 ^ (y.toNat % 32))) ∧
     Gives2 (.sar d a b) d a b (fun x y => BitVec.ofInt 32 (x.toInt / 2 ^ (y.toNat % 32))) ∧
     ∃ rot : Word → Word → Word, Gives2 (.rot d a b) d a b rot ∧
       ∀ x y n, n < 32 → (rot x y).getLsbD n = x.getLsbD ((n + 32 - y.toNat % 32) % 32))

/-- R99: the one-operand functions of a register.
R99: the one-operand functions of a pair; counts are single registers. -/
def Obligations.UnaryResults : Prop :=
  (∀ (d : Rn) (a : Src),
     Gives1 (.abs d a) d a (fun x => BitVec.ofInt 32 x.toInt.natAbs) ∧
     Gives1 (.neg d a) d a (fun x => BitVec.ofInt 32 (-x.toInt)) ∧
     Gives1 (.popc d a) d a (fun x => BitVec.ofNat 32 ((List.range 32).countP x.getLsbD)) ∧
     Gives1 (.clz d a) d a (fun x => BitVec.ofNat 32 (if x = 0 then 32 else 31 - x.toNat.log2)) ∧
     Gives1 (.ctz d a) d a (fun x => BitVec.ofNat 32 ((List.range 32).findIdx x.getLsbD)) ∧
     (∃ brev : Word → Word, Gives1 (.brev d a) d a brev ∧ ∀ x n, n < 32 → (brev x).getLsbD n = x.getLsbD (31 - n)) ∧
     Gives1 (.not d a) d a (fun x => ~~~x) ∧
     Gives1 (.sx8 d a) d a (fun x => BitVec.ofInt 32 (x.truncate 8).toInt) ∧
     Gives1 (.sx16 d a) d a (fun x => BitVec.ofInt 32 (x.truncate 16).toInt) ∧
     Gives1 (.zx8 d a) d a (fun x => BitVec.ofNat 32 (x.toNat % 256)) ∧
     Gives1 (.zx16 d a) d a (fun x => BitVec.ofNat 32 (x.toNat % 65536)) ∧
     Gives (.sx32 d a) (shapeA d a 2 1) (fun o l => BitVec.ofInt 64 (o.wa l).toInt)) ∧
  (∀ (d : Rn) (a : Src),
     Gives (.abs64 d a) (shapeA d a 2 2) (fun o l => BitVec.ofInt 64 (o.fa l).toInt.natAbs) ∧
     Gives (.neg64 d a) (shapeA d a 2 2) (fun o l => BitVec.ofInt 64 (-(o.fa l).toInt)) ∧
     Gives (.popc64 d a) (shapeA d a 1 2) (fun o l => BitVec.ofNat 64 ((List.range 64).countP (o.fa l).getLsbD)) ∧
     Gives (.clz64 d a) (shapeA d a 1 2) (fun o l =>
       BitVec.ofNat 64 (if o.fa l = 0 then 64 else 63 - (o.fa l).toNat.log2)) ∧
     Gives (.ctz64 d a) (shapeA d a 1 2) (fun o l => BitVec.ofNat 64 ((List.range 64).findIdx (o.fa l).getLsbD)) ∧
     (∃ brev : DWord → DWord, Gives (.brev64 d a) (shapeA d a 2 2) (fun o l => brev (o.fa l)) ∧
       ∀ x n, n < 64 → (brev x).getLsbD n = x.getLsbD (63 - n)) ∧
     Gives (.not64 d a) (shapeA d a 2 2) (fun o l => ~~~o.fa l))

/-- R98, R100, R101, R103: choices between operands, dot products, addresses and comparisons into a register. -/
def Obligations.SelectAndDotResults : Prop :=
  ∀ (d : Rn) (a b c : Src) (n w64 mask na nb sat zext : Bool) (cc : ICond) (sh3 : BitVec 3) (off : BitVec 11),
    Gives (.imin d a b n w64) (shapeAB d a b (if w64 then 2 else 1)) (fun o l =>
      if readInt w64 n (o.fa l) < readInt w64 n (o.fb l) then o.fa l else o.fb l) ∧
    Gives (.imax d a b n w64) (shapeAB d a b (if w64 then 2 else 1)) (fun o l =>
      if readInt w64 n (o.fa l) < readInt w64 n (o.fb l) then o.fb l else o.fa l) ∧
    Gives (.iset d a b cc n w64 mask) ⟨some (d, 1), [useA a (if w64 then 2 else 1), useB b (if w64 then 2 else 1)]⟩
      (fun o l => if intCond cc (readInt w64 n (o.fa l)) (readInt w64 n (o.fb l))
        then (if mask then 0xFFFFFFFF else 1) else 0) ∧
    Gives3 (.idot4 d a b c na nb sat) d a b c (fun x y z =>
      let s := (List.range 4).foldl (fun s i => s + byteOf na x i * byteOf nb y i)
        (if na && nb then (z.toNat : Int) else z.toInt)
      BitVec.ofInt 32 (if !sat then s else if na && nb then max 0 (min s (2 ^ 32 - 1))
        else max (-(2 ^ 31)) (min s (2 ^ 31 - 1)))) ∧
    Gives (.lea d a b sh3 zext off) ⟨some (d, 2), [useA a 2, useB b]⟩ (fun o l =>
      BitVec.ofInt 64 ((o.fa l).toNat + (if zext then ((o.wb l).toNat : Int) else (o.wb l).toInt) * 2 ^ sh3.toNat +
        off.toInt))

/-- R93, R102, R107, R108: selection by a predicate, comparisons into a predicate, predicate logic and moves; a
destination predicate `p47` discards its write (R109).
R108, R109: the moves between a register and a block of predicates; `p47` reads true and is not written. -/
def Obligations.PredicateResults : Prop :=
  (∀ (d : Rn) (a b : Src) (p q r pd : Nat) (w64 n : Bool) (cc : ICond) (comb : Comb) (tt : BitVec 8),
     Computes (.sel d a b p w64) (shapeAB d a b (if w64 then 2 else 1)) (fun c i o =>
       toReg (shapeAB d a b (if w64 then 2 else 1)) c i fun l =>
         if (c.lane l).any (·.pred p) then o.fa l else o.fb l) ∧
     GivesPred (.icmp pd a b cc n w64 comb) ⟨none, [useA a (if w64 then 2 else 1), useB b (if w64 then 2 else 1)]⟩ pd
       (fun o l x => combined comb x (intCond cc (readInt w64 n (o.fa l)) (readInt w64 n (o.fb l)))) ∧
     GivesPred (.plog pd p q r tt) ⟨none, []⟩ pd
       (fun _ _ x => tt.getLsbD ((if x.pred p then 4 else 0) + (if x.pred q then 2 else 0) + if x.pred r then 1 else 0)) ∧
     GivesPred (.pmovRegToPred p a) ⟨none, [useA a]⟩ p (fun o l _ => o.wa l != 0) ∧
     Computes (.pmovPredToReg d p) ⟨some (d, 1), []⟩ (fun c i _ =>
       toReg ⟨some (d, 1), []⟩ c i fun l => if (c.lane l).any (·.pred p) then 1 else 0)) ∧
  (∀ (d : Rn) (a : Src),
     (∃ get : Lane → DWord, Computes (.pmovGet0 d) ⟨some (d, 1), []⟩ (fun c i _ =>
         toReg ⟨some (d, 1), []⟩ c i fun l => ((c.lane l).map get).getD 0) ∧
       ∀ l n, n < 32 → (get l).getLsbD n = l.pred n) ∧
     (∃ get : Lane → DWord, Computes (.pmovGet1 d) ⟨some (d, 1), []⟩ (fun c i _ =>
         toReg ⟨some (d, 1), []⟩ c i fun l => ((c.lane l).map get).getD 0) ∧
       ∀ l n, n < 32 → (get l).getLsbD n = (decide (n < 16) && l.pred (32 + n))) ∧
     Computes (.pmovSet0 a) ⟨none, [useA a]⟩ (fun c _ o =>
       ⟨.zr, 0, fun _ => 0, fun l x q => if q < 32 then (o.wa l).getLsbD q else x.pred q, c.fpcr⟩) ∧
     Computes (.pmovSet1 a) ⟨none, [useA a]⟩ (fun c _ o =>
       ⟨.zr, 0, fun _ => 0, fun l x q => if 32 ≤ q && q < 47 then (o.wa l).getLsbD (q - 32) else x.pred q, c.fpcr⟩))

/-- R91, R104 to R106: NOP, three-input logic, funnel shifts, bit-field extraction and insertion. -/
def Obligations.BitFieldResults : Prop :=
  ∀ (d : Rn) (a b c : Src) (tt : BitVec 8) (amt : FshAmt) (right clamp sg : Bool) (pl : PosLen),
    Gives .nop ⟨none, []⟩ (fun _ _ => 0) ∧
    (∃ f : Word → Word → Word → Word, Gives3 (.lut3 d a b c tt) d a b c f ∧
      ∀ x y z n, n < 32 → (f x y z).getLsbD n =
        tt.getLsbD ((if x.getLsbD n then 4 else 0) + (if y.getLsbD n then 2 else 0) + if z.getLsbD n then 1 else 0)) ∧
    Gives (.fsh d a b amt right clamp) ⟨some (d, 1), [useA a, useB b] ++ fshUses amt⟩ (fun o l =>
      let m := match amt with
        | .reg _ => (o.wc l).toNat % 64
        | .imm n => n.toNat
      let n := if clamp then min m 32 else m % 32
      let x := (o.wa l).toNat * 2 ^ 32 + (o.wb l).toNat
      BitVec.ofNat 64 (if right then x / 2 ^ n % 2 ^ 32 else x * 2 ^ n / 2 ^ 32 % 2 ^ 32)) ∧
    (∃ f : Word → Word → Word, Gives (.bfx d a sg pl) ⟨some (d, 1), useA a :: posLenUses pl⟩
        (fun o l => (f (o.wa l) (o.wc l)).zeroExtend 64) ∧
      ∀ x z n, n < 32 →
        let p := bfPos pl z
        let k := min (bfLen pl z) (32 - p)
        (f x z).getLsbD n = if n < k then x.getLsbD (p + n) else sg && k != 0 && x.getLsbD (p + k - 1)) ∧
    (∃ f : Word → Word → Word → Word, Gives (.bfi d a b pl) ⟨some (d, 1), [useA a, useB b] ++ posLenUses pl⟩
        (fun o l => (f (o.wa l) (o.wb l) (o.wc l)).zeroExtend 64) ∧
      ∀ x y z n, n < 32 →
        let p := bfPos pl z
        let k := min (bfLen pl z) (32 - p)
        (f x y z).getLsbD n = if p ≤ n && n < p + k then x.getLsbD (n - p) else y.getLsbD n)

/-! ## Floating point -/

/-- R139 to R143, R147 to R153: each floating-point instruction writes, in every lane of ACTIVE, the value of its
operation under the rounding, FTZ and NANP of FPCR and its override, and merges the flags of those lanes alone; FABS,
FNEG, FCLASS and FSAT set no flag. -/
def Obligations.FloatResults : Prop :=
  ∀ (d : Rn) (a b c : Src) (np nc aE5 bE5 : Bool) (rm : Rm) (sel : BitVec 2),
    GivesFp (.fadd d a b) (shapeAB d a b) .fpcr (fun e o l => add32 e (o.wa l) (o.wb l)) ∧
    GivesFp (.fsub d a b) (shapeAB d a b) .fpcr (fun e o l => sub32 e (o.wa l) (o.wb l)) ∧
    GivesFp (.fmul d a b) (shapeAB d a b) .fpcr (fun e o l => mul32 e (o.wa l) (o.wb l)) ∧
    GivesFp (.ffma d a b c np nc rm) (shapeABC d a b c) rm (fun e o l => fma32 e np nc (o.wa l) (o.wb l) (o.wc l)) ∧
    GivesFp (.fmin d a b) (shapeAB d a b) .fpcr (fun e o l => minMax32 false e (o.wa l) (o.wb l)) ∧
    GivesFp (.fmax d a b) (shapeAB d a b) .fpcr (fun e o l => minMax32 true e (o.wa l) (o.wb l)) ∧
    Gives1 (.fabs d a) d a (fun x => x &&& 0x7FFFFFFF) ∧
    Gives1 (.fneg d a) d a (fun x => x ^^^ 0x80000000) ∧
    GivesFp (.fsat d a) (shapeA d a) .fpcr (fun e o l => (fsat32 e (o.wa l), Flags.none)) ∧
    Gives1 (.fclass d a) d a (fun x => BitVec.ofNat 32 (fclass32 x)) ∧
    GivesFp (.frintRne d a) (shapeA d a) .fpcr (fun e o l => rint32 { e with mode := .rne } (o.wa l)) ∧
    GivesFp (.frintRz d a) (shapeA d a) .fpcr (fun e o l => rint32 { e with mode := .rz } (o.wa l)) ∧
    GivesFp (.frintRd d a) (shapeA d a) .fpcr (fun e o l => rint32 { e with mode := .rd } (o.wa l)) ∧
    GivesFp (.frintRu d a) (shapeA d a) .fpcr (fun e o l => rint32 { e with mode := .ru } (o.wa l)) ∧
    GivesFp (.frint d a) (shapeA d a) .fpcr (fun e o l => rint32 e (o.wa l)) ∧
    GivesFp (.fdot4 d a b c aE5 bE5 rm) (shapeABC d a b c) rm (fun e o l =>
      dotAcc e (elemsOf (if aE5 then e5m2 else e4m3) (o.wa l).toNat 4)
        (elemsOf (if bE5 then e5m2 else e4m3) (o.wb l).toNat 4) (o.wc l)) ∧
    GivesFp (.fdot8 d a b c rm) (shapeABC d a b c) rm (fun e o l =>
      dotAcc e (elemsOf e2m1 (o.wa l).toNat 8) (elemsOf e2m1 (o.wb l).toNat 8) (o.wc l)) ∧
    GivesFp (.mxscl d a b sel rm) (shapeAB d a b) rm (fun e o l =>
      mxscl32 e (o.wa l) ((o.wb l).toNat / 2 ^ (8 * sel.toNat) % 256))

/-- R147 to R149, R152, R153, R142: conversions, packed and double arithmetic, and the comparisons. -/
def Obligations.ConvertAndDoubleResults : Prop :=
  ∀ (d : Rn) (a b c : Src) (np nc bf sig : Bool) (rm : Rm) (sel : BitVec 2) (pd : Nat) (cc : FCond) (comb : Comb)
    (dty sty : Ty) (nsat : Bool) (de se : BitVec 3),
    GivesFp (.dadd d a b rm) ⟨some (d, 2), [useA a 2 true, useB b 2 true]⟩ rm (fun e o l => add64 e (o.fa l) (o.fb l)) ∧
    GivesFp (.dmul d a b rm) ⟨some (d, 2), [useA a 2 true, useB b 2 true]⟩ rm (fun e o l => mul64 e (o.fa l) (o.fb l)) ∧
    GivesFp (.dfma d a b c np nc rm) ⟨some (d, 2), [useA a 2 true, useB b 2 true, useC c 2 true]⟩ rm
      (fun e o l => fma64 e np nc (o.fa l) (o.fb l) (o.fc l)) ∧
    GivesFp (.dmin d a b) ⟨some (d, 2), [useA a 2 true, useB b 2 true]⟩ .fpcr
      (fun _ o l => minMax64 false (o.fa l) (o.fb l)) ∧
    GivesFp (.dmax d a b) ⟨some (d, 2), [useA a 2 true, useB b 2 true]⟩ .fpcr
      (fun _ o l => minMax64 true (o.fa l) (o.fb l)) ∧
    GivesFp (.pkadd d a b bf sel rm) (shapeAB d a b) rm (fun e o l =>
      packed e bf sel (fun x y _ => ((sumV e.mode [x, y]).1, (sumV e.mode [x, y]).2 || x.isSnan || y.isSnan))
        (o.wa l) (o.wb l) 0) ∧
    GivesFp (.pkmul d a b bf sel rm) (shapeAB d a b) rm (fun e o l =>
      packed e bf sel (fun x y _ => ((mulV x y).1, (mulV x y).2 || x.isSnan || y.isSnan)) (o.wa l) (o.wb l) 0) ∧
    GivesFp (.pkfma d a b c bf sel rm) (shapeABC d a b c) rm (fun e o l =>
      packed e bf sel (fmaV e.mode false false) (o.wa l) (o.wb l) (o.wc l)) ∧
    GivesFp (.cvt d a b dty sty nsat rm de se)
      ⟨some (d, if tyWidth dty = 64 then 2 else 1),
        useA a (if tyWidth sty = 64 then 2 else 1) (sty == .f64) :: if tyWidth dty < 32 then [useB b] else []⟩ rm
      (fun e o l =>
        let y := convert e dty sty nsat
          (if tyWidth sty = 64 then (o.fa l).toNat else elemOf (o.wa l).toNat (tyWidth sty) se.toNat)
        (BitVec.ofNat 64 (if tyWidth dty < 32 then setElem (o.wb l).toNat (tyWidth dty) de.toNat y.1 else y.1), y.2)) ∧
    Computes (.fcmp pd a b cc sig comb) ⟨none, [useA a, useB b]⟩ (fun c i o =>
      let x (l : Nat) := read32 (envOf c.fpcr .fpcr) (o.wa l)
      let y (l : Nat) := read32 (envOf c.fpcr .fpcr) (o.wb l)
      { toPred c pd fun l t => combined comb t (fcond cc (x l) (y l)) with
        fpcr := mergedFpcr c i fun l => cmpFlags sig (x l) (y l) }) ∧
    Computes (.dcmp pd a b cc sig comb) ⟨none, [useA a 2 true, useB b 2 true]⟩ (fun c i o =>
      let x (l : Nat) := read64 (o.fa l)
      let y (l : Nat) := read64 (o.fb l)
      { toPred c pd fun l t => combined comb t (fcond cc (x l) (y l)) with
        fpcr := mergedFpcr c i fun l => cmpFlags sig (x l) (y l) })

/-- R134: a number rounded to a multiple of `2^q` differs from it by less than one unit; toward zero it does not grow;
to nearest it differs by at most half a unit, and where it lies half way the even multiple is taken.
R134, R135, R137: a number rounded to a format is rounded once, to a multiple of the quantum that its magnitude or the
least exponent gives; where that exceeds the largest finite number it overflows as the mode says, with OF and NX; where
it is tiny after rounding UF is set with NX, and under FTZ it is the zero of its sign. The results of FADD, FSUB, FMUL and
FFMA of finite operands are the exact results so rounded, an exact zero with the sign that R134 gives.
R135, R136, R141, R143: under FTZ a subnormal operand is the zero of its sign; with NANP 0 a NaN result of FADD,
FSUB, FMUL, FFMA and FDIV is the canonical NaN; FMIN and FMAX order the zeros and prefer numbers to NaNs; FCLASS sets
the one of its ten bits that the class of the raw bits names. -/
def Obligations.RoundingAndSpecialValues : Prop :=
  (∀ (mode : RMode) (neg : Bool) (m k : Nat) (e : Int),
       let n := (toQuantum mode neg m e (e + k)).1
       ((toQuantum mode neg m e (e + k)).2 = true ↔ m % 2 ^ k ≠ 0) ∧
       (n * 2 ^ k < m + 2 ^ k ∧ m < n * 2 ^ k + 2 ^ k) ∧
       (mode = .rz → n * 2 ^ k ≤ m) ∧
       (mode = .rd → if neg then m ≤ n * 2 ^ k else n * 2 ^ k ≤ m) ∧
       (mode = .ru → if neg then n * 2 ^ k ≤ m else m ≤ n * 2 ^ k) ∧
       (mode = .rne → 2 * (n * 2 ^ k) ≤ 2 * m + 2 ^ k ∧ 2 * m ≤ 2 * (n * 2 ^ k) + 2 ^ k ∧
         (2 * (m % 2 ^ k) = 2 ^ k → n % 2 = 0))) ∧
  (∀ (env : FpEnv) (x : Word), env.ftz = true → x.toNat / 2 ^ 23 % 256 = 0 →
    read32 env x = .fin (x.getLsbD 31) 0 (-149)) ∧
  (∀ (env : FpEnv) (x y z : Word) (np nc : Bool), env.nanp = false →
    ∀ r ∈ [add32 env x y, sub32 env x y, mul32 env x y, fma32 env np nc x y z, div32 env x y],
      (decodeF fp32 r.1.toNat).isNan = true → r.1 = 0x7FC00000) ∧
  (∀ env : FpEnv, (minMax32 false env 0x80000000 0).1 = 0x80000000 ∧ (minMax32 false env 0 0x80000000).1 = 0x80000000 ∧
    (minMax32 true env 0x80000000 0).1 = 0 ∧ (minMax32 true env 0 0x80000000).1 = 0) ∧
  (∀ (env : FpEnv) (x : Word), (read32 env x).isNan = false → x.toNat / 2 ^ 23 % 256 ≠ 0 →
    (minMax32 false env x 0x7FC00000).1 = zx x ∧ (minMax32 true env 0x7FC00000 x).1 = zx x) ∧
  (∀ (f : Fmt) (mode : RMode) (ftz neg : Bool) (m : Nat) (e : Int), f ∈ [fp64, fp32, fp16, bf16] → m ≠ 0 →
    let r := roundTo f mode ftz (.fin neg m e)
    let qu : Int := e + (m.log2 : Int) + 1 - f.p
    let q : Int := max qu f.qmin
    let n := (toQuantum mode neg m e q).1
    let inexact := (toQuantum mode neg m e q).2
    let tiny : Prop := qu < f.qmin ∧ (toQuantum mode neg m e qu).1 < 2 ^ (f.qmin + f.p - 1 - qu).toNat
    let tooBig : Prop := ∀ b k g, decodeF f f.maxB = .fin b k g → k * 2 ^ (g - f.qmin).toNat < n * 2 ^ (q - f.qmin).toNat
    (ftz = true → tiny → decodeF f r.1 = .fin neg 0 f.qmin ∧ r.2 = ⟨false, false, false, true, true⟩) ∧
    ((ftz = false ∨ ¬tiny) → tooBig → r.2 = ⟨false, false, true, false, true⟩ ∧
      (mode = .rne ∨ (mode = .rd ∧ neg = true) ∨ (mode = .ru ∧ neg = false) → decodeF f r.1 = .inf neg) ∧
      (mode = .rz ∨ (mode = .rd ∧ neg = false) ∨ (mode = .ru ∧ neg = true) →
        ∃ k g, decodeF f f.maxB = .fin false k g ∧ decodeF f r.1 = .fin neg k g)) ∧
    ((ftz = false ∨ ¬tiny) → ¬tooBig →
      (∃ k g, decodeF f r.1 = .fin neg k g ∧ f.qmin ≤ g ∧ k * 2 ^ (g - f.qmin).toNat = n * 2 ^ (q - f.qmin).toNat) ∧
      r.2.iv = false ∧ r.2.dz = false ∧ r.2.of = false ∧ r.2.nx = inexact ∧ (r.2.uf = true ↔ tiny ∧ inexact = true))) ∧
  (∀ (env : FpEnv) (x y z : Word) (np nc a b c : Bool) (j k l : Nat) (e g h : Int),
    read32 env x = .fin a j e → read32 env y = .fin b k g → read32 env z = .fin c l h →
    let sgn (s : Bool) : Int := if s then -1 else 1
    let at_ (s : Bool) (m : Nat) (e low : Int) : Int := sgn s * ((m * 2 ^ (e - low).toNat : Nat) : Int)
    let rounds (r : DWord × Flags) (exact low : Int) (zero : Bool) : Prop :=
      let w := roundTo fp32 env.mode env.ftz
        (if exact = 0 then .fin zero 0 low else .fin (decide (exact < 0)) exact.natAbs low)
      r = (BitVec.ofNat 64 w.1, w.2)
    let sign (s t : Bool) : Bool := if s = t then s else env.mode == .rd
    rounds (add32 env x y) (at_ a j e (min e g) + at_ b k g (min e g)) (min e g) (sign a b) ∧
    rounds (sub32 env x y) (at_ a j e (min e g) - at_ b k g (min e g)) (min e g) (sign a (!b)) ∧
    rounds (mul32 env x y) (sgn (a != b) * ((j * k : Nat) : Int)) (e + g) (a != b) ∧
    rounds (fma32 env np nc x y z)
      (at_ ((a != b) != np) (j * k) (e + g) (min (e + g) h) + at_ (c != nc) l h (min (e + g) h)) (min (e + g) h)
      (sign ((a != b) != np) (c != nc))) ∧
  ∀ x : Word, fclass32 x =
    let s := x.getLsbD 31
    let ex := x.toNat / 2 ^ 23 % 2 ^ 8
    let fr := x.toNat % 2 ^ 23
    if ex = 255 then (if fr ≠ 0 then (if x.getLsbD 22 then 2 ^ 1 else 2 ^ 0) else if s then 2 ^ 2 else 2 ^ 9)
    else if ex ≠ 0 then (if s then 2 ^ 3 else 2 ^ 8)
    else if fr ≠ 0 then (if s then 2 ^ 4 else 2 ^ 7)
    else if s then 2 ^ 5 else 2 ^ 6

/-! ## The lane network -/

/-- R157, R160, R166, R167: NBR takes the value of the nearest lane of ACTIVE in its sub-group, and at the edge 0, its
own, or that of the far end; SHFL takes the value of the lane its mode selects, and its own where that lane is not in
ACTIVE; pC says whether the index was in range and the lane in ACTIVE. A width beyond the crew's is ILLOPND (`wideFor`). -/
def Obligations.NeighbourAndShuffleResults : Prop :=
  ∀ (d : Rn) (a : Src) (right : Bool) (bnd : Bnd) (w : SubW) (idx : ShIdx) (mode : ShMode) (pc : Option Nat),
    (∃ x : LaneMask → Opn → Nat → Word,
      Computes (.nbr d a right bnd w) (shapeA d a) (fun c i o => toReg (shapeA d a) c i fun l => (x i.act o l).zeroExtend 64)
        (wideFor w) ∧
      ∀ act o l, has act l = true →
        let mate m := has act m = true ∧ m / subWidth w = l / subWidth w
        let beyond (m n : Nat) := if right then m < n else n < m
        (∀ m, mate m → beyond l m → (∀ n, mate n → beyond l n → ¬ beyond n m) → x act o l = o.wa m) ∧
        ((∀ m, mate m → ¬ beyond l m) →
          match bnd with
          | .zero => x act o l = 0
          | .own => x act o l = o.wa l
          | .wrap => ∀ m, mate m → (∀ n, mate n → ¬ beyond n m) → x act o l = o.wa m)) ∧
    let W := subWidth w
    let n (o : Opn) (l : Nat) : Int := match idx, mode with
      | .reg _, .slide => (o.wb l).toInt
      | .reg _, _ => ((o.wb l).toNat : Int)
      | .imm k, .slide => k.toInt
      | .imm k, _ => (k.toNat % 64 : Nat)
    let pos (o : Opn) (l : Nat) : Int := match mode with
      | .pick => n o l
      | .slide => l % W + n o l
      | .flip => ((l % W) ^^^ (n o l).toNat : Nat)
      | .turn => l % W + n o l
    let valid (o : Opn) (l : Nat) : Bool := match mode with
      | .pick => n o l < W
      | .slide => 0 ≤ pos o l && pos o l < W
      | .flip => n o l < W
      | .turn => true
    let src (o : Opn) (l : Nat) : Nat := l / W * W + (pos o l % W).toNat
    let sh : Shape := ⟨some (d, 1), useA a :: match idx with
      | .reg b => [useB b]
      | .imm _ => []⟩
    Computes (.shfl d a idx mode w pc) sh (fun c i o =>
      { toReg sh c i (fun l => (if has i.act (src o l) then o.wa (src o l) else o.wa l).zeroExtend 64) with
        pred := fun l t q => match pc with
          | some p => setOne p (valid o l && has i.act (src o l)) t q
          | none => t.pred q }) (wideFor w)

/-- R168 to R170: votes over the lanes of ACTIVE in a sub-group, masks of the lanes where a predicate holds, ranks, and
the election of one lane. Every lane of ACTIVE receives the same mask. -/
def Obligations.VoteResults : Prop :=
  ∀ (d : Rn) (w : SubW) (pd pa : Nat) (mode : JoinMode) (incl : Bool),
    let truth (c : Crew) (i : Issue) (n : Nat) := has i.act n && (c.lane n).any (·.pred pa)
    let mates (i : Issue) (l : Nat) := (List.range 64).filter fun n => has i.act n && n / subWidth w == l / subWidth w
    Computes (.pjoin pd pa mode w) ⟨none, []⟩ (fun c i _ => toPred c pd fun l _ =>
      let k := (mates i l).countP (truth c i)
      match mode with
      | .every => k == (mates i l).length
      | .some => k != 0
      | .same => k == 0 || k == (mates i l).length
      | .odd => k % 2 == 1) (wideFor w) ∧
    (∃ mask : Crew → Issue → DWord, (∀ c i n, n < 64 → (mask c i).getLsbD n = truth c i n) ∧
      Computes (.lmaskLo d pa) ⟨some (d, 1), []⟩ (fun c i _ => toReg ⟨some (d, 1), []⟩ c i fun _ => mask c i) ∧
      Computes (.lmaskHi d pa) ⟨some (d, 1), []⟩ (fun c i _ => toReg ⟨some (d, 1), []⟩ c i fun _ =>
        BitVec.ofNat 64 ((mask c i).toNat / 2 ^ 32)) ∧
      Computes (.lmask64 d pa) ⟨some (d, 2), []⟩ (fun c i _ => toReg ⟨some (d, 2), []⟩ c i fun _ => mask c i)) ∧
    Computes (.prank d pa w incl) ⟨some (d, 1), []⟩ (fun c i _ => toReg ⟨some (d, 1), []⟩ c i fun l =>
      BitVec.ofNat 64 ((mates i l).countP fun n => truth c i n && if incl then n ≤ l else n < l)) (wideFor w) ∧
    Computes (.lead pd) ⟨none, []⟩ (fun c i _ => toPred c pd fun l _ => (List.range l).all fun n => !has i.act n) ∧
    Computes (.leadLast pd) ⟨none, []⟩ (fun c i _ => toPred c pd fun l _ =>
      (List.range 64).all fun n => !(l < n && has i.act n))

/-- R171, R172: ACCUM combines the values of the lanes of ACTIVE of the sub-group up to each lane (before it with
`.excl`), FOLD those of the whole sub-group, in ascending order; the combination of no value is the identity; integer
combinations are exact, those of floating-point codes round step by step, and every step's flags merge into FPCR.
R173: MATCH compares the operand bit for bit over the lanes of ACTIVE of the sub-group: the mask of the equal lanes,
the lowest of them, or their number; pC says whether all are equal. -/
def Obligations.ScanAndMatchResults : Prop :=
  (∃ F : RedOp → FpEnv → List Word → Word × Flags,
     (∀ (d : Rn) (a : Src) (op : RedOp) (excl : Bool) (w : SubW),
       let mates (i : Issue) (l : Nat) := (List.range 64).filter fun n => has i.act n && n / subWidth w == l / subWidth w
       let upto (i : Issue) (l : Nat) := (mates i l).filter (· ≤ l)
       let before (i : Issue) (l : Nat) := (mates i l).filter (· < l)
       let flags (c : Crew) (i : Issue) (o : Opn) :=
         mergedFpcr c i fun l => (F op (envOf c.fpcr .fpcr) ((upto i l).map o.wa)).2
       Computes (.accum d a op excl w) (shapeA d a) (fun c i o =>
         { toReg (shapeA d a) c i (fun l =>
             (F op (envOf c.fpcr .fpcr) ((if excl then before i l else upto i l).map o.wa)).1.zeroExtend 64) with
           fpcr := flags c i o }) (wideFor w) ∧
       Computes (.fold d a op w) (shapeA d a) (fun c i o =>
         { toReg (shapeA d a) c i (fun l => (F op (envOf c.fpcr .fpcr) ((mates i l).map o.wa)).1.zeroExtend 64) with
           fpcr := flags c i o }) (wideFor w)) ∧
     (∀ env xs, (F .addI32 env xs).1 = BitVec.ofNat 32 (xs.map BitVec.toNat).sum ∧
       (∀ n, (F .and env xs).1.getLsbD n = (decide (n < 32) && xs.all fun x => x.getLsbD n)) ∧
       (∀ n, (F .or env xs).1.getLsbD n = xs.any fun x => x.getLsbD n) ∧
       (∀ n, (F .xor env xs).1.getLsbD n = ((xs.countP fun x => x.getLsbD n) % 2 == 1)) ∧
       ∀ op ∈ [RedOp.addI32, .minI32, .minN32, .maxI32, .maxN32, .and, .or, .xor], (F op env xs).2 = Flags.none) ∧
     (∀ env x xs, ((F .minI32 env (x :: xs)).1 ∈ x :: xs ∧ ∀ y ∈ x :: xs, (F .minI32 env (x :: xs)).1.toInt ≤ y.toInt) ∧
       ((F .maxI32 env (x :: xs)).1 ∈ x :: xs ∧ ∀ y ∈ x :: xs, y.toInt ≤ (F .maxI32 env (x :: xs)).1.toInt) ∧
       ((F .minN32 env (x :: xs)).1 ∈ x :: xs ∧ ∀ y ∈ x :: xs, (F .minN32 env (x :: xs)).1.toNat ≤ y.toNat) ∧
       ((F .maxN32 env (x :: xs)).1 ∈ x :: xs ∧ ∀ y ∈ x :: xs, y.toNat ≤ (F .maxN32 env (x :: xs)).1.toNat)) ∧
     (∀ env, (F .addF32 env []).1 = 0x80000000 ∧ (F .minF32 env []).1 = 0x7F800000 ∧ (F .maxF32 env []).1 = 0xFF800000 ∧
       (F .minI32 env []).1 = 0x7FFFFFFF ∧ (F .minN32 env []).1 = 0xFFFFFFFF ∧ (F .maxI32 env []).1 = 0x80000000 ∧
       (F .maxN32 env []).1 = 0) ∧
     ∀ env x xs y,
       let put (r : DWord × Flags) : Word × Flags := (r.1.truncate 32, r.2)
       F .addF32 env (x :: xs ++ [y]) = put (add32 env (F .addF32 env (x :: xs)).1 y) ∧
       F .minF32 env (x :: xs ++ [y]) = put (minMax32 false env (F .minF32 env (x :: xs)).1 y) ∧
       F .maxF32 env (x :: xs ++ [y]) = put (minMax32 true env (F .maxF32 env (x :: xs)).1 y) ∧
       ∀ op ∈ [RedOp.addF32, .minF32, .maxF32], (read32 env x).isNan = false → (F op env [x]).2 = Flags.none ∧
         (decodeF fp32 (F op env [x]).1.toNat = decodeF fp32 x.toNat ∨ env.ftz = true)) ∧
  (∀ (d : Rn) (a : Src) (w64 : Bool) (w : SubW) (pc : Option Nat) (form : MatchForm),
     let mate (i : Issue) (l n : Nat) := has i.act n && n / subWidth w == l / subWidth w
     let same (i : Issue) (o : Opn) (l n : Nat) :=
       mate i l n && if w64 then o.fa n == o.fa l else o.wa n == o.wa l
     let sh := shapeA d a (if form == .mask then 2 else 1) (if w64 then 2 else 1)
     ∃ v : Issue → Opn → Nat → DWord,
       Computes (.matchv d a w64 w pc form) sh (fun c i o =>
         { toReg sh c i (v i o) with
           pred := fun l t q => match pc with
             | some p => setOne p ((List.range 64).all fun n => mate i l n == same i o l n) t q
             | none => t.pred q }) (wideFor w) ∧
       ∀ i o l, has i.act l = true →
         match form with
         | .mask => ∀ n, n < 64 → (v i o l).getLsbD n = same i o l n
         | .lead => same i o l (v i o l).toNat = true ∧ ∀ n, same i o l n = true → (v i o l).toNat ≤ n
         | .count => v i o l = BitVec.ofNat 64 ((List.range 64).countP (same i o l)))

/-! ## Control -/

/-- R110 to R112: BRA and CALL go to word 0 plus four times the offset, JMP, CALLI and RET to the pair of each lane;
CALL and CALLI leave the address of the next issue in the link pair; lanes outside ACTIVE go on at the next issue. -/
def Obligations.BranchResults : Prop :=
  ∀ (off : BitVec 25) (a : Src),
    let near (i : Issue) (_ : Opn) (_ : Nat) : Nat :=
      (((i.pc + 4 * i.raw.pfx.length : Nat) + 4 * off.toInt) % (2 ^ 64 : Int)).toNat
    let good (i : Issue) (o : Opn) : Prop := ∀ n, has i.act n = true → (o.fa n).toNat % 4 = 0 ∧ (o.fa n).toNat < 2 ^ 56
    let next (i : Issue) : DWord := BitVec.ofNat 64 (i.pc + 4 * i.raw.len)
    Branches (.bra off) ⟨none, []⟩ (fun _ _ => True) (fun _ => 0) near ∧
    Branches (.call off) ⟨some (.win 110, 2), []⟩ (fun _ _ => True) next near ∧
    Branches (.jmp a) ⟨none, [useA a 2]⟩ good (fun _ => 0) (fun _ o n => (o.fa n).toNat) ∧
    Branches (.calli a) ⟨some (.win 110, 2), [useA a 2]⟩ good next (fun _ o n => (o.fa n).toNat) ∧
    Branches (.ret a) ⟨none, [useA a 2]⟩ good (fun _ => 0) (fun _ o n => (o.fa n).toNat)

/-- R20, R114 to R117, R120, R121: EXIT, YIELD and AWAIT end the segments of the lanes of ACTIVE behind the issue, each
with its own event; EXIT writes no record; the crew's other lanes go on. -/
def Obligations.SegmentEnds : Prop :=
  ∀ (tl n : Bool) (mask : BitVec 8) (a b : Src) (cc : ICond) (dom : BitVec 4),
    let watch : Shape := ⟨none, [useA a 2, useB b]⟩
    let good (s : State) (i : Issue) (c : Crew) (o : Opn) : Prop := ∀ l, has i.act l = true →
      (o.fa l).toNat % 4 = 0 ∧ (o.fa l).toNat < 2 ^ 56 ∧
      ∃ cx, s.ctx? c.ctx = some cx ∧ ∃ pa, s.translate cx (o.fa l).toNat Need.read = .ok pa
    let paOf (s : State) (c : Crew) (o : Opn) (l pa : Nat) : Prop :=
      ∃ cx, s.ctx? c.ctx = some cx ∧ s.translate cx (o.fa l).toNat Need.read = .ok pa
    let ends (exit : Bool) (w : State → Crew → Opn → Nat → Wait → Prop) (s : State) (i : Issue) (c : Crew) (o : Opn)
        (d : Crew) (t : State) : Prop :=
      ∃ e ws, OnlyCrew s t i.crew e ∧ EndedBehind d e i.act (tl && !exit) exit ws none ∧
        ∀ l, has i.act l = true → (c.lane l).isSome → w s c o l (ws l)
    Does .exit ⟨none, []⟩ always (ends true fun _ _ _ _ x => x = .none) true ∧
    Does (.yield tl) ⟨none, []⟩ always (ends false fun _ _ _ _ x => x = .none) true ∧
    Does (.awaitTok mask tl) ⟨none, []⟩ always (ends false fun _ _ _ _ x => x = .token mask) true ∧
    Does (.awaitWord a b cc n tl) watch good (ends false fun s c o l x =>
      ∃ pa, paOf s c o l pa ∧ x = .word (o.fa l).toNat pa cc n (o.wb l)) true ∧
    Does (.awaitCtr a b tl) watch good (ends false fun s c o l x => ∃ pa, paOf s c o l pa ∧ x = .counter (o.fa l).toNat pa (o.wb l)) true ∧
    Does (.awaitPhase a b dom tl) ⟨none, [useA a, useB b]⟩ (fun s i c o => ∀ l, has i.act l = true →
        o.wa l = 0xFFFFFFFF ∨ ∃ cx p, s.ctx? c.ctx = some cx ∧ cx.d.vdie (o.wa l).toNat = some p)
      (ends false fun s c o l x => (o.wa l = 0xFFFFFFFF ∧ x = .phase none dom.toNat (o.wb l)) ∨
        ∃ cx p, s.ctx? c.ctx = some cx ∧ o.wa l ≠ 0xFFFFFFFF ∧ cx.d.vdie (o.wa l).toNat = some p ∧
          x = .phase (some p) dom.toNat (o.wb l)) true

/-- R42, R43, R121: FWD ends the segments of the lanes of ACTIVE with the target that the word of the lowest of them
names; with `.tl` the teams of those lanes also move, each to the first target given; one that belongs to a team set traps.
-/
def Obligations.ForwardingTargets : Prop :=
  ∀ (a : Src) (tl : Bool),
    Does (.fwd a tl) ⟨none, [useA a]⟩
      (fun s i c o => ∃ n cx, lowest i.act = some n ∧ s.ctx? c.ctx = some cx ∧
        let w := (o.wa n).toNat
        w / 2 ^ 28 < 4 ∧ w / 2 ^ 8 % 2 ^ 16 = 0 ∧ w / 2 ^ 24 % 16 < 12 ∧
        (w / 2 ^ 28 ≠ 3 → (cx.d.vdie (w / 2 ^ 5 % 8)).isSome) ∧ (w / 2 ^ 28 = 3 → cx.d.peers ≠ 0) ∧
        (tl = true → ∀ l t g, has i.act l = true → s.team? (c.teamOf l) = some t → s.grid? t.grid = some g →
          g.setOf t.index = none))
      (fun s i c o d t => ∃ e n cx tgt, lowest i.act = some n ∧ s.ctx? c.ctx = some cx ∧
        (let w := (o.wa n).toNat
         let pd := (cx.d.vdie (w / 2 ^ 5 % 8)).getD 0
         tgt = if w / 2 ^ 28 = 0 then .die pd else if w / 2 ^ 28 = 1 then .cluster (4 * pd + w / 2 ^ 3 % 4)
           else if w / 2 ^ 28 = 2 then .core (32 * pd + 8 * (w / 2 ^ 3 % 4) + w % 8) else .peer (w / 2 ^ 24 % 16)) ∧
        CrewAt s t i.crew e ∧ EndedBehind d e i.act tl false (fun _ => .none) (some tgt) ∧
        t = { s with
          crews := t.crews,
          sched := { s.sched with teams := s.sched.teams.map fun x =>
            if tl && (List.range 64).any (fun l => has i.act l && c.teamOf l == x.uid) then
              { x with fwdTo := some (x.fwdTo.getD tgt) }
            else x } })
      true fine lowRead ∧
    Traps (.fwd a tl) ⟨none, [useA a]⟩
      (fun s i c o => ∃ n cx, lowest i.act = some n ∧ s.ctx? c.ctx = some cx ∧
        let w := (o.wa n).toNat
        4 ≤ w / 2 ^ 28 ∨ w / 2 ^ 8 % 2 ^ 16 ≠ 0 ∨ 12 ≤ w / 2 ^ 24 % 16 ∨
        (w / 2 ^ 28 ≠ 3 ∧ cx.d.vdie (w / 2 ^ 5 % 8) = none) ∨ (w / 2 ^ 28 = 3 ∧ cx.d.peers = 0))
      0x02 (fun _ i _ _ => (0, i.act)) true true fine lowRead

/-- R119, R122 to R124: WIN moves the window for the next issue, and traps ILLOPND where not every lane that is eligible
takes part; PREOFF and PREON change the flag of the lanes of ACTIVE,
VDID and VDHOPS report virtual dies and their distance over the ring of four base dies, CYC the counter of the core's
clock in every lane of ACTIVE. -/
def Obligations.ControlResults : Prop :=
  ∀ (d : Rn) (a b : Src) (wb : Nat),
    Does (.win wb) ⟨none, []⟩ (fun _ i _ _ => i.act = 0 ∨ (i.s = i.elig ∧ i.act = i.s)) (fun s i _ _ d t =>
      ∃ e, OnlyCrew s t i.crew e ∧ e = if i.act = 0 then d else { d with wb := 16 * wb }) ∧
    Traps (.win wb) ⟨none, []⟩ (fun _ i _ _ => i.act ≠ 0 ∧ (i.s ≠ i.elig ∨ i.act ≠ i.s)) 0x02 (fun _ i _ _ => (0, i.act)) ∧
    (∀ off, Does (if off then .preoff else .preon) ⟨none, []⟩ always (fun s i _ _ d t =>
      ∃ e, OnlyCrew s t i.crew e ∧ e = { d with lanes := e.lanes } ∧
        ∀ n, e.lane n = (d.lane n).map fun l => { l with preoff := if has i.act n then off else l.preoff })) ∧
    ComputesIn (.vdid d) ⟨some (d, 1), []⟩ (fun s c => ∃ cx v, s.ctx? c.ctx = some cx ∧ cx.d.vdie v = some (dieOf c.core) ∧
        ∀ u, u < v → cx.d.vdie u ≠ some (dieOf c.core))
      (fun s c i _ => toReg ⟨some (d, 1), []⟩ c i fun _ =>
        BitVec.ofNat 64 ((List.range 8).findIdx fun v =>
          (s.ctx? c.ctx).any fun (x : Ctx) => x.d.vdie v == some (dieOf c.core))) ∧
    ComputesIn (.vdhops d a b) ⟨some (d, 1), [useA a, useB b]⟩ (fun s c => (s.ctx? c.ctx).isSome)
      (fun s c i o => toReg ⟨some (d, 1), [useA a, useB b]⟩ c i fun l =>
        match (s.ctx? c.ctx).bind fun (x : Ctx) => x.d.vdie (o.wa l).toNat,
            (s.ctx? c.ctx).bind fun (x : Ctx) => x.d.vdie (o.wb l).toNat with
        | some p, some q =>
          if o.wa l = o.wb l then 0 else
          if baseOfDie p = baseOfDie q then 1
          else if (baseOfDie p + 1) % 4 = baseOfDie q || (baseOfDie q + 1) % 4 = baseOfDie p then 2 else 3
        | _, _ => 0xFFFFFFFF) ∧
    ComputesIn (.cyc d) ⟨some (d, 2), []⟩ (fun _ _ => True)
      (fun s c i _ => toReg ⟨some (d, 2), []⟩ c i fun _ => s.cycles c)

/-- R60, R72, R124 to R127, R132, R177, R332: SRR reads, in every lane of ACTIVE, the register that its selector names; a
read of CYC latches the high word of the counter for CYCH.
R60, R72, R125, R126, R132, R177, R332: SRW writes FPCR, MEMDEF and TRAPMASK from the lowest lane of ACTIVE, their
read-only bits excepted, with flags cleared by ones; POISONST and PDOM in each lane of ACTIVE. -/
def Obligations.SpecialRegisters : Prop :=
  (∃ f : Nat → State → Crew → Nat → Lane → DWord,
     (∀ (d : Rn) (r : Nat), r ≤ 0x25 → r ≠ 0x12 →
       let sh : Shape := ⟨some (d, if r = 0x19 ∨ r = 0x1A ∨ r = 0x1F then 2 else 1), []⟩
       ComputesIn (.srr d r) sh (fun _ c => r = 0x15 → c.fpBusy = false)
         (fun s c i _ => toReg sh c i fun n => ((c.lane n).map (f r s c n)).getD 0)) ∧
     (∀ (d : Rn) (s : State) (i : Issue) (c : Crew),
       let sh : Shape := ⟨some (d, 1), []⟩
       Ready s i c sh → ∃ e x t, exec (.srr d 0x12) s = .next t ∧ OnlyCrew s t i.crew x ∧
         Wrote c e i sh (toReg sh c i fun n => ((c.lane n).map (f 0x12 s c n)).getD 0) ∧
         x = { e with cych := if i.act = 0 then c.cych else some (BitVec.ofNat 32 ((s.cycles c).toNat / 2 ^ 32)) }) ∧
     (∀ (s : State) (c : Crew) (n : Nat) (l : Lane) (t : Team) (g : Grid), c.cox = none → c.lane n = some l →
       s.team? l.team = some t → s.grid? t.grid = some g →
       let v k := (f k s c n l).toNat
       (l.idx < g.lr.threads → g.lr.threads < 2 ^ 32 → l.idx = v 0 + g.lr.tx * (v 1 + g.lr.ty * v 2) ∧
         v 0 < g.lr.tx ∧ v 1 < g.lr.ty ∧ v 2 < g.lr.tz) ∧
       (t.index < g.lr.teams → g.lr.teams < 2 ^ 32 → t.index = v 3 + g.lr.gx * (v 4 + g.lr.gy * v 5) ∧
         v 3 < g.lr.gx ∧ v 4 < g.lr.gy ∧ v 5 < g.lr.gz) ∧
       (g.lr.gx < 2 ^ 32 ∧ g.lr.gy < 2 ^ 32 ∧ g.lr.gz < 2 ^ 32 ∧ g.lr.tx < 2 ^ 32 ∧ g.lr.ty < 2 ^ 32 ∧ g.lr.tz < 2 ^ 32 →
         [v 6, v 7, v 8, v 9, v 10, v 11] = [g.lr.gx, g.lr.gy, g.lr.gz, g.lr.tx, g.lr.ty, g.lr.tz]) ∧
       f 0x0C s c n l = BitVec.ofNat 64 c.width ∧ f 0x23 s c n l = (if t.restart then 1 else 0) ∧
       f 0x0D s c n l = BitVec.ofNat 64 (if g.lr.tset ≤ 1 then 0 else t.index % g.lr.tset)) ∧
     (∀ (s : State) (c : Crew) (n : Nat) (l : Lane) (cx : Ctx), s.ctx? c.ctx = some cx →
       (∀ v, v < 8 → cx.d.vdie v = some (dieOf c.core) → (∀ u, u < v → cx.d.vdie u ≠ some (dieOf c.core)) →
         f 0x10 s c n l = BitVec.ofNat 64 v) ∧
       f 0x22 s c n l = (cx.pnAt (baseOfDie (dieOf c.core)) l.dom).zeroExtend 64) ∧
     ∀ (s : State) (c : Crew) (n : Nat) (l : Lane),
       let fr := c.lv.cur
       f 0x0E s c n l = BitVec.ofNat 64 (c.core % 8) ∧ f 0x0F s c n l = BitVec.ofNat 64 (c.core / 8 % 4) ∧
       f 0x11 s c n l = BitVec.ofNat 64 c.ctx ∧
       f 0x12 s c n l = BitVec.ofNat 64 ((s.cycles c).toNat % 2 ^ 32) ∧
       f 0x13 s c n l = (match c.cych with
         | some w => w.zeroExtend 64
         | none => BitVec.ofNat 64 ((s.cycles c).toNat / 2 ^ 32)) ∧
       f 0x14 s c n l = BitVec.ofNat 64 c.wb ∧ f 0x15 s c n l = c.fpcr.zeroExtend 64 ∧
       f 0x16 s c n l = c.memdef.zeroExtend 64 ∧
       (let w := f 0x17 s c n l
        let run (left : Nat) (neg : Bool) (p : Nat) : Prop :=
          w.toNat / 2 ^ 11 % 8 = left ∧ w.getLsbD 10 = neg ∧ w.toNat / 2 ^ 4 % 64 = p ∧
            w.getLsbD 15 = fr.masked ∧ w.getLsbD 14 = fr.pmasked
        w.getLsbD 0 = c.poisonEn ∧ w.getLsbD 1 = c.bkpten ∧ w.getLsbD 2 = false ∧ w.getLsbD 3 = false ∧
        ((∀ v vs, l.saves = v :: vs → v.run = none) → run 0 false 0) ∧
        ∀ v vs r, l.saves = v :: vs → v.run = some r → r.left < 8 → r.pred < 64 → run r.left r.neg r.pred) ∧
       [f 0x18 s c n l, f 0x1B s c n l, f 0x1C s c n l, f 0x1D s c n l, f 0x1E s c n l] =
         [fr.cause, fr.eop, fr.efields, fr.eimm, fr.epfx].map (BitVec.zeroExtend 64) ∧
       [f 0x19 s c n l, f 0x1A s c n l, f 0x1F s c n l] = [fr.trappc, fr.emask, fr.epc] ∧
       ((f 0x20 s c n l).getLsbD 0 = l.poison.st ∧ (l.poison.field < 2 ^ 7 → (f 0x20 s c n l).getLsbD 15 = l.poison.valid ∧
         (f 0x20 s c n l).toNat / 2 ^ 8 % 2 ^ 7 = l.poison.field)) ∧
       f 0x21 s c n l = BitVec.ofNat 64 l.dom ∧ f 0x24 s c n l = BitVec.ofNat 64 fr.rpq.length ∧
       (l.depth < 4 → (f 0x25 s c n l).toNat % 4 = l.depth ∧ (f 0x25 s c n l).getLsbD 2 = c.lv.k1 ∧
         (f 0x25 s c n l).getLsbD 3 = c.lv.k2)) ∧
  (∀ (a : Src),
     let sh : Shape := ⟨none, [useA a]⟩
     let crewReg (r : Nat) (e : Crew → Word → Crew → Prop) : Prop :=
       Does (.srw r a) sh always
         (fun s i _ o d t => ∃ x, OnlyCrew s t i.crew x ∧ (i.act = 0 → x = d) ∧ ∀ n, lowest i.act = some n → e d (o.wa n) x)
         (r == 0x17) (fun _ _ _ => !srwOk r) lowRead
     let laneReg (r : Nat) (f : Lane → Word → Lane) : Prop :=
       Does (.srw r a) sh always
         (fun s i _ o d t => ∃ x, OnlyCrew s t i.crew x ∧ x = { d with lanes := x.lanes } ∧
           ∀ n, x.lane n = (d.lane n).map fun l => if has i.act n then f l (o.wa n) else l)
         false (fun _ _ _ => !srwOk r)
     crewReg 0x15 (fun d v x => ∃ w, x = { d with fpcr := w } ∧ ∀ n, w.getLsbD n =
       (if n < 4 then v.getLsbD n else if 8 ≤ n ∧ n < 13 then d.fpcr.getLsbD n && !v.getLsbD n else false)) ∧
     crewReg 0x16 (fun d v x => ∃ w, x = { d with memdef := w } ∧ ∀ n, w.getLsbD n =
       (if n < 4 ∨ (14 ≤ n ∧ n < 16) ∨ (19 ≤ n ∧ n < 23) ∨ (16 ≤ n ∧ n < 19 ∧ v.toNat / 2 ^ 16 % 8 ≠ 7) then v.getLsbD n
        else d.memdef.getLsbD n)) ∧
     crewReg 0x17 (fun d v x => x = { d with bkpten := v.getLsbD 1, poisonEn := v.getLsbD 0 }) ∧
     laneReg 0x20 (fun l v => if v.getLsbD 0 then { l with poison := ⟨false, false, 0⟩ } else l) ∧
     laneReg 0x21 (fun l v => { l with dom := v.toNat % 16 }))

/-- R68 to R71: GRD starts a guarded run, and the issue's ACTIVE is then the lanes of S where its condition holds; KW and
MEM name tokens to wait for, and MEM the fields that govern the issue's accesses in place of MEMDEF. -/
def Obligations.PrefixResults : Prop :=
  ∀ (s : State) (i : Issue) (c : Crew), InProgress s i c →
    (∀ mask, exec (.kw mask) s = .next { s with cur := some { i with mask := mask } }) ∧
    (∀ m, exec (.mem m) s = .next { s with cur := some { i with mask := m.mask, mem := some m } }) ∧
    ∀ p neg count, ∃ j, exec (.grd p neg count) s = .next { s with cur := some j } ∧
      (i.entry.isSome = true → j = i) ∧
      (i.entry = none → ∃ act, j = { i with grd := some ⟨count.toNat + 1, neg, p⟩, act := act } ∧
        ∀ n, n < 64 → has act n = (has i.s n && (c.lane n).any fun l => l.pred p != neg))

/-! ## Traps and emulation -/

/-- R177, R179 to R181, R197: a due trap is delivered: the lanes of its issue enter the handler at TRAPVEC one level deeper,
with TRAPCAUSE, TRAPPC, EMASK and the replay queue written, the handler registers at their start, and registers, predicates
and tokens as before the issue; a token trap's token is in error no more. Grade P is that of the moment of raising, which
a trap that waits for earlier work keeps. -/
def Obligations.TrapEntry : Prop :=
  (∀ (s : State) (c : Crew) (t : Trap) (cx : Ctx), s.crew? c.id = some c → c.trapDue = some t → t.emul = false →
    s.ctx? c.ctx = some cx → c.mayTrap cx t.s → t.arg < 128 → t.code < 64 →
    let queue := (c.pipe.issued.filter fun e => t.serial < e.serial) ++ c.pipe.reinj
    ∃ e u, exec (.trapDelivery c.id) s = .next u ∧ OnlyCrew s u c.id e ∧
      TookTrap c e t.s t.emask t.ckpt cx.d.trapvec t.pc t.grade t.arg t.code (t.entry.toList ++ queue) t.query ∧
      Restored c e t.ckpt t.serial t.tok t.emask ∧
      ∀ n l, has t.s n = true → c.lane n = some l → ∃ x v, e.lane n = some x ∧ x.saves.head? = some v ∧ v.run = l.run ∧
        ((∀ q ∈ queue, has q.s n = true → fOp q.w0 < 0x78 ∨ 0x7A < fOp q.w0) → v.pc = l.pc)) ∧
  ∀ (code : BitVec 7) (s : State) (i : Issue) (c : Crew), Ready s i c ⟨none, []⟩ fine true → i.entry = none → i.act ≠ 0 →
    (∃ o ∈ c.pipe.inflight, o.entry.serial < c.pipe.serial ∧ o.done = false) → c.pipe.traps = [] →
    ∃ e t q, exec (.trap code) s = .next t ∧ OnlyCrew s t i.crew e ∧ Moved c e i ∧ e.pipe.traps = [q] ∧ q.emul = false ∧
      q.serial = c.pipe.serial ∧ q.code = 0x0F ∧ q.arg = code.toNat ∧ q.emask = i.act ∧ q.s = i.s ∧ q.pc = i.pc ∧
      q.ckpt = c.ckpt ∧ q.grade = s.gradeAt c i.s ∧ q.entry = none

/-- R176: with no trap handler a trap of kernel code ends its grid with KIND 2, its cause and its grade; a trap in a handler
that masks traps suspends the context.
R185: TRAP takes its trap in the lanes of ACTIVE, BKPT when BKPTEN is set; neither enters the replay queue, and the
lanes return behind them. With no lane in ACTIVE, and BKPT with BKPTEN 0, neither has any effect. -/
def Obligations.TrapInstructions : Prop :=
  (∀ (s : State) (c : Crew) (t : Trap) (cx : Ctx) (g : Grid), s.crew? c.id = some c → c.trapDue = some t → t.emul = false →
     s.ctx? c.ctx = some cx → s.grid? c.grid = some g → g.fin = none → g.shadow = none →
     (c.depthAt t.s = 0 → cx.d.trapvec = 0 → t.arg < 128 → t.code < 64 → ∃ u x, exec (.trapDelivery c.id) s = .next u ∧
       u.grid? c.grid = some x ∧ x.fin = some ⟨2, 0, t.grade, t.arg * 2 ^ 6 + t.code⟩) ∧
     (0 < c.depthAt t.s → c.lv.cur.masked = true → ∃ u x, exec (.trapDelivery c.id) s = .next u ∧
       u.ctx? c.ctx = some x ∧ x.suspended = true)) ∧
  (let takes (ins : Instr) (arg code : Nat) (on : Crew → Bool) : Prop :=
     Does ins ⟨none, []⟩ (fun _ i c _ => i.act = 0 ∨ on c = false)
       (fun s i _ _ d t => OnlyCrew s t i.crew d) true ∧
     Traps ins ⟨none, []⟩ (fun _ i c _ => i.act ≠ 0 ∧ on c = true) code (fun _ i _ _ => (arg, i.act)) false true
   (∀ code : BitVec 7, takes (.trap code) code.toNat 0x0F fun _ => true) ∧ takes .bkpt 0 0x0E (·.bkpten))

/-- R191: a due emulation entry: as a trap entry, at EMUVEC, with an empty replay queue, and `h0` to `h12` loaded with the
operands that the fields of the issue name and its literal, as the level that issued it reads them; here for an issue of
kernel code. -/
def Obligations.EmulationEntry : Prop :=
  ∀ (s : State) (c : Crew) (t : Trap) (cx : Ctx), s.crew? c.id = some c → c.trapDue = some t → t.emul = true →
    s.ctx? c.ctx = some cx → c.depthAt t.s < 2 →
    ∃ x u, exec (.emulationEntry c.id) s = .next u ∧ OnlyCrew s u c.id x ∧ Entered c x t.s t.ckpt true cx.d.emuvec ∧
      Restored c x t.ckpt t.serial t.tok t.emask ∧
      x.lv.cur = { c.lv.cur with
        masked := true, pmasked := c.lv.cur.masked, emask := t.emask, eop := t.eop,
        efields := t.efields, eimm := t.eimm, epfx := t.epfx, epc := BitVec.ofNat 64 t.pc, rpq := [], elen := t.len,
        yielded := c.sel.yielded, last := c.sel.last, n := c.sel.n } ∧
      ∀ e, t.entry = some e → ∀ lane, lane < c.width → has t.s lane = true → c.depthAt t.s = 0 →
        x.val (.h 12) lane = some (BitVec.ofNat 32 (e.lit.getD 0)) ∧
        (∀ n, 12 < n → n < 16 → x.val (.h n) lane = some 0) ∧
        (e.w1 = none → ∀ n, 8 ≤ n → n < 12 → x.val (.h n) lane = some 0) ∧
        ∀ f h, (f = e.w0 / 2 ^ 11 % 2 ^ 7 ∧ h = 0) ∨ (f = e.w0 / 2 ^ 4 % 2 ^ 7 ∧ h = 4) ∨
            (∃ w, e.w1 = some w ∧ f = w / 2 ^ 25 % 2 ^ 7 ∧ h = 8) → ∀ k, k < 4 →
          (f < 112 → x.val (.h (h + k)) lane =
            if f + k < 112 ∧ t.ckpt.wb + f + k < c.budget then
              (t.ckpt.regs.find? (·.name == t.ckpt.wb + f + k)).bind fun r =>
                if has r.tags lane then none else some (nth r.vals lane 0)
            else some 0) ∧
          (f = 125 → x.val (.h (h + k)) lane = some (if k = 0 then BitVec.ofNat 32 lane else 0)) ∧
          (f = 126 → x.val (.h (h + k)) lane = some (if k = 0 then BitVec.ofNat 32 (e.lit.getD 0) else 0)) ∧
          (f = 124 ∨ f = 127 → x.val (.h (h + k)) lane = some 0)

/-- R187, R192: RTE and EMRET leave the level of the issuing lanes: depth, guarded run and R19's state come back, MASKED is
as it was before the entry; RTE continues where the entry left the lanes and re-injects the frame's replay queue first;
EMRET continues behind the emulated issue with `h0` to `h(n-1)` written to its destination in the lanes of EMASK. -/
def Obligations.HandlerReturns : Prop :=
  (∀ (s : State) (i : Issue) (c : Crew), Ready s i c ⟨none, []⟩ (fun _ c i => levelBad false c i) true → i.entry = none →
    i.act ≠ 0 → (∀ o ∈ c.pipe.inflight, o.done = true) →
    ∃ e t, exec .rte s = .next t ∧ OnlyCrew s t i.crew e ∧ e.pipe.reinj = c.lv.cur.rpq ∧ e.regs = c.regs ∧
      e.sel = ⟨c.lv.cur.yielded, c.lv.cur.last, c.lv.cur.n⟩ ∧
      (c.depthAt i.s = 1 → e.lv.cur.masked = c.lv.cur.pmasked) ∧
      (∀ f, c.depthAt i.s = 2 → c.lv.saved = some f → e.lv.cur = f) ∧
      ∀ n l v vs, has i.s n = true → c.lane n = some l → l.saves = v :: vs → ∃ x, e.lane n = some x ∧
        x.depth = l.depth - 1 ∧ x.saves = vs ∧ x.pc = v.pc ∧ x.run = v.run ∧ x.preds = l.preds ∧ x.toks = l.toks) ∧
  ∀ (k : Nat) (s : State) (i : Issue) (c : Crew) (r : Rn), k ≤ 4 →
    let kernel := decide (c.depthAt i.s ≤ 1)
    let sh : Shape := ⟨if k = 0 then none else some (r, k), []⟩
    destName (c.lv.cur.efields.toNat / 2 ^ 24 % 2 ^ 7) = some r →
    Checked s i c sh (fun _ c i => levelBad true c i) true false kernel
      (some (sh.dst.toList.map fun d => (d.1, k, if k = 2 then 2 else if k < 2 then 1 else 4))) →
    levelBad true c i = false → HasRoom s i c sh false kernel → i.entry = none → i.act ≠ 0 →
    (∀ o ∈ c.pipe.inflight, o.done = true) →
    ∃ e t, exec (.emret k) s = .next t ∧ OnlyCrew s t i.crew e ∧
      e.sel = ⟨c.lv.cur.yielded, c.lv.cur.last, c.lv.cur.n⟩ ∧
      (c.depthAt i.s = 1 → e.lv.cur.masked = c.lv.cur.pmasked) ∧
      (∀ f, c.depthAt i.s = 2 → c.lv.saved = some f → e.lv.cur = f) ∧
      (∀ n l v vs, has i.s n = true → c.lane n = some l → l.saves = v :: vs → ∃ x, e.lane n = some x ∧
        x.depth = l.depth - 1 ∧ x.saves = vs ∧ x.pc = c.lv.cur.epc.toNat + 4 * c.lv.cur.elen ∧ x.run = v.run ∧
        x.preds = l.preds ∧ x.toks = l.toks) ∧
      (∀ j lane, j < k → lane < c.width → has i.s lane = true → has c.lv.cur.emask lane = true →
        match nameOf c.wb (!kernel) r with
        | .v m => e.val (.v (m + j)) lane = c.val (.h j) lane
        | .h m => e.val (.h (m + j)) lane = c.val (.h j) lane
        | _ => True) ∧
      ∀ n lane, lane < c.width → lane < 64 →
        (n ∉ vNames (nameOf c.wb (!kernel) r) k ∨ has (c.lv.cur.emask &&& i.s) lane = false) →
        e.val (.v n) lane = c.val (.v n) lane

/-- R186: RPQR reads the item of the frame's replay queue that each lane's selector names; RPQW writes the per-lane items of
the lanes of ACTIVE and nothing else of the queue, and one word of an entry, which it marks written.
R190: TMASK sets MASKED from the lowest lane of ACTIVE; HMOVF and HMOVT copy a register with its poison tag in each
lane of ACTIVE between a handler register and a register named as in kernel code, and trap on no tag. -/
def Obligations.HandlerAccess : Prop :=
  (∀ (d : Rn) (a : Src),
     let named (c : Crew) (lo hi v : Nat) : Prop :=
       v < 256 ∧ lo ≤ v / 16 ∧ v / 16 < hi ∧ v % 16 < c.lv.cur.rpq.length
     let items (e : Entry) (n : Nat) : List Word :=
       let half (l : List DWord) (k : Nat) : Word := BitVec.ofNat 32 ((nth l n 0).toNat / 2 ^ (32 * k))
       [BitVec.ofNat 32 e.w0, BitVec.ofNat 32 (e.w1.getD 0), BitVec.ofNat 32 (e.lit.getD 0), BitVec.ofNat 32 e.grdW,
         BitVec.ofNat 32 e.preW, if has e.part n then 1 else 0,
         half e.a 0, half e.a 1, half e.b 0, half e.b 1, half e.c 0, half e.c 1]
     let rd : Shape := ⟨some (d, 1), [useA a]⟩
     let wr : Shape := ⟨none, [useA a, ⟨3, d, 1, false, false⟩]⟩
     let sel (c : Crew) (n : Nat) : Nat := (c.readWord (nameOf c.wb true d) 0 n false 1).1.toNat
     (∀ s i c, Ready s i c rd needHandler →
       let o := i.opn c rd
       (∀ n, has i.act n = true → named c 0 12 (o.wa n).toNat) →
       ∃ e t, exec (.rpqr d a) s = .next t ∧ OnlyCrew s t i.crew e ∧ Wrote c e i rd (toReg rd c i fun n =>
         ((c.lv.cur.rpq[(o.wa n).toNat % 16]?).map fun x =>
           (nth (items x n) ((o.wa n).toNat / 16) 0).zeroExtend 64).getD 0)) ∧
     (∀ s i c, Ready s i c wr needHandler true →
       let o := i.opn c wr
       (∀ n, has i.act n = true → (c.lane n).isSome ∧ named c 5 12 (sel c n)) →
       ∃ e t, exec (.rpqw d a) s = .next t ∧ OnlyCrew s t i.crew e ∧ e.lv.cur.rpq.length = c.lv.cur.rpq.length ∧
         ∀ (k : Nat) (x : Entry), c.lv.cur.rpq[k]? = some x → ∃ y, e.lv.cur.rpq[k]? = some y ∧
           (y.w0, y.w1, y.lit, y.grdW, y.preW, y.written, y.pc) = (x.w0, x.w1, x.lit, x.grdW, x.preW, x.written, x.pc) ∧
           ∀ n j, n < x.a.length → n < x.b.length → n < x.c.length → n < 64 → j < 12 →
             nth (items y n) j 0 =
               if has i.act n = true ∧ sel c n % 16 = k ∧ sel c n / 16 = j then (if j = 5 then o.wa n &&& 1 else o.wa n)
               else nth (items x n) j 0) ∧
     ∀ s i c (v : Nat) (w : Word) (x : Entry), Ready s i c wr needHandler true → i.act ≠ 0 → named c 0 5 v →
       c.lv.cur.rpq[v % 16]? = some x →
       (∀ n, has i.act n = true → (c.lane n).isSome ∧ sel c n = v ∧ (i.opn c wr).wa n = w) →
       (x.setWord (v / 16) w).present = x.present → (v / 16 = 1 → x.w1.isSome) → (v / 16 = 2 → x.lit.isSome) →
       ∃ e t y, exec (.rpqw d a) s = .next t ∧ OnlyCrew s t i.crew e ∧ e.lv.cur.rpq = c.lv.cur.rpq.set (v % 16) y ∧
         y.written = true ∧ (y.part, y.a, y.b, y.c, y.pc, y.serial) = (x.part, x.a, x.b, x.c, x.pc, x.serial) ∧
         ∀ j, j < 5 → nth (items y 0) j 0 = if j = v / 16 then w else nth (items x 0) j 0) ∧
  (∀ (d : Rn) (a : Src) (n : Nat), n < 16 →
     Does (.tmask a) ⟨none, [useA a]⟩ always (fun s i _ o d t => ∃ e, OnlyCrew s t i.crew e ∧
         e = match lowest i.act with
           | some l => { d with lv := { d.lv with cur := { d.lv.cur with masked := (o.wa l).getLsbD 0 } } }
           | none => d)
       true (fun _ c i => c.depthAt i.s == 0 || i.s != i.elig) lowRead ∧
     (∀ s i c, Ready s i c ⟨some (d, 1), []⟩ needHandler false false true →
       ∃ e t, exec (.hmovf d n) s = .next t ∧ OnlyCrew s t i.crew e ∧ Moved c e i ∧ e.hregs = c.hregs ∧
         (∀ lane, lane < c.width → has i.act lane = true →
           match nameOf c.wb false d with
           | .v k => e.val (.v k) lane = c.val (.h n) lane
           | .s k => k < c.scal.length → lowest i.act = some lane → e.val (.s k) lane = c.val (.h n) lane
           | _ => True) ∧
         (∀ k lane, lane < c.width → lane < 64 → (nameOf c.wb false d ≠ .v k ∨ has i.act lane = false) →
           e.val (.v k) lane = c.val (.v k) lane) ∧
         ∀ k lane, (nameOf c.wb false d ≠ .s k ∨ i.act = 0) → e.val (.s k) lane = c.val (.s k) lane) ∧
     ∀ s i c, Ready s i c ⟨none, [useA a]⟩ needHandler false false true →
       ∃ e t, exec (.hmovt n a) s = .next t ∧ OnlyCrew s t i.crew e ∧ Moved c e i ∧
         e.regs = (c.spent i ⟨none, [useA a]⟩ true).regs ∧ e.scal = c.scal ∧
         (∀ lane, lane < c.width → has i.act lane = true → e.val (.h n) lane =
           if i.entry.isNone && (c.readWord (nameOf c.wb false a.r) 0 lane false 1).2 then none
           else some ((i.opn c ⟨none, [useA a]⟩ true).wa lane)) ∧
         ∀ k lane, lane < c.width → lane < 64 → (k ≠ n ∨ has i.act lane = false) → e.val (.h k) lane = c.val (.h k) lane)

/-! ## Long-latency instructions -/

/-- R57, R62 to R65, R97, R145, R146, R178, R179, R209, R214, R215, R217, R218, R236: the long-latency instructions join
the crew's work in flight when they issue; a CPY also counts one more copy on its token in each lane of ACTIVE. -/
def Obligations.LongLatencyIssue : Prop :=
  (∀ (d : Rn) (a b : Src) (rem n w64 : Bool) (fn : SpecFn) (rm : Rm) (lh : BitVec 4),
    IssuesLong (.idiv d a b rem n w64 lh) (fun _ _ => shapeAB d a b (if w64 then 2 else 1)) (fun _ => fine) lh.toNat false ∧
    IssuesLong (.fspec d a fn rm lh) (fun _ _ => shapeA d a) (fun _ => fine) lh.toNat false ∧
    IssuesLong (.fdiv d a b rm lh) (fun _ _ => shapeAB d a b) (fun _ => fine) lh.toNat false) ∧
  (∀ (t a : Rn) (off : BitVec 7) (lh : BitVec 4),
    let ld (n : Nat) (i : Issue) (m : MemAttr) : Shape := ⟨some (t, dataW n), [baseUse i m.space a false]⟩
    let st (n : Nat) (i : Issue) (m : MemAttr) : Shape := ⟨none, [baseUse i m.space a false, ⟨1, t, dataW n, i.dlu, false⟩]⟩
    let lok (m : MemAttr) (_ : State) (c : Crew) (_ : Issue) : Bool := spaceBad c ldSpaces m.space
    let sok (m : MemAttr) (_ : State) (c : Crew) (_ : Issue) : Bool := spaceBad c stSpaces m.space
    IssuesLong (.ld1 t a off lh) (ld 1) lok lh.toNat true ∧ IssuesLong (.ld2 t a off lh) (ld 2) lok lh.toNat true ∧
    IssuesLong (.ld4 t a off lh) (ld 4) lok lh.toNat true ∧ IssuesLong (.ld8 t a off lh) (ld 8) lok lh.toNat true ∧
    IssuesLong (.ld16 t a off lh) (ld 16) lok lh.toNat true ∧
    IssuesLong (.st1 t a off lh) (st 1) sok lh.toNat true ∧ IssuesLong (.st2 t a off lh) (st 2) sok lh.toNat true ∧
    IssuesLong (.st4 t a off lh) (st 4) sok lh.toNat true ∧ IssuesLong (.st8 t a off lh) (st 8) sok lh.toNat true ∧
    IssuesLong (.st16 t a off lh) (st 16) sok lh.toNat true) ∧
  ∀ (d : Rn) (a b : Src) (op : AtomOp) (w64 cm : Bool) (lh : BitVec 4) (off : BitVec 11) (size : CpySize) (tok : BitVec 3)
    (rd : CpyRed) (ty : RedTy) (dsp ssp : Space) (tile : BitVec 8),
    IssuesLong (.atom d a b op w64 lh off)
      (fun i m => ⟨some (d, if w64 then 2 else 1), [baseUse i m.space a.r a.lu,
        ⟨1, b.r, if w64 then 2 else 1, b.lu || i.dlu, false⟩] ++ casUse op w64⟩)
      (fun m _ c _ => spaceBad c atomSpaces m.space) lh.toNat true ∧
    IssuesLong (.cpy a b size tok rd ty dsp ssp lh)
      (fun i _ => ⟨none, [baseUse i dsp a.r a.lu, ⟨1, b.r, baseW ssp, b.lu || i.dlu, false⟩]⟩)
      (fun _ _ c _ => cpyBad c rd dsp ssp) lh.toNat true allRead
      (fun _ i c => ∀ n l, has i.act n = true → c.lane n = some l → (nth l.toks tok.toNat ⟨0, false⟩).count < 64)
      (fun i e f => f = { e with lanes := f.lanes } ∧ ∀ n l, e.lane n = some l → tok.toNat < l.toks.length →
        ∃ l', f.lane n = some l' ∧ l' = { l with toks := l'.toks } ∧
          ∀ k, nth l'.toks k ⟨0, false⟩ = if has i.act n = true ∧ k = tok.toNat then
            { (nth l.toks k ⟨0, false⟩) with count := (nth l.toks k ⟨0, false⟩).count + 1 } else nth l.toks k ⟨0, false⟩) ∧
    (∀ ins, (ins = .tld tile a b cm lh ∨ ins = .tst tile a b cm lh) →
      IssuesLong ins (fun i m => ⟨none, [baseUse i m.space a.r a.lu, useB b]⟩)
        (fun m s c i => tileBad tile.toNat s c i ||
          spaceBad c (if ins = .tld tile a b cm lh then tldSpaces else tstSpaces) m.space)
        lh.toNat true lowRead (fun s _ c => tileBusy s c tile.toNat = false))

/-- R178, R209 to R211, R214, R215, R249, R314: the address of an access is its base plus the offset, in 32 bits for a single
base register and 64 bits for a pair; with the address aligned in every lane and its bytes in place, translation succeeds
with those bytes; with no lane's address aligned it traps MISALIGN in every lane, and with no lane's access permitted PROT.
R282, R283, R285: through a gather window each byte lies where the index of its position says, or nowhere; positions out
of range are latched, the lowest of them and of those before, and trap GATHER_BOUND in their lanes where POLICY is 1.
R217, R218, R221: a CPY starts one copy for each lane, in ascending order, between the bytes of its destination and of its
source that lie inside their allocations; one with a misaligned destination in every lane traps MISALIGN.
R236: TLD and TST go to base + row * stride + column * es, with `.cm` base + column * stride + row * es, all in the lowest
lane; a base or a stride that is no multiple of es traps MISALIGN there. -/
def Obligations.AccessAddresses : Prop :=
  ∀ (s : State) (c : Crew) (o : LongOp), s.crew? c.id = some c → s.toTranslate c = some o → o.done = false → o.entry.part ≠ 0 →
    (∀ n, has o.entry.part n = true → (c.lane n).isSome) →
    let w (sp : Space) : Nat := if sp = .scratch ∨ sp = .remote then 32 else 64
    let traps (code arg : Nat) (m : LaneMask) (rest : State → Crew → Prop) : Prop :=
      ∀ cx, s.ctx? c.ctx = some cx → (∀ p ∈ c.pipe.inflight, p.entry.serial < o.entry.serial → p.done = true) →
        c.pipe.traps = [] → c.mayTrap cx o.entry.s →
        ∃ e t, exec (.translationComplete c.id o.entry.serial) s = .next t ∧ t.crew? c.id = some e ∧ rest t e ∧
          TookTrap c e o.entry.s m o.ckpt cx.d.trapvec o.entry.pc (s.gradeAt c o.entry.s) arg code
            (o.entry :: ((c.pipe.issued.filter fun e => o.entry.serial < e.serial) ++ c.pipe.reinj))
    let only (t : State) (e : Crew) : Prop := OnlyCrew s t c.id e
    (∀ (n : Nat) (disp : Int) (nd : Need),
      (∃ (t a : Rn) (off : BitVec 7) (lh : BitVec 4), disp = off.toInt * n ∧
        ((nd = Need.read ∧ (n, o.instr) ∈ [(1, .ld1 t a off lh), (2, .ld2 t a off lh), (4, .ld4 t a off lh),
            (8, .ld8 t a off lh), (16, Instr.ld16 t a off lh)]) ∨
         (nd = Need.write ∧ (n, o.instr) ∈ [(1, .st1 t a off lh), (2, .st2 t a off lh), (4, .st4 t a off lh),
            (8, .st8 t a off lh), (16, Instr.st16 t a off lh)]))) ∨
      (∃ d a b op w64 lh off, o.instr = .atom d a b op w64 lh off ∧ n = (if w64 then 8 else 4) ∧ disp = off.toInt ∧
        nd = Need.both) →
      let base (l : Nat) : Nat := (nth o.entry.a l 0).toNat
      let ea (l : Nat) : Nat := (((base l : Int) + disp) % 2 ^ w o.attr.space).toNat
      let passes (places : Nat → List Place) (rest : State → Crew → Prop) : Prop :=
        ∃ e t p, exec (.translationComplete c.id o.entry.serial) s = .next t ∧ t.crew? c.id = some e ∧ rest t e ∧
          e.regs = c.regs ∧ p ∈ e.pipe.inflight ∧ p = { o with translated := true, dst := p.dst, src := p.src } ∧
          ∀ l, has o.entry.part l = true →
            (if nd = Need.write then p.dst else p.src).lookup l = some ((places l).map some)
      (∀ places : Nat → List Place,
        (∀ l, has o.entry.part l = true → ea l % n = 0 ∧ Placed s c l o.attr.space (ea l) n nd (places l)) →
        passes places only) ∧
      ((∀ l, has o.entry.part l = true → ea l % n ≠ 0) → traps 0x03 0 o.entry.part only) ∧
      ((∀ l, has o.entry.part l = true → ea l % n = 0 ∧ Forbidden s c l o.attr.space (ea l) n nd) →
        traps 0x05 0 o.entry.part only) ∧
      ∀ (places : Nat → List Place) (win : Nat → Window) (x : Nat → Nat → Option Nat), o.attr.space = .gwin →
        (∀ l, has o.entry.part l = true → ea l % n = 0 ∧ Gathers s c l (ea l) n nd (win l) (x l) (places l)) →
        let out (l p : Nat) : Prop := badPositions (win l) (ea l) n (x l) p
        let latched (t : State) (_ : Crew) : Prop := t.mem = s.mem ∧ ∀ u tm k v, s.team? u = some tm →
          (tm.windows[k]?).join = some v → ∃ tm' v', t.team? u = some tm' ∧ tm' = { tm with windows := tm'.windows } ∧
            (tm'.windows[k]?).join = some v' ∧ v' = { v with bad := v'.bad, pos := v'.pos } ∧
            (let mine (p : Nat) : Prop := ∃ l, has o.entry.part l = true ∧ c.teamOf l = u ∧ ea l / 2 ^ 32 = k ∧ out l p
             ((∀ p, ¬ mine p) → v' = v) ∧
             ∀ p, mine p → v'.bad = true ∧ v'.pos ≤ p ∧ (v.bad = true → v'.pos ≤ v.pos) ∧
               (mine v'.pos ∨ (v.bad = true ∧ v'.pos = v.pos)))
        ((∀ l p, has o.entry.part l = true → (win l).policy = 1 → ¬ out l p) → passes places latched) ∧
        ∀ l m, has o.entry.part l = true → (win l).policy = 1 → (∃ p, out l p) →
          (∀ k, k < l → has o.entry.part k = true → (win k).policy = 1 → ∀ p, ¬ out k p) →
          (∀ k, has m k = true ↔ has o.entry.part k = true ∧ (win k).policy = 1 ∧ ∃ p, out k p) →
          traps 0x11 (ea l / 2 ^ 32) m latched) ∧
    (∀ (a b : Src) (size : CpySize) (tok : BitVec 3) (rd : CpyRed) (ty : RedTy) (dsp ssp : Space) (lh : BitVec 4)
        (ds rs : Nat → List (Option Place)), o.instr = .cpy a b size tok rd ty dsp ssp lh →
      let z := match size with
        | .b4 => 4
        | .b8 => 8
        | .b16 => 16
      let at_ (sp : Space) (v : DWord) : Nat := v.toNat % 2 ^ w sp
      let da (l : Nat) : Nat := at_ dsp (nth o.entry.a l 0)
      let sa (l : Nat) : Nat := at_ ssp (nth o.entry.b l 0)
      ((∀ l, has o.entry.part l = true → da l % z = 0 ∧ sa l % z = 0 ∧
          Lies s c l dsp (da l) z (if rd = .none then Need.write else Need.both) false (ds l) ∧
          (rd = .none ∨ ∀ p ∈ ds l, ∃ pa, p = some (.mem pa)) ∧
          (Lies s c l ssp (sa l) z Need.read false (rs l) ∨ (ssp = .gwin ∧ ∃ v x ps, rs l = ps.map some ∧
            Gathers s c l (sa l) z Need.read v x ps ∧ (v.policy = 1 → ∀ p, ¬ badPositions v (sa l) z x p)))) →
        ∃ e t new, exec (.translationComplete c.id o.entry.serial) s = .next t ∧ t.crew? c.id = some e ∧ e.regs = c.regs ∧
          t.mem = s.mem ∧ t.eng = { s.eng with copies := s.eng.copies ++ new } ∧
          (∀ p ∈ e.pipe.inflight, p.entry.serial = o.entry.serial → p.translated = true ∧ p.done = true) ∧
          new.length = (lanesOf o.entry.part).length ∧
          ∀ (j n : Nat) (q : Copy), (lanesOf o.entry.part)[j]? = some n → new[j]? = some q →
            q = ⟨q.id, c.teamOf n, if c.cox.isSome then none else (c.lane n).map (·.idx), c.id, tok.toNat, ds n, rs n, rd, ty,
              o.attr.pdom, c.core, o.entry.serial, decide (ssp = .gwin), 0⟩) ∧
      ((∀ l, has o.entry.part l = true → da l % z ≠ 0) → ssp ≠ .gwin →
        traps 0x03 0 o.entry.part only)) ∧
    ∀ (tile : BitVec 8) (a b : Src) (cm : Bool) (lh : BitVec 4) (nd : Need) (l : Nat) (tm : Team) (x : Tile)
        (ps : Nat → Nat → List Place),
      (o.instr = .tld tile a b cm lh ∧ nd = Need.read) ∨ (o.instr = .tst tile a b cm lh ∧ nd = Need.write) →
      lowest o.entry.part = some l → s.team? (c.teamOf l) = some tm → tm.tile? tile.toNat = some x →
      let es := tyEs x.ty
      let base := (nth o.entry.a l 0).toNat % 2 ^ w o.attr.space
      let stride := (nth o.entry.b l 0).toNat % 2 ^ 32
      let ea (i j : Nat) : Nat := (base + if cm then j * stride + i * es else i * stride + j * es) % 2 ^ w o.attr.space
      (base % es = 0 → stride % es = 0 →
        (∀ i j, i < x.rows → j < x.cols → Placed s c l o.attr.space (ea i j) es nd (ps i j)) →
        ∃ e t p, exec (.translationComplete c.id o.entry.serial) s = .next t ∧ OnlyCrew s t c.id e ∧ e.regs = c.regs ∧
          p ∈ e.pipe.inflight ∧ p = { o with translated := true, dst := p.dst, src := p.src } ∧
          (if nd = Need.write then p.dst else p.src).lookup l = some (
            if cm then (List.range x.cols).flatMap fun j => (List.range x.rows).flatMap fun i => (ps i j).map some
            else (List.range x.rows).flatMap fun i => (List.range x.cols).flatMap fun j => (ps i j).map some)) ∧
      (base % es ≠ 0 ∨ stride % es ≠ 0 → traps 0x03 0 (1#64 <<< l) only)

/-- R97, R145, R146, R133: IDIV, FSPEC and FDIV complete with their result in the destination group of their lanes and, for
FSPEC and FDIV, the flags of those lanes; division by zero gives all ones and the dividend as remainder, and the
quotient of the most negative number by -1 is itself with remainder 0. -/
def Obligations.DivisionAndSpecialResults : Prop :=
  ∀ (s : State) (c : Crew) (o : LongOp) (nm : Name) (w : Nat), Performable s c o → o.mem = false → o.src = [] →
    o.writes nm w →
    let x (l : Nat) : DWord := nth o.entry.a l 0
    let y (l : Nat) : DWord := nth o.entry.b l 0
    let low (v : DWord) : Word := v.truncate 32
    let lands (f : Nat → DWord) (fl : Nat → Flags) : Prop :=
      ∃ e t, exec (.longLatencyComplete c.id o.entry.serial) s = .next t ∧ OnlyCrew s t c.id e ∧
        Landed c e o nm w (fun l k => wordOf (f l) k) ((lanesOf o.entry.part).foldl (fun v l => v ||| (fl l).word) 0)
    (∀ d a b rem n w64 lh, o.instr = .idiv d a b rem n w64 lh → w ≤ (if w64 then 2 else 1) →
      lands (fun l =>
        let p := readInt w64 n (x l)
        let q := readInt w64 n (y l)
        BitVec.ofInt 64 (if q = 0 then (if rem then p else -1) else if rem then p.tmod q else p.tdiv q)) fun _ => .none) ∧
    (∀ d a fn rm lh, o.instr = .fspec d a fn rm lh →
      lands (fun l => (spec32 (envOf o.ckpt.fpcr rm) fn (low (x l))).1)
        fun l => (spec32 (envOf o.ckpt.fpcr rm) fn (low (x l))).2) ∧
    ∀ d a b rm lh, o.instr = .fdiv d a b rm lh →
      lands (fun l => (div32 (envOf o.ckpt.fpcr rm) (low (x l)) (low (y l))).1)
        fun l => (div32 (envOf o.ckpt.fpcr rm) (low (x l)) (low (y l))).2

/-- R214, R225, R236: a load completes with the bytes of its places, little-endian and extended with zeros, in the group of
its lanes, and TLD with the elements of its tile in the order of the instruction; a load changes no memory.
R321 to R323: each half of 8 bytes of a load of class C is seen at one instant: none that the core's snapshot or an earlier
load of the lane has passed, and the present bytes where none has changed since; the lane's later loads see nothing older,
and miss none of its team's own bytes that it has seen. A load through a gather window or of a key region sees the present
bytes (R286, R314). -/
def Obligations.LoadResults : Prop :=
  ∀ (s : State) (c : Crew) (o : LongOp), Performable s c o →
    (∀ n, has o.entry.part n = true → (o.src.lookup n).isSome ∧ (c.lane n).isSome) →
    let places (l : Nat) : List Place := ((o.src.lookup l).getD []).filterMap id
    let bytes (at_ : Nat → Nat → Nat) (l : Nat) : List Byte := (places l).mapIdx fun j p =>
      if o.cls = some .c then s.byteSeen (c.teamOf l) (at_ l (j / 8)) p else s.placeByte (c.teamOf l) p
    let word (at_ : Nat → Nat → Nat) (l k : Nat) : Word := BitVec.ofNat 32 (leNat (((bytes at_ l).drop (4 * k)).take 4))
    let saw (e : Crew) (at_ : Nat → Nat → Nat) : Prop := o.cls = some .c → (o.src.map (·.1)).Nodup →
      ∀ l x, has o.entry.part l = true → e.lane l = some x → ∀ j p a, (places l)[j]? = some p → p = .mem a →
        ((s.ownByte (c.teamOf l) a).isSome → a / 4 * 4 ∈ x.wrote) ∧
        ((s.ownByte (c.teamOf l) a).isNone → at_ l (j / 8) ≤ max (s.core c.snap).floor ((x.seen.lookup (a / 4 * 4)).getD 0))
    (∀ (t a : Rn) off lh nm w, o.instr ∈ [.ld1 t a off lh, .ld2 t a off lh, .ld4 t a off lh, .ld8 t a off lh,
        Instr.ld16 t a off lh] → o.writes nm w →
      ∃ at_ e u, Instants s c o at_ ∧ exec (.longLatencyComplete c.id o.entry.serial) s = .next u ∧
        u = { s with crews := u.crews, clock := u.clock, chip := u.chip } ∧ CrewAt s u c.id e ∧
        Landed c e o nm w (word at_) 0 ∧ saw e at_) ∧
    ∀ (tile : BitVec 8) a b cm lh l (tm : Team) (x : Tile), o.instr = .tld tile a b cm lh → o.group = [] →
      (o.src.map (·.1)).head? = some l → s.team? (c.teamOf l) = some tm → tm.tile? tile.toNat = some x →
      x.elems.length = x.rows * x.cols → 0 < x.cols →
      ∃ at_ u y tm', Instants s c o at_ ∧ exec (.longLatencyComplete c.id o.entry.serial) s = .next u ∧ u.mem = s.mem ∧
        u.team? (c.teamOf l) = some tm' ∧ tm' = { tm with tiles := tm'.tiles } ∧ tm'.tile? tile.toNat = some y ∧
        (∀ k, k ≠ tile.toNat → tm'.tile? k = tm.tile? k) ∧ y = { x with st := 2, elems := y.elems } ∧
        ∀ i j, i < x.rows → j < x.cols → y.at i j = BitVec.ofNat 32 (leNat (((bytes at_ l).drop
          (tyEs x.ty * if cm then j * x.rows + i else i * x.cols + j)).take (tyEs x.ty)))

/-- R204, R214, R225, R226: a store puts the low bytes of its data at the places of its lanes, the later lanes last, and
changes no other byte that its team sees, no scratchpad byte elsewhere, and no byte of memory but those of the team's own
uncommitted lines that it must commit; TST stores its tile's elements likewise. Stated for the lanes of one team; what the
team sees, where the store forces no commit. -/
def Obligations.StoreResults : Prop :=
  ∀ (s : State) (c : Crew) (o : LongOp) (u : Nat) (s1 : State), Performable s c o →
    ((∃ (t a : Rn) (off : BitVec 7) (lh : BitVec 4), o.instr ∈ [.st1 t a off lh, .st2 t a off lh, .st4 t a off lh,
        .st8 t a off lh, Instr.st16 t a off lh]) ∨ ∃ t a b cm lh, o.instr = .tst t a b cm lh) → o.src = [] → o.group = [] →
    (∀ p ∈ o.dst, c.teamOf p.1 = u) → (s.team? u).isSome →
    s.storeLanes c (o.cls == some .c) c.core o.attr.pdom (s.storesOf c o) = .ok s1 →
    let puts : List (Place × Byte) := (s.storesOf c o).flatMap (·.2)
    let buffered (a : Nat) : Prop := ∃ tm l, s.team? u = some tm ∧ l ∈ tm.buf ∧ a ∈ l.bytes.map (·.1)
    (∀ x k, .scr x k ∈ puts.map (·.1) → (s.team? x).isSome) →
    ∃ e t, exec (.longLatencyComplete c.id o.entry.serial) s = .next t ∧ t.crew? c.id = some e ∧ e.regs = c.regs ∧
      e.scal = c.scal ∧ e.hregs = c.hregs ∧ e.fpcr = c.fpcr ∧
      (t.mem = s.mem → s.isReplay u = false →
        ∀ p, p ≠ .void → t.placeByte u p = match (puts.filter fun q => q.1 == p).getLast? with
        | some q => q.2
        | none => s.placeByte u p) ∧
      (∀ a, t.mem.cells.get a = s.mem.cells.get a ∨ buffered a ∨ .mem a ∈ puts.map (·.1)) ∧
      (∀ (x a : Rn) off lh, o.instr ∈ [.st1 x a off lh, .st2 x a off lh, .st4 x a off lh, .st8 x a off lh,
          Instr.st16 x a off lh] →
        ∀ l ps, (l, ps) ∈ o.dst → ∃ bs, (l, bs) ∈ s.storesOf c o ∧ bs.map (·.1) = ps.filterMap id ∧
          ∀ k b, (bs.map (·.2))[k]? = some b → b = BitVec.ofNat 8 (((nth o.entry.b l 0).toNat +
            2 ^ 64 * (nth o.entry.c l 0).toNat) / 256 ^ k)) ∧
      ∀ tile a b cm lh, o.instr = .tst tile a b cm lh → ∀ l ps (tm : Team) (x : Tile), (l, ps) ∈ o.dst →
        s.team? u = some tm → tm.tile? tile.toNat = some x →
        ∃ bs, (l, bs) ∈ s.storesOf c o ∧ ∀ i j k q b, i < x.rows → j < x.cols → k < tyEs x.ty →
          bs[tyEs x.ty * (if cm then j * x.rows + i else i * x.cols + j) + k]? = some (q, b) →
          b = BitVec.ofNat 8 ((x.at i j).toNat / 256 ^ k)

/-- R215: the new value of each atomic operation and of each reduction, on 32-bit and 64-bit words.
R215, R216: the lanes of an ATOM or a RED that touch one word act one after another in ascending order, each on the value
that the lanes before it left; ATOM gives each lane the value that it found; no other byte that the team sees changes.
Stated for the lanes of one team that holds no uncommitted byte of the word's line. -/
def Obligations.AtomicResults : Prop :=
  (∀ (w b cmp old : Nat) (cas : Src), (w = 32 ∨ w = 64) → b < 2 ^ w → cmp < 2 ^ w → old < 2 ^ w →
     let int (v : Nat) : Int := if 2 ^ (w - 1) ≤ v then (v : Int) - 2 ^ w else v
     (∀ op x, (op, x) ∈ [(RedMem.add, AtomOp.add), (.and, .and), (.or, .or), (.xor, .xor), (.minI, .minI), (.minN, .minN),
         (.maxI, .maxI), (.maxN, .maxN), (.faddF32, .faddF32)] → atomValue x w b cmp old = redValue op w b old) ∧
     redValue .add w b old = (old + b) % 2 ^ w ∧ redValue .and w b old = old &&& b ∧ redValue .or w b old = old ||| b ∧
     redValue .xor w b old = old ^^^ b ∧
     int (redValue .minI w b old) = min (int old) (int b) ∧ int (redValue .maxI w b old) = max (int old) (int b) ∧
     redValue .minN w b old = min old b ∧ redValue .maxN w b old = max old b ∧
     atomValue .exch w b cmp old = b ∧ atomValue (.cas cas) w b cmp old = (if old = cmp then b else old) ∧
     redValue .faddF32 32 b old =
       ((add32 ⟨.rne, false, false⟩ (BitVec.ofNat 32 old) (BitVec.ofNat 32 b)).1.truncate 32 : Word).toNat) ∧
  (let seen (s t : State) (u : Nat) (ps : List Place) (v : Nat) : Prop :=
     (∀ k p, ps[k]? = some p → t.placeByte u p = BitVec.ofNat 8 (v / 256 ^ k)) ∧
     ∀ p, p ≠ .void → p ∉ ps → t.placeByte u p = s.placeByte u p
   let word (s : State) (u n : Nat) (ps : List Place) : Prop :=
     ps.length = n ∧ ps.Nodup ∧ .void ∉ ps ∧ s.heldLines u (memLines ps) = [] ∧ (s.team? u).isSome ∧ ∀ x k, .scr x k ∈ ps → (s.team? x).isSome
   (∀ (s : State) (c : Crew) (o : LongOp) (u : Nat) (ps : List Place) d a b op w64 lh off nm w, Performable s c o →
     o.instr = .atom d a b op w64 lh off → word s u (if w64 then 8 else 4) ps → o.src.map (·.1) = lanesOf o.entry.part →
     o.src ≠ [] → (∀ p ∈ o.src, c.teamOf p.1 = u ∧ p.2 = ps.map some) → o.writes nm w → w ≤ (if w64 then 2 else 1) →
     let bits := if w64 then 64 else 32
     let next (v l : Nat) : Nat := atomValue op bits ((nth o.entry.b l 0).toNat % 2 ^ bits) ((nth o.entry.c l 0).toNat % 2 ^ bits) v
     let old := leNat (ps.map (s.placeByte u))
     ∃ e t, exec (.longLatencyComplete c.id o.entry.serial) s = .next t ∧ t.crew? c.id = some e ∧
       Landed c e o nm w (fun l k => wordOf (BitVec.ofNat 64
         (((lanesOf o.entry.part).takeWhile (· < l)).foldl next old)) k) 0 ∧
       seen s t u ps ((lanesOf o.entry.part).foldl next old)) ∧
   ∀ (a b : Src) (op : RedMem) (w64 : Bool) (off : BitVec 11) (s : State) (i : Issue) (c : Crew) (u : Nat) (ps : List Place),
     let n := if w64 then 8 else 4
     let m := c.attr i
     let sh : Shape := ⟨none, [baseUse i m.space a.r a.lu, ⟨1, b.r, if w64 then 2 else 1, b.lu || i.dlu, false⟩]⟩
     let o := i.opn c sh
     let wd := if m.space = .scratch ∨ m.space = .remote then 32 else 64
     Ready s i c sh (fun _ c _ => spaceBad c atomSpaces m.space) true → i.act ≠ 0 →
     s.homePoison u (memBytes ps) = false → (memBytes ps).any isPeerPa = false →
     (isRel m.order = true → s.released c c.pipe.serial m.scope = true) → word s u n ps →
     (∀ l, has i.act l = true → (c.lane l).isSome ∧ c.teamOf l = u ∧
       let ea := ((((o.fa l).toNat : Int) + off.toInt) % 2 ^ wd).toNat
       ea % n = 0 ∧ Placed s c l m.space ea n Need.both ps) →
     ∃ k e t, exec (.red a b op w64 off) s = .next t ∧ t.crew? i.crew = some e ∧ Sees c k ∧ Wrote k e i sh (noWrites c) ∧
       seen s t u ps ((lanesOf i.act).foldl (fun v l => redValue op (8 * n) ((o.fb l).toNat % 2 ^ (8 * n)) v)
         (leNat (ps.map (s.placeByte u)))))

/-! ## Tiles -/

/-- R230 to R233: TCFG gives the team's tile a type and shape with every element 0, TZERO clears a configured one, TREL
releases it, TSTAT reports it; no other tile changes, and with ACTIVE empty none does.
R234, R235: element `r * w + l` of a slice is in lane `l` of register `r`, for a crew of width `w`. TRD gives it to the
lanes of ACTIVE, TWR takes it from them; elements of other lanes stay, and TWR leaves the tile dirty when it writes one. -/
def Obligations.TileRegisters : Prop :=
  (∀ (tile : BitVec 8) (ty : TileTy) (rows cols : BitVec 6) (d : Rn),
     let n := tile.toNat
     let has0 (x : Tile) (ty : TileTy) (r k : Nat) : Prop :=
       x.num = n ∧ x.st = 1 ∧ x.ty = ty ∧ x.rows = r ∧ x.cols = k ∧ x.elems = List.replicate (r * k) 0
     let makes (s : State) (i : Issue) (c : Crew) (d : Crew) (t : State) (new : Option Tile → Option Tile → Prop) : Prop :=
       CrewAt s t i.crew d ∧ ∀ tm, s.team? (c.tileTeam i) = some tm → ∃ tm', OnTeam s t (c.tileTeam i) (some tm') ∧
         tm' = { tm with tiles := tm'.tiles } ∧ (∀ k, k ≠ n → tm'.tile? k = tm.tile? k) ∧
         if i.act = 0 then tm'.tile? n = tm.tile? n else new (tm.tile? n) (tm'.tile? n)
     let free (s : State) (_i : Issue) (c : Crew) (_ : Opn) : Prop := tileBusy s c n = false
     Does (.tcfg tile ty rows cols) ⟨none, []⟩ free (fun s i c _ d t => makes s i c d t fun _ y =>
       ∃ x, y = some x ∧ has0 x ty (rows.toNat + 1) (cols.toNat + 1)) true (tileBad n) ∧
     Does (.tzero tile) ⟨none, []⟩
       (fun s i c o => free s i c o ∧ (((s.team? (c.tileTeam i)).bind (·.tile? n)).isSome ∨ i.act = 0))
       (fun s i c _ d t => makes s i c d t fun x y => ∃ a b, x = some a ∧ y = some b ∧ has0 b a.ty a.rows a.cols)
       true (tileBad n) ∧
     Does (.trel tile) ⟨none, []⟩ free (fun s i c _ d t => makes s i c d t fun _ y => y = none) true (tileBad n) ∧
     ∀ s i c, Ready s i c ⟨some (d, 1), []⟩ (tileBad n) → tileBusy s c n = false →
       ∃ e t, exec (.tstat d tile) s = .next t ∧ OnlyCrew s t i.crew e ∧
         Wrote c e i ⟨some (d, 1), []⟩ (toReg ⟨some (d, 1), []⟩ c i fun _ =>
           BitVec.ofNat 64 (match (s.team? (c.tileTeam i)).bind (·.tile? n) with
             | none => 0
             | some x => x.st + 2 ^ 4 * (match x.ty with | .f32 => 0 | .f16 => 1 | .bf16 => 2 | .i32 => 3) +
                 2 ^ 6 * (x.rows - 1) + 2 ^ 12 * (x.cols - 1)))) ∧
  (∀ (d : Rn) (a : Src) (tile : BitVec 8) (col : Bool) (idx : SliceIdx) (s : State) (i : Issue) (c : Crew) (tm : Team)
     (x : Tile), s.team? (c.tileTeam i) = some tm → tm.tile? tile.toNat = some x → tileBusy s c tile.toNat = false →
     0 < c.width →
     let len := if col then x.rows else x.cols
     let g := (len + c.width - 1) / c.width
     let elem (y : Tile) (k e : Nat) : Word := if col then y.at e k else y.at k e
     let slice (o : Opn) : Nat := match idx with
       | .imm k => k.toNat
       | .reg _ => (o.wb ((lowest i.act).getD 0)).toNat
     let inTile (o : Opn) : Prop := slice o < if col then x.cols else x.rows
     let names (r : Rn) : List (Rn × Nat × Nat) := (r, 1, 1) :: (sliceUses idx).map fun u => (u.r, 1, 1)
     let group (r : Rn) : Prop := notVector r = false ∧ badGroup c (i.inHandler c) r g 1 = false ∧
       overBudget c (i.inHandler c) r g = false
     let rd : Shape := ⟨some (d, g), sliceUses idx⟩
     let wr : Shape := ⟨none, ⟨0, a.r, g, a.lu, false⟩ :: sliceUses idx⟩
     (Checked s i c rd (fun s c i => notVector d || tileBad tile.toNat s c i) false false false (some (names d)) →
       Untagged i c rd false lowRead →
       (i.act = 0 → ∃ e t, exec (.trd d tile col idx) s = .next t ∧ OnlyCrew s t i.crew e ∧ Wrote c e i rd (noWrites c)) ∧
       (i.act ≠ 0 → HasRoom s i c rd false → group d → inTile (i.opn c rd) →
         ∃ k e t, exec (.trd d tile col idx) s = .next t ∧ OnlyCrew s t i.crew e ∧ Wrote c k i rd (noWrites c) ∧
           Filled k e (nameOf c.wb (i.inHandler c) d) g i.act fun r lane =>
             if r * c.width + lane < len then some (elem x (slice (i.opn c rd)) (r * c.width + lane)) else none)) ∧
     let read (r lane : Nat) : Word × Bool := c.readWord (nameOf c.wb (i.inHandler c) a.r) r lane false 1
     (Checked s i c wr (fun s c i => notVector a.r || tileBad tile.toNat s c i) true false false (some (names a.r)) →
       (i.act = 0 → ∃ e t, exec (.twr tile a col idx) s = .next t ∧ OnlyCrew s t i.crew e ∧ Wrote c e i wr (noWrites c)) ∧
       (i.act ≠ 0 → group a.r → inTile (i.opn c wr) → i.entry = none → x.elems.length = x.rows * x.cols →
       (∀ lane, has (lowRead c i) lane = true → c.taggedField (i.inHandler c) (sliceUses idx) lane = none) →
       (∀ r lane, lane < c.width → has i.act lane = true → r * c.width + lane < len → (read r lane).2 = false) →
       ∃ e t tm' y, exec (.twr tile a col idx) s = .next t ∧ CrewAt s t i.crew e ∧ Wrote c e i wr (noWrites c) ∧
         OnTeam s t (c.tileTeam i) (some tm') ∧ tm' = { tm with tiles := tm'.tiles } ∧ tm'.tile? tile.toNat = some y ∧
         (∀ k, k ≠ tile.toNat → tm'.tile? k = tm.tile? k) ∧ y = { x with st := y.st, elems := y.elems } ∧
         y.st = (if (List.range len).any fun e => has i.act (e % c.width) then 2 else x.st) ∧
         ∀ p q, p < x.rows → q < x.cols → y.at p q =
           let k := if col then q else p
           let e := if col then p else q
           if k = slice (i.opn c wr) ∧ has i.act (e % c.width) = true then
             (if tyEs x.ty = 2 then (read (e / c.width) (e % c.width)).1 &&& 0xFFFF else (read (e / c.width) (e % c.width)).1)
           else x.at p q)))

/-! ## Barriers, queues and the Cox -/

/-- R272 to R275: each lane of ACTIVE arrives; a generation of the expected count completes with its last arrival. ARRIVE
records ARRIVED with the generation of the lane's arrival. WAIT records WAITING with the generation of the record, or with GEN
where there is none, and goes on when that generation has completed: then the record goes, and the waiter acquires. SYNC
arrives, once, and waits on its own arrival's generation. AWAIT ends the segments as waiters on the same generations (R117).
R254 to R256: PUSHQ appends a page of 64 words of the team's scratchpad to its queue; POPQ takes the oldest page and
gives word `r * w + l` to lane `l` of register `r`. -/
def Obligations.BarriersAndQueues : Prop :=
  (∀ (cluster : Bool) (b3 : BitVec 3) (b4 : BitVec 4) (a : Src) (la ka tl : Bool) (s : State) (i : Issue) (c : Crew)
     (tm : Team), s.team? (c.tileTeam i) = some tm → tm.uid = c.tileTeam i →
     let u := c.tileTeam i
     let n := if cluster then b3.toNat else b4.toNat
     let b := s.bar tm cluster n
     let cnt : Shape := ⟨none, [useA a]⟩
     let none' : Shape := ⟨none, []⟩
     let arr : Instr := if cluster then .cbarArrive b3 a else .tbarArrive b4 a
     let wait : Instr := if cluster then .cbarWait b3 la ka else .tbarWait b4 la ka
     let sync : Instr := if cluster then .cbarSync b3 a else .tbarSync b4 a
     let await : Instr := if cluster then .awaitCbar b3 tl else .awaitTbar b4 tl
     let k := (lanesOf i.act).length
     let who (l : Nat) : Option Nat := if c.cox.isSome then none else (c.lane l).map (·.idx)
     let gen (l : Nat) : Word := ((b.rec? u (who l)).map (·.gen)).getD b.gen
     let all (p : Nat → Prop) : Prop := ∀ l, has i.act l = true → p l
     let waiting (l : Nat) : Prop := ((b.rec? u (who l)).any (·.waiting)) = true
     let after (t : State) (g : Word) (count : Nat) (exp : Option Nat) (r : Nat → Option (Bool × Word)) : Prop :=
       ∃ tm', t.team? u = some tm' ∧
         let x := t.bar tm' cluster n
         (x.gen = g ∧ x.count = count ∧ x.exp = exp) ∧
         (all fun l => x.rec? u (who l) = (r l).map fun p => ⟨u, who l, p.1, p.2⟩) ∧
         ∀ v y, (v ≠ u ∨ all fun l => who l ≠ y) → x.rec? v y = b.rec? v y ∨ x.rec? v y = none
     let ran (t : State) (sh : Shape) : Prop := ∃ e, t.crew? i.crew = some e ∧ Wrote c e i sh (noWrites c)
     let passed (t : State) (sh : Shape) : Prop :=
       ∃ m e, t.crew? i.crew = some e ∧ Noted s c m ∧ Wrote m e i sh (noWrites c) ∧
         Acquired s { t with sched := s.sched, recs := s.recs, clock := s.clock } c (if cluster then .cluster else .team)
     let waits (ins : Instr) (g : Word) (count : Nat) (exp : Option Nat) (r : Nat → Word) : Prop :=
       ∃ t, exec ins s = .next t ∧ t.crew? i.crew = some { c with pipe := { c.pipe with waiting := true } } ∧
         t.mem = s.mem ∧ t.eng = s.eng ∧ after t g count exp fun l => some (true, r l)
     (all fun l => (c.lane l).isSome ∧ all fun m => who l = who m → l = m) →
     (∀ r ∈ s.recs, r.team = u → all fun l => who l ≠ some r.idx) →
     (∀ ins sh, (ins, sh) ∈ [(arr, cnt), (wait, none'), (sync, cnt)] → Ready s i c sh fine true → i.act = 0 →
       ∃ e t, exec ins s = .next t ∧ OnlyCrew s t i.crew e ∧ Wrote c e i sh (noWrites c)) ∧
     (∀ A, Ready s i c cnt fine true → i.act ≠ 0 → s.barReleased c cluster = true → 0 < A → A ≤ 16384 → b.count < A →
       (b.exp = none ∨ b.exp = some A) → (all fun l => ((i.opn c cnt).wa l).toNat = A) →
       (∃ t, exec arr s = .next t ∧ t.mem = s.mem ∧ t.eng = s.eng ∧ ran t cnt ∧
         after t (b.gen + BitVec.ofNat 32 ((b.count + k) / A)) ((b.count + k) % A)
           (if (b.count + k) % A = 0 then none else some A)
           fun l => some (false, b.gen + BitVec.ofNat 32 ((b.count + ((lanesOf i.act).filter (· < l)).length) / A))) ∧
       ((all fun l => ¬ waiting l) →
         (b.count + k = A → ∃ t, exec sync s = .next t ∧ t.mem = s.mem ∧ t.eng = s.eng ∧ passed t cnt ∧
           after t (b.gen + 1) 0 none fun _ => none) ∧
         (b.count + k < A → waits sync b.gen (b.count + k) (some A) fun _ => b.gen))) ∧
     (∀ ins sh, ((ins, sh) = (wait, none') ∨ (ins, sh) = (sync, cnt) ∧ all waiting) → Ready s i c sh fine true → i.act ≠ 0 →
       ((all fun l => 0 < (b.gen - gen l).toInt) → ∃ t, exec ins s = .next t ∧ t.mem = s.mem ∧ t.eng = s.eng ∧
         passed t sh ∧ after t b.gen b.count b.exp fun _ => none) ∧
       ((∃ l, has i.act l = true ∧ (b.gen - gen l).toInt ≤ 0) → waits ins b.gen b.count b.exp gen)) ∧
     (Ready s i c none' fine true →
       ∃ d e t ws, exec await s = .next t ∧ Wrote c d i none' (noWrites c) ∧ CrewAt s t i.crew e ∧
         EndedBehind d e i.act tl false ws none ∧ t.mem = s.mem ∧ t.eng = s.eng ∧
         (after t b.gen b.count b.exp fun l => some (true, gen l)) ∧
         all fun l => ws l = if cluster then .cbar n (gen l) else .tbar n (gen l))) ∧
  (∀ (q : BitVec 2) (a : Src) (d : Rn) (s : State) (i : Issue) (c : Crew) (tm : Team),
     s.team? (c.tileTeam i) = some tm → tm.uid = c.tileTeam i → q.toNat < tm.queues.length →
     let push : Shape := ⟨none, [useA a]⟩
     let off := ((i.opn c push).wa 0).toNat
     let page (k : Nat) : List Word := (List.range 64).map fun w =>
       BitVec.ofNat 32 (leNat ((List.range 4).map fun b => tm.scratch.get (k + 4 * w + b)))
     let queues (t : State) (l : List (List Word)) : Prop := t.mem = s.mem ∧ t.eng = s.eng ∧
       ∃ tm', t.team? (c.tileTeam i) = some tm' ∧ tm'.scratch = tm.scratch ∧ tm'.tiles = tm.tiles ∧ tm'.queue q.toNat = l ∧
         ∀ k, k ≠ q.toNat → tm'.queue k = tm.queue k
     (Ready s i c push (queueBad q) true →
       (i.act = 0 → ∃ e t, exec (.pushq q a) s = .next t ∧ OnlyCrew s t i.crew e ∧ Wrote c e i push (noWrites c)) ∧
       (i.act ≠ 0 → (tm.queue q.toNat).length < 64 → off % 16 = 0 → off + 256 ≤ tm.res.ssize →
         ∃ e t, exec (.pushq q a) s = .next t ∧ t.crew? i.crew = some e ∧ Wrote c e i push (noWrites c) ∧
           queues t (tm.queue q.toNat ++ [page off]))) ∧
     let g := 64 / max c.width 1
     let pop : Shape := ⟨some (d, g), []⟩
     (Checked s i c pop (queueBad q) true false false (some [(d, g, 1)]) →
       (i.act = 0 → ∃ e t, exec (.popq d q) s = .next t ∧ OnlyCrew s t i.crew e ∧ Wrote c e i pop (noWrites c)) ∧
       ∀ x rest, i.act ≠ 0 → HasRoom s i c pop false → tm.queue q.toNat = x :: rest →
         ∃ m e t, exec (.popq d q) s = .next t ∧ t.crew? i.crew = some e ∧ queues t rest ∧ Wrote c m i pop (noWrites c) ∧
           Filled m e (nameOf c.wb (i.inHandler c) d) g i.act fun r lane => some (nth x (r * c.width + lane) 0)))

/-- R257 to R262: MMA and MMAB place one operation with the descriptors read at issue in the queue of every target; where it
is performed, each element of the target's tile becomes the products' sums over groups of 32, each group exact (and
scaled), accumulated in ascending order with one rounding a group, to nearest. -/
def Obligations.MatrixOperations : Prop :=
  (∀ (tile : BitVec 8) (a b c' : Src) (acc : Bool) (s : State) (i : Issue) (c : Crew) (tm : Team) (ask : MmaAsk)
      (ins : Instr) (sc : Bool) (ts : List Nat),
    let sh : Shape := ⟨none, [useA a, useB b, useC c']⟩
    let o := i.opn c sh
    let A := (o.wa 0).toNat
    let B := (o.wb 0).toNat
    let C := (o.wc 0).toNat
    let words (off n : Nat) := s.scrWords tm.uid off n
    s.team? (c.tileTeam i) = some tm → tm.uid = c.tileTeam i → Ready s i c sh (tileBad tile.toNat) true →
    (∀ ty ty', ins = .mma tile a b c' ty acc ∨ ins = .mmab tile a b c' ty' acc → i.act = 0 →
      ∃ e t, exec ins s = .next t ∧ OnlyCrew s t i.crew e ∧ Wrote c e i sh (noWrites c)) ∧
    (i.act ≠ 0 → ((∃ ty, sc = false ∧ ins = .mma tile a b c' ty acc ∧ ask = ⟨tile.toNat, ty, none, acc, words A 4, words B 4, [], C⟩) ∨
      ∃ ty, sc = true ∧ ins = .mmab tile a b c' ty acc ∧ C % 32 = 0 ∧ C + 32 ≤ tm.res.ssize ∧
        ask = ⟨tile.toNat, mmabTy ty, some ty, acc, words A 4, words B 4, words C 8, wd (words C 8) 4⟩) →
    s.mmaChk tm ask (A % 16 != 0 || B % 16 != 0 || (sc && C % 32 != 0))
      (tm.res.ssize < A + 16 || tm.res.ssize < B + 16 || (sc && tm.res.ssize < C + 32)) = .ok ts →
    (∀ u ∈ ts, (s.eng.mxops.filter (·.target == u)).length < 16) →
    ∃ e t new, exec ins s = .next t ∧ CrewAt s t i.crew e ∧ Wrote c e i sh (noWrites c) ∧ t.mem = s.mem ∧ t.sched = s.sched ∧
      t.eng.mxops = s.eng.mxops ++ new ∧ new.map (·.target) = ts ∧
      ∀ q ∈ new, q.issuer = tm.uid ∧ q.crew = c.id ∧ q.tile = ask.tile ∧ q.ty = ask.ty ∧ q.scaled = ask.scaled ∧ q.acc = acc ∧
        q.aDesc = ask.a ∧ q.bDesc = ask.b ∧ q.sDesc = ask.sc ∧
        ∀ x, ((s.team? q.target).bind (·.tile? tile.toNat)) = some x → q.rows = x.rows ∧ q.cols = x.cols)) ∧
  ∀ (s : State) (m : MxOp) (t u : Team) (x : Tile) (ta tb : Nat),
    s.eng.mxops.find? (fun q => q.target == m.target && q.id == m.id) = some m → s.mxReady m = true →
    s.team? m.target = some t → s.team? m.issuer = some u → t.tile? m.tile = some x →
    x.rows = m.rows → x.cols = m.cols → x.ty = .f32 → x.elems.length = x.rows * x.cols →
    s.opTeam u m.target (opLoc (wd m.aDesc 0)) = some ta → s.opTeam u m.target (opLoc (wd m.bDesc 0)) = some tb →
    let f64 := m.ty == .f64
    let fmt := if f64 then fp64 else fp32
    let round (v : Val) : Nat := (roundTo fmt .rne false v).1
    let elem (team base k : Nat) : Val := s.opElem team base m.ty k
    let row (d : List Word) (r : Nat) : Nat := (opLoc (wd d 0)).off + r * wd d 1
    let scale (g i j : Nat) (v : Val) : Val :=
      match m.scaled, s.opTeam u m.target (opLoc (wd m.sDesc 0)), s.opTeam u m.target (opLoc (wd m.sDesc 2)) with
      | some _, some sa, some sb => scaleV v
          (s.scrByte sa ((opLoc (wd m.sDesc 0)).off + i * wd m.sDesc 1 + g)).toNat
          (s.scrByte sb ((opLoc (wd m.sDesc 2)).off + j * wd m.sDesc 3 + g)).toNat
      | _, _, _ => v
    let group (i j g : Nat) : Val :=
      let ps := (List.range 32).map fun k => mulV (elem ta (row m.aDesc i) (32 * g + k)) (elem tb (row m.bDesc j) (32 * g + k))
      scale g i j (if ps.any (·.2) then .nan false else (sumV .rne (ps.map (·.1))).1)
    let dot (i j : Nat) (old : Nat) : Nat :=
      let start : Nat × Nat := if m.acc then (old, 0) else (round (group i j 0), 1)
      ((List.range (wd m.aDesc 2 % 2 ^ 16 / 32)).drop start.2).foldl
        (fun v g => round (sumV .rne [decodeF fmt v, group i j g]).1) start.1
    0 < wd m.aDesc 2 % 2 ^ 16 / 32 →
    ∃ t' tm y, exec (.matrixOpPerform m.target m.id) s = .next t' ∧ t'.mem = s.mem ∧
      t'.eng.mxops = s.eng.mxops.filter (·.id != m.id) ∧ t'.team? m.target = some tm ∧ tm.tile? m.tile = some y ∧
      y.st = 2 ∧ (y.rows, y.cols, y.ty) = (x.rows, x.cols, x.ty) ∧
      ∀ i j, i < x.rows →
        if f64 then j < x.cols / 2 →
          (y.at i (2 * j)).toNat + 2 ^ 32 * (y.at i (2 * j + 1)).toNat =
            dot i j ((x.at i (2 * j)).toNat + 2 ^ 32 * (x.at i (2 * j + 1)).toNat) % 2 ^ 64
        else j < x.cols → y.at i j = BitVec.ofNat 32 (dot i j (x.at i j).toNat)

/-- R263 to R267: LOOPA issues the iterations of its nest in order, the innermost level first, with X, Y and Z the starts plus
the sums of index times stride: transfers on a channel that it opens, to Y0 + t x LEN; pages for a queue; or matrix operations.
A channel delivers its bytes in ascending order; an error in its source is consumed by the team. -/
def Obligations.AffineLoops : Prop :=
  (∀ (a : Src) (depth : BitVec 3) (s : State) (i : Issue) (c : Crew) (tm : Team) (d : List Word),
    let sh : Shape := ⟨none, [useA a]⟩
    let o := i.opn c sh
    let dep := depth.toNat + 1
    let count := loopCount d dep
    let len := wd d 1
    let n0 := if i.entry.isSome then (o.fc 0).toNat else 0
    let ran (t : State) : Prop := ∃ e, t.crew? i.crew = some e ∧ Wrote c e i sh (noWrites c)
    let sum (t k : Nat) : Int :=
      ((List.range dep).map fun l => (loopIdx d dep t l : Int) * (nth d (16 + 4 * l + k) 0).toInt).sum
    Ready s i c sh fine true → s.team? (c.tileTeam i) = some tm → tm.uid = c.tileTeam i →
    (i.act = 0 → ∃ e t, exec (.loopa a depth) s = .next t ∧ OnlyCrew s t i.crew e ∧ Wrote c e i sh (noWrites c)) ∧
    (i.act ≠ 0 → c.pipe.stage = 0 → s.loopChk tm (o.wa 0).toNat dep = .ok d →
    (count = ((List.range dep).map fun l => wd d (16 + 4 * l) % 2 ^ 16 + 1).prod ∧
      ∀ t l cnt, l < dep → cnt = (fun k => wd d (16 + 4 * k) % 2 ^ 16 + 1) → t < count →
      t = (List.range dep).foldl (fun v k => v * cnt k + loopIdx d dep t k) 0 ∧ loopIdx d dep t l < cnt l ∧
      (loopX d dep t : Int) = ((wd d 2 : Int) + 2 ^ 32 * wd d 3 + sum t 1) % 2 ^ 64 ∧
      (loopY d dep t : Int) = ((wd d 4 : Int) + sum t 2) % 2 ^ 32 ∧
      (loopZ d dep t : Int) = ((wd d 5 : Int) + sum t 3) % 2 ^ 32) ∧
    (∀ pa : Nat → Nat → Nat, wd d 0 % 16 = 0 → n0 = 0 → (∀ k ∈ tm.chans, k.num = wd d 0 / 2 ^ 4 % 8 → k.src = []) →
      (∀ n, n < count → loopX d dep n % 16 = 0 ∧ ∀ j, j < len / 16 → ∃ cx, s.ctx? c.ctx = some cx ∧
        s.translate cx ((loopX d dep n + 16 * j) % 2 ^ 64) Need.read = .ok (pa n j)) →
      ∃ t tm', exec (.loopa a depth) s = .next t ∧ ran t ∧ t.mem = s.mem ∧ t.eng = s.eng ∧
        t.team? (c.tileTeam i) = some tm' ∧ tm' = { tm with chans := tm'.chans } ∧
        tm'.chans.find? (·.num == wd d 0 / 2 ^ 4 % 8) = some ⟨wd d 0 / 2 ^ 4 % 8, wd d 4, count * len, 0,
          (List.range count).flatMap fun n => (List.range (len / 16)).map fun j => (wd d 4 + n * len + 16 * j, pa n j, 16)⟩ ∧
        ∀ m, m ≠ wd d 0 / 2 ^ 4 % 8 → tm'.chans.find? (·.num == m) = tm.chans.find? (·.num == m)) ∧
    (wd d 0 % 16 = 1 → let q := wd d 0 / 2 ^ 4 % 8
      q < tm.queues.length → (tm.queue q).length + (count - n0) ≤ 64 →
      (∀ n, n0 ≤ n → n < count → loopY d dep n % 16 = 0 ∧ loopY d dep n + 256 ≤ tm.res.ssize) →
      ∃ t tm', exec (.loopa a depth) s = .next t ∧ ran t ∧ t.mem = s.mem ∧ t.eng = s.eng ∧
        t.team? (c.tileTeam i) = some tm' ∧ (∀ k, k ≠ q → tm'.queue k = tm.queue k) ∧
        tm'.queue q = tm.queue q ++ ((List.range count).drop n0).map fun n => s.scrWords tm.uid (loopY d dep n) 64) ∧
    ∀ ts : List Nat, wd d 0 % 16 = 2 →
      let tmpl (off y : Nat) : List Word := (s.scrWords tm.uid off 4).mapIdx fun k w =>
        if k = 0 then BitVec.ofNat 32 (w.toNat / 2 ^ 24 * 2 ^ 24 + (w.toNat + y) % 2 ^ 24) else w
      let ask (n : Nat) : MmaAsk := ⟨wd d 0 / 2 ^ 16 % 256, mmaTyOf (wd d 0 / 2 ^ 8 % 8), none,
        decide (wd d 0 / 2 ^ 11 % 2 = 1 ∨ n ≠ 0), tmpl (wd d 6) (loopY d dep n), tmpl (wd d 7) (loopZ d dep n), [], wd d 8⟩
      (ask 0).tile < tm.res.ntiles → wd d 6 % 16 = 0 → wd d 7 % 16 = 0 → wd d 6 + 16 ≤ tm.res.ssize →
      wd d 7 + 16 ≤ tm.res.ssize → (∀ n, n0 ≤ n → n < count → s.mmaChk tm (ask n) false false = .ok ts) → ts.Nodup →
      (∀ u ∈ ts, (s.eng.mxops.filter (·.target == u)).length + (count - n0) ≤ 16) →
      ∃ t new, exec (.loopa a depth) s = .next t ∧ ran t ∧ t.mem = s.mem ∧ t.sched = s.sched ∧
        t.eng.mxops = s.eng.mxops ++ new ∧ new.length = (count - n0) * ts.length ∧
        ∀ n u q, n < count - n0 → u < ts.length → new[n * ts.length + u]? = some q →
          some q.target = ts[u]? ∧ q.issuer = tm.uid ∧ q.crew = c.id ∧ q.tile = (ask 0).tile ∧ q.ty = (ask 0).ty ∧
          q.scaled = none ∧ q.acc = (ask (n0 + n)).acc ∧ q.aDesc = (ask (n0 + n)).a ∧ q.bDesc = (ask (n0 + n)).b)) ∧
  ∀ (s : State) (tm : Team) (k : Chan) (n : Nat), s.team? tm.uid = some tm →
    tm.chans.find? (·.num == k.num) = some k → k.src ≠ [] →
    let from_ := k.src.flatMap fun p => (List.range p.2.2).map fun j => (p.1 + j, p.2.1 + j)
    let len := min n from_.length
    (s.readsPoison tm.uid ((from_.take n).map fun p => .mem p.2) = true →
      ∃ t tm', exec (.channelDelivery tm.uid k.num n) s = .next t ∧ t.mem = s.mem ∧ t.team? tm.uid = some tm' ∧
        tm'.chans = tm.chans ∧ tm'.scratch = tm.scratch ∧ t.agenda = .eccConsumed (.team tm.uid) :: s.agenda) ∧
    (s.readsPoison tm.uid ((from_.take n).map fun p => .mem p.2) = false → ((from_.take n).map (·.1)).Nodup →
      ∃ t tm' k', exec (.channelDelivery tm.uid k.num n) s = .next t ∧ t.mem = s.mem ∧ t.team? tm.uid = some tm' ∧
        tm'.chans.find? (·.num == k.num) = some k' ∧ k' = { k with done := k.done + len, src := k'.src } ∧
        k'.src.flatMap (fun p => (List.range p.2.2).map fun j => (p.1 + j, p.2.1 + j)) = from_.drop n ∧
        (∀ j off pa, j < len → from_[j]? = some (off, pa) → tm'.scratch.get off = s.view tm.uid pa) ∧
        ∀ off, off ∉ (from_.take n).map (·.1) → tm'.scratch.get off = tm.scratch.get off)

/-- R268 to R271: TDRAIN sends the elements of a tile to the tile of another team of the grid; applied there, each is added
with one rounding to nearest, in the order of its sequence where it has one. A drain waits for a target not placed yet or
whose tile is not there; one whose tile does not match ends the grid with ILLOPND at grade G3. -/
def Obligations.TileDrains : Prop :=
  (∀ (tile : BitVec 8) (a b : Src) (seq : Bool) (s : State) (i : Issue) (c : Crew) (tm : Team) (g : Grid) (l : Nat) (x : Tile),
    let sh : Shape := ⟨none, useA a 2 :: (if seq then [useB b] else [])⟩
    let o := i.opn c sh
    let v := (o.fa l).toNat
    Ready s i c sh (tileBad tile.toNat) true false false lowRead → tileBusy s c tile.toNat = false →
    (i.act = 0 → ∃ e t, exec (.tdrain tile a b seq) s = .next t ∧ OnlyCrew s t i.crew e ∧ Wrote c e i sh (noWrites c)) ∧
    (lowest i.act = some l → s.team? (c.tileTeam i) = some tm → tm.uid = c.tileTeam i → s.grid? tm.grid = some g →
    tm.tile? tile.toNat = some x → x.ty = .f32 → tm.audit.replay = none →
    v / 2 ^ 60 < 2 → v / 2 ^ 40 % 2 ^ 16 = 0 → v / 2 ^ 56 % 16 < 12 → v % 2 ^ 32 < g.lr.teams →
    (v / 2 ^ 60 = 1 → s.bound c.ctx (v / 2 ^ 56 % 16) = true) →
    (s.eng.drains.filter (·.issuer == tm.uid)).length < 16 →
    ∃ e t q, exec (.tdrain tile a b seq) s = .next t ∧ CrewAt s t i.crew e ∧ Wrote c e i sh (noWrites c) ∧ t.mem = s.mem ∧
      t.eng.drains = s.eng.drains ++ [q] ∧ q.grid = tm.grid ∧ q.target = v % 2 ^ 32 ∧ q.tile = v / 2 ^ 32 % 256 ∧
      q.port = (if v / 2 ^ 60 = 1 then some (v / 2 ^ 56 % 16) else none) ∧ q.far = none ∧
      q.rows = x.rows ∧ q.cols = x.cols ∧ q.elems = x.elems ∧ q.seq = (if seq then some (o.wb l) else none) ∧
      ∃ tm', t.team? (c.tileTeam i) = some tm' ∧ tm'.restart = false ∧ tm'.tiles = tm.tiles)) ∧
  ∀ (s : State) (d : Drain) (g : Grid), s.eng.drains.find? (·.id == d.id) = some d → s.grid? d.grid = some g →
    g.fin = none → d.port = none →
    (g.next ≤ d.target → exec (.drainApply d.id) s = .next s) ∧
    ∀ tm, d.target < g.next → s.sched.teams.find? (fun t => t.grid == d.grid && t.index == d.target) = some tm →
      s.team? tm.uid = some tm → tm.mode = .placed →
      (tm.tile? d.tile = none → exec (.drainApply d.id) s = .next s) ∧ ∀ x, tm.tile? d.tile = some x →
      let fits := x.ty = .f32 ∧ x.rows = d.rows ∧ x.cols = d.cols
      (fits → (∀ n, d.seq = some n → n = x.nextSeq) → ∃ t tm' y, exec (.drainApply d.id) s = .next t ∧ t.mem = s.mem ∧
        t.eng.drains = s.eng.drains.filter (·.id != d.id) ∧ t.team? tm.uid = some tm' ∧ tm'.restart = false ∧
        tm'.tile? d.tile = some y ∧ y.st = 2 ∧ y.nextSeq = (if d.seq.isSome then x.nextSeq + 1 else x.nextSeq) ∧
        ∀ (k : Nat) (v w : Word), x.elems[k]? = some v → d.elems[k]? = some w →
          y.elems[k]? = some ((add32 ⟨.rne, false, false⟩ v w).1.truncate 32)) ∧
      (fits → (∃ n, d.seq = some n ∧ 0 < (n - x.nextSeq).toInt) → exec (.drainApply d.id) s = .next s) ∧
      (¬ fits → d.far = none → g.shadow = none → ∃ t g', exec (.drainApply d.id) s = .next t ∧
        t.grid? d.grid = some g' ∧ g'.fin = some ⟨2, 0, 3, 0x02⟩)

/-! ## The chain, fences and phases -/

/-- R161 to R164: NBR along the chain. Every lane publishes its word for its next count, unless it has done so already, and
reads the word that its neighbour in the chain published for the same count: a lane of this issue, or one that published
before. At an end of the chain, and beyond a thread that has exited, it reads 0 or its own word as BND says. The counts
rise. R223: LDWP reads how far a channel has delivered. -/
def Obligations.ChainNeighbours : Prop :=
  (∀ (d : Rn) (a : Src) (right : Bool) (bnd : Bnd) (s : State) (i : Issue) (c : Crew) (tm : Nat → Team) (idx : Nat → Nat)
    (x : Nat → Word),
    let sh := shapeA d a
    let o := i.opn c sh
    let h (n : Nat) := s.chainOf (tm n)
    let pos (n : Nat) := (h n).pos (tm n) (idx n)
    let me (n : Nat) := s.chainSlot (h n) (pos n)
    let count (n : Nat) := (me n).cnt + 1
    let pub (n : Nat) : Word := match (me n).pub with
      | some (k, v) => if k = count n then v else o.wa n
      | none => o.wa n
    let atEnd (n : Nat) : Word := if bnd = .zero then 0 else o.wa n
    Ready s i c sh (fun _ c i => 0 < c.depthAt i.s) true →
    (∀ n, has i.act n = true → s.threadOf c n = some (tm n, idx n) ∧ idx n < (h n).per ∧ (h n).base ≤ (tm n).index ∧
      s.sched.teams.find? (fun u => u.grid == (h n).grid && u.index == (tm n).index) = some (tm n) ∧
      ((me n).published (count n) = true ∨ s.retained (h n) (pos n) = false)) →
    (∀ n m, has i.act n = true → has i.act m = true → ((tm n).uid, idx n) = ((tm m).uid, idx m) → n = m) →
    (∀ n, has i.act n = true → match (h n).next (pos n) right (bnd == .wrap) with
      | none => x n = atEnd n
      | some q =>
        (∃ m, has i.act m = true ∧ h m = h n ∧ pos m = q ∧ count m = count n ∧ x n = pub m) ∨
        ((∀ m, has i.act m = true → h m = h n → pos m ≠ q) ∧ ((s.chainSlot (h n) q).pub = some (count n, x n) ∨
          ((s.chainSlot (h n) q).pub = none ∧ (s.chainSlot (h n) q).exited = true ∧ x n = atEnd n)))) →
    ∃ e t, exec (.nbrChain d a right bnd) s = .next t ∧ t.crew? i.crew = some e ∧ t.mem = s.mem ∧
      Wrote c e i sh (toReg sh c i fun n => (x n).zeroExtend 64) ∧
      ∀ n, has i.act n = true → (t.chainSlot (h n) (pos n)).cnt = count n ∧
        (t.chainSlot (h n) (pos n)).pub = some (count n, pub n)) ∧
  ∀ (d : Rn) (ch : BitVec 3) (s : State) (i : Issue) (c : Crew) (l : Nat) (tm : Team) (k : Chan),
    let sh : Shape := ⟨some (d, 1), []⟩
    Ready s i c sh fine true →
    (i.act = 0 ∨ lowest i.act = some l ∧ s.team? (c.teamOf l) = some tm ∧ tm.chans.find? (·.num == ch.toNat) = some k) →
    ∃ e t, exec (.ldwp d ch) s = .next t ∧ OnlyCrew s t i.crew e ∧
      Wrote c e i sh (toReg sh c i fun _ => BitVec.ofNat 64 (k.base + k.done))

/-- R213, R224: FENCE.acq refreshes the snapshot of the core at package and system scope, and at every scope shows what the
scope's teams wrote; FENCE.rel completes when what the crew stored is acknowledged, its commits are complete and, at system
scope, its lines for host pages are at the host's coherence point; FENCE.acqrel does both; FENCE.x completes when every access
of class w of the crew has been performed, and with r = C the crew's team's writes are seen. While a condition does not hold,
the fence waits at its place.
R226 to R229, R328, R329: PHASE commits the uncommitted lines of every team with a lane in ACTIVE, each line tagged with
the number of its domain on the base die of the core; RESTART goes unless the lanes stand inside an idempotent region.
It completes when the commits are complete; ADVANCE then adds 1 to the number of its domain and completes when every copy
holds it. -/
def Obligations.FencesAndPhases : Prop :=
  (∀ (sc : Scope),
     let acq (s : State) (i : Issue) (c k : Crew) : Prop := if i.act = 0 then k = c else Noted s c k
     let saw (as : Scope) (s : State) (i : Issue) (c : Crew) (_ : Opn) (d : Crew) (t : State) : Prop :=
       if i.act = 0 then OnlyCrew s t i.crew d else t.crew? i.crew = some d ∧ Acquired s t c as
     Does (.fenceAcq sc) ⟨none, []⟩ always (saw sc) true fine allRead acq ∧
     Does (.fenceRel sc) ⟨none, []⟩ (fun s i c _ => i.act = 0 ∨ Released s c sc)
       (fun s i _ _ d t => OnlyCrew s t i.crew d) true ∧
     Does (.fenceAcqrel sc) ⟨none, []⟩ (fun s i c _ => i.act = 0 ∨ Released s c sc) (saw sc) true fine allRead acq ∧
     (∀ w r, r ≠ .c → Does (.fenceX sc w r) ⟨none, []⟩ (fun s i c _ => i.act = 0 ∨ ClassPerformed s c i sc w)
       (fun s i _ _ d t => OnlyCrew s t i.crew d) true) ∧
     (∀ w, Does (.fenceX sc w .c) ⟨none, []⟩ (fun s i c _ => i.act = 0 ∨ ClassPerformed s c i sc w) (saw .team) true fine
       allRead acq) ∧
     ∀ s i c, Ready s i c ⟨none, []⟩ fine true → i.act ≠ 0 →
       (∀ ins, (ins = .fenceRel sc ∨ ins = .fenceAcqrel sc) →
         (∃ o ∈ c.pipe.inflight, o.done = false ∧ o.entry.serial < c.pipe.serial ∧
           ∃ t0 a off lh, o.instr = .st4 t0 a off lh) →
         exec ins s = .next (s.updCrew i.crew fun c => { c with pipe := { c.pipe with waiting := true } })) ∧
       ∀ r, (∃ k ∈ s.eng.kops, k.crew = c.id) →
         exec (.fenceX sc .k r) s = .next (s.updCrew i.crew fun c => { c with pipe := { c.pipe with waiting := true } })) ∧
  (∀ (s : State) (i : Issue) (c : Crew), Ready s i c ⟨none, []⟩ fine true →
     (∀ ins, (ins = .phaseCommit ∨ ins = .phaseAdvance) → i.act = 0 →
       ∃ d t, Wrote c d i ⟨none, []⟩ (noWrites c) ∧ exec ins s = .next t ∧ OnlyCrew s t i.crew d) ∧
     (i.act ≠ 0 →
     (∀ ins, (ins = .phaseCommit ∨ ins = .phaseAdvance) → c.pipe.stage = 0 → Released s c .package →
       (∀ u ∈ c.teamsIn i.act, (∀ k ∈ s.eng.commits, k.team ≠ u) ∧
         ∃ tm g cx, s.team? u = some tm ∧ s.grid? tm.grid = some g ∧ s.ctx? g.ctx = some cx) →
       (∃ u ∈ c.teamsIn i.act, ∃ tm, s.team? u = some tm ∧ tm.buf ≠ []) →
       ∃ t e, exec ins s = .next t ∧ t.crew? i.crew = some e ∧ e.lanes = c.lanes ∧ e.pipe.stage = 1 ∧ e.regs = c.regs ∧
         t.mem = s.mem ∧ ∀ u tm g cx, u ∈ c.teamsIn i.act → s.team? u = some tm → s.grid? tm.grid = some g →
           s.ctx? g.ctx = some cx → ∃ tm', t.team? u = some tm' ∧ tm'.buf = [] ∧
             (tm'.restart = (tm.restart && ((lanesOf i.act).all fun n => c.teamOf n != u ||
               (c.depthAt i.s == 0 && g.idem.any fun r => decide (r.1 ≤ i.pc) && decide (i.pc < r.2))))) ∧
             (tm.buf ≠ [] → ∃ k ∈ t.eng.commits, k.team = u ∧ k.grid = tm.grid ∧ k.crew = some c.id ∧ k.lines = tm.buf ∧
               k.die = dieOf c.core ∧
               k.tags = (tm.buf.map fun l => (l.dom, cx.pnAt (baseOfDie (dieOf c.core)) l.dom)).eraseDups)) ∧
     (c.pipe.stage = 1 → (∀ k ∈ s.eng.commits, k.crew ≠ some c.id) → ∃ d t, Wrote c d i ⟨none, []⟩ (noWrites c) ∧
       exec .phaseCommit s = .next t ∧ OnlyCrew s t i.crew d) ∧
     ∀ cx n, s.ctx? c.ctx = some cx → s.ctx? cx.id = some cx → n = nth cx.pn (c.attr i).pdom 0 →
       (c.pipe.stage = 1 → (∀ k ∈ s.eng.commits, k.crew ≠ some c.id) → ∃ t e, exec .phaseAdvance s = .next t ∧
         t.crew? i.crew = some e ∧ e.lanes = c.lanes ∧ e.pipe.stage = 2 + (n + 1).toNat ∧ t.mem = s.mem ∧
         t.ctx? cx.id = some { cx with pn := setNth cx.pn (c.attr i).pdom (n + 1) }) ∧
       ((∀ b, b < 4 → 0 ≤ (cx.pnAt b (c.attr i).pdom - BitVec.ofNat 32 (c.pipe.stage - 2)).toInt) → 2 ≤ c.pipe.stage →
         (∀ k ∈ s.eng.commits, k.crew ≠ some c.id) →
         ∃ d t, Wrote c d i ⟨none, []⟩ (noWrites c) ∧ exec .phaseAdvance s = .next t ∧ OnlyCrew s t i.crew d)))

/-! ## The die -/

/-- R281, R284: GBIND binds the window of every team with a lane in ACTIVE from the block that its lowest lane names, or
unbinds it where the address is 0. R285: GSTAT gives each lane the status of its team's window.
R301, R306, R307: KREG binds a slot of the context from its descriptor, with the projection bits read then, and writes
its generation into a region that has none; a region of another generation is bound stale. KREG.unbind empties the slot. -/
def Obligations.Bindings : Prop :=
  ((∀ (win : BitVec 3) (a : Src) (scat : Bool) (s : State) (i : Issue) (c : Crew) (bs : Nat → List Byte),
     let sh : Shape := ⟨none, [useA a 2]⟩
     let o := i.opn c sh
     let lead (n : Nat) : Prop := has i.act n = true ∧ ∀ m, m < n → has i.act m = true → c.teamOf m ≠ c.teamOf n
     let es (b : List Byte) := bits (fld b 0x14 4) 0 3
     let itype (b : List Byte) := bits (fld b 0x14 4) 4 2
     Ready s i c sh fine true false false leadRead →
     (∀ n, lead n → o.fa n ≠ 0 → let b := bs n
       Block s c n 32 1 (o.fa n).toNat b ∧ es b ≤ 4 ∧ fld b 0 8 % 2 ^ es b = 0 ∧
       fld b 8 8 % (if itype b < 2 then 4 else 8) = 0 ∧ fld b 0 8 < 2 ^ 56 ∧ fld b 8 8 < 2 ^ 56 ∧
       bits (fld b 0x14 4) 8 2 ≤ 1 ∧ bits (fld b 0x14 4) 3 1 = 0 ∧ bits (fld b 0x14 4) 6 2 = 0 ∧
       bits (fld b 0x14 4) 10 22 = 0 ∧ 1 ≤ fld b 0x10 4 ∧ fld b 0x10 4 ≤ 2 ^ 28 ∧ 1 ≤ fld b 0x18 8 ∧ fld b 0x18 8 ≤ 2 ^ 48) →
     ∃ k e t, exec (.gbind win a scat) s = .next t ∧ t.crew? i.crew = some e ∧ Sees c k ∧ Wrote k e i sh (noWrites c) ∧
       t.mem = s.mem ∧ t.eng = s.eng ∧
       ∀ n tm, lead n → s.team? (c.teamOf n) = some tm →
         t.team? (c.teamOf n) = some { tm with
           windows := tm.windows.set win.toNat (if o.fa n = 0 then none else some
             ⟨fld (bs n) 0 8, fld (bs n) 8 8, fld (bs n) 0x10 4, 2 ^ es (bs n), itype (bs n),
               bits (fld (bs n) 0x14 4) 8 2, fld (bs n) 0x18 8, scat, false, 0⟩) }) ∧
   ∀ (d : Rn) (win : BitVec 3) (s : State) (i : Issue) (c : Crew), let sh : Shape := ⟨some (d, 1), []⟩
     Ready s i c sh fine true →
     ∃ e t, exec (.gstat d win) s = .next t ∧ OnlyCrew s t i.crew e ∧ Wrote c e i sh (toReg sh c i fun n =>
       match (s.team? (c.teamOf n)).bind fun tm => (tm.windows[win.toNat]?).join with
       | none => 0
       | some w => BitVec.ofNat 64 ((if w.bad then 2 ^ 31 else 0) + 2 ^ 30 + (if w.scat then 2 ^ 29 else 0) +
           w.policy % 2 * 2 ^ 28 + w.pos % 2 ^ 28))) ∧
  ((∀ (slot : BitVec 3) (a : Src) (s : State) (i : Issue) (c : Crew) (l : Nat) (tm : Team) (cx : Ctx) (d rows head : List Byte)
     (pa : Nat),
     let sh : Shape := ⟨none, [useA a 2]⟩
     let va := ((i.opn c sh).fa l).toNat
     let gen := fld head 0 4
     let pgen := fld d 0x28 4
     let ctl := fld d 0x2C 4
     let rowBytes := (bits ctl 18 3 + 1) * bits ctl 24 4 * (bits ctl 8 8 + 1) / 8
     Ready s i c sh fine true false false lowRead →
     (i.act = 0 → ∃ e t, exec (.kreg slot a) s = .next t ∧ OnlyCrew s t i.crew e ∧ Wrote c e i sh (noWrites c)) ∧
     (lowest i.act = some l → s.keyLoads c.ctx = false →
     s.team? (c.teamOf l) = some tm → tm.uid = c.teamOf l → tm.audit.replay = none → s.ctx? c.ctx = some cx →
     Block s c l 64 8 va d → kregChk d = .ok () →
     Lines s c l ((rowBytes + 31) / 32) (fld d 0x18 8) rows → Lines s c l 1 (fld d 8 8) head →
     s.translate cx (fld d 8 8) (if gen = 0 then Need.both else Need.read) = .ok pa →
     ∃ m e t k, exec (.kreg slot a) s = .next t ∧ t.crew? i.crew = some e ∧ Sees c m ∧ Wrote m e i sh (noWrites c) ∧
       t.kslot? c.ctx slot.toNat = some k ∧
       k = ⟨slot.toNat, fld d 0 8, fld d 8 8, fld d 0x10 8, fld d 0x18 8, fld d 0x20 4, fld d 0x24 4, BitVec.ofNat 32 pgen,
         BitVec.ofNat 32 ctl, rows.take rowBytes, decide (gen ≠ 0 ∧ gen ≠ pgen)⟩ ∧
       (gen = 0 → leNat (t.mem.cells.read pa 4) = pgen) ∧
       ∀ x, (gen ≠ 0 ∨ x < pa ∨ pa + 4 ≤ x) → t.mem.cells.get x = s.mem.cells.get x)) ∧
   ∀ (slot : BitVec 3) (la ka : Bool) (s : State) (i : Issue) (c : Crew),
     Ready s i c ⟨none, []⟩ fine true → (i.act = 0 ∨ s.keyLoads c.ctx = false) →
     ∃ d t, Wrote c d i ⟨none, []⟩ (noWrites c) ∧ exec (.kregUnbind slot la ka) s = .next t ∧ CrewAt s t i.crew d ∧
       t.kslot? c.ctx slot.toNat = (if i.act = 0 then s.kslot? c.ctx slot.toNat else none) ∧ t.mem = s.mem ∧ t.eng = s.eng ∧
       ∀ n, n ≠ slot.toNat → t.kslot? c.ctx n = s.kslot? c.ctx n)

/-- R287, R289, R297: MERGE and CONTRACT read their descriptor in the lowest lane, check it, and hand the operation to the
engines, behind those of the team already handed over; with eight waiting they wait at their place. -/
def Obligations.SharedOperations : Prop :=
  ∀ (s : State) (i : Issue) (c : Crew) (a : Src) (l : Nat),
    let sh : Shape := ⟨none, [useA a 2]⟩
    let o := i.opn c sh
    let va := (o.fa l).toNat
    let team := c.teamOf l
    Ready s i c sh fine true false false lowRead →
    (∀ isect ins, ins = .merge a isect ∨ ins = .contract a → i.act = 0 →
      ∃ e t, exec ins s = .next t ∧ OnlyCrew s t i.crew e ∧ Wrote c e i sh (noWrites c)) ∧
    (lowest i.act = some l →
    let given (ins : Instr) (merge isect : Bool) (d f : List Byte) : Prop :=
      ((s.eng.sops.filter (·.team == team)).length < 8 → ∃ m e t q, exec ins s = .next t ∧ CrewAt s t i.crew e ∧
        Sees c m ∧ Wrote m e i sh (noWrites c) ∧ t.mem = s.mem ∧ t.sched = s.sched ∧ t.eng = { s.eng with sops := s.eng.sops ++ [q] } ∧
        q = ⟨q.id, team, c.id, merge, isect, va, d, f, (c.attr i).pdom, c.core, 0, []⟩) ∧
      (8 ≤ (s.eng.sops.filter (·.team == team)).length → ∃ e t, exec ins s = .next t ∧ t.crew? i.crew = some e ∧
        e.lanes.map (Option.map (·.pc)) = c.lanes.map (Option.map (·.pc)) ∧ e.pipe.waiting = true ∧ t.eng = s.eng)
    (∀ isect d f, Block s c l 64 2 va d → fld d 0x10 8 % 32 = 0 → fld d 0x10 8 < 2 ^ 56 →
      Lines s c l (bits (fld d 0x24 4) 0 6 + 1) (fld d 0x10 8) f → mergeChk isect d f = .ok () →
      given (.merge a isect) true isect d f) ∧
    ∀ b, Block s c l 64 18 va b → contractChk b = .ok () → given (.contract a) false false b [])

/-- R290, R291: what the Sweep makes of fibres: each coordinate present in `k` of them or more, ascending, with its values
combined in fibre order; and how a result longer than CAP or a descending coordinate is reported. -/
def Obligations.SweepResults : Prop :=
  ∀ (vt opn k cap : Nat) (fs : List FibreData) (keep : Nat → Nat), 1 ≤ k →
    let all := mergeAll vt opn k fs
    let r := mergeResult vt opn k cap fs keep
    let terms (c : Nat) : List Nat := fs.flatMap fun f => ((f.coords.zip f.vals).filter (·.1 == c)).map (·.2)
    let float (f : Fmt) (x y : Nat) : Nat := match (sumV .rne [decodeF f x, decodeF f y]).1 with
      | .fin n m e => if m = 0 then 0 else (roundTo f .rne false (.fin n m e)).1
      | v => (roundTo f .rne false v).1
    all.Pairwise (fun p q => p.1 < q.1) ∧
    (∀ c v, (c, v) ∈ all ↔ k ≤ (fs.filter fun f => c ∈ f.coords).length ∧
      ∃ t ts, terms c = t :: ts ∧ v = ts.foldl (mergeTwo vt opn) t) ∧
    (∀ x y, mergeTwo 0 0 x y = float fp32 x y ∧ mergeTwo 3 0 x y = float fp64 x y ∧
      (∀ t, t = 1 ∨ t = 2 → mergeTwo t 0 x y = (x + y) % 2 ^ 32) ∧ (∀ t, mergeTwo t 3 x y = x) ∧
      mergeTwo 2 1 x y = min x y ∧ mergeTwo 2 2 x y = max x y ∧
      (x < 2 ^ 32 → y < 2 ^ 32 → let low := (BitVec.ofNat 32 x).toInt ≤ (BitVec.ofNat 32 y).toInt
        mergeTwo 1 1 x y = (if low then x else y) ∧ mergeTwo 1 2 x y = if low then y else x)) ∧
    ((∀ f ∈ fs, f.cut = false) →
      ((∀ f ∈ fs, f.coords.Pairwise (· ≤ ·)) →
        r = if all.length ≤ cap then ⟨0, all, all.length, 0, 0⟩ else ⟨2, all.take cap, all.length, 0, 0⟩) ∧
      ((∃ f ∈ fs, ¬ f.coords.Pairwise (· ≤ ·)) → r.err = 1 ∧ r.cnt = r.out.length ∧
        ∃ f p q, fs[r.fib]? = some f ∧ 0 < r.pos ∧ f.coords[r.pos - 1]? = some p ∧ f.coords[r.pos]? = some q ∧ q < p ∧
          (∀ x ∈ r.out, x.1 < p) ∧
          ∀ g ∈ fs, ∀ i u v, g.coords[i]? = some u → g.coords[i + 1]? = some v → v < u →
            (∀ j x y, j < i → g.coords[j]? = some x → g.coords[j + 1]? = some y → x ≤ y) → p ≤ u))

/-- R287, R290, R291: a merge that is performed puts its entries, and STATUS with DONE, into the commit buffer of its team,
counts, and is gone; where its counter's page is not to be had, STATUS says so (log entry 118).
R296: an element of a contraction, here of one or two inputs over one contracted variable: the exact sum of the products
of the elements stored in each run of 32 coordinates, rounded once a run and added to what came before, +0 without any.
R298: a contraction whose output is one tile stores it, commits it with STATUS, and is gone. -/
def Obligations.SharedResults : Prop :=
  (∀ (s : State) (o : SOp) (tm : Team) (bs : List (Place × Byte)) (ctr : Ctr) (s1 : State),
     let e := s.engEnv o
     let d := o.bytes
     let vs := if bits (fld d 0x24 4) 8 2 = 3 then 8 else 4
     (s.eng.sops.filter (·.team == o.team)).head? = some o → o.merge = true → o.unres = [] → s.team? o.team = some tm →
     tm.audit.replay = none → e.mergeWrites o (fun _ => 0) = .ok (bs, ctr) →
     s.storeBytes o.team o.core none o.dom bs = .ok s1 →
     (∃ t, exec (.mergePerform o.team) s = .next t ∧ t.eng.sops = s.eng.sops.filter (·.id != o.id) ∧
       (∀ u, (t.team? u).map (·.buf) = (s1.team? u).map (·.buf)) ∧
       ((∀ pa, ctr ≠ .at pa) → t.mem = s1.mem) ∧
       ∀ pa, ctr = .at pa → leNat (t.mem.cells.read pa 4) = (leNat (s1.mem.cells.read pa 4) + 1) % 2 ^ 32 ∧
         ∀ x, (x < pa ∨ pa + 4 ≤ x) → t.mem.cells.get x = s1.mem.cells.get x) ∧
     ∀ (C V : Nat → Nat → Nat),
       (∀ j x i, (fibresOf d o.fibres)[j]? = some x → i < x.len →
         e.read 0 (x.coord + 4 * i) 4 = .ok (C j i) ∧ e.read 0 (x.val + vs * i) vs = .ok (V j i)) →
       let r := mergeResult (bits (fld d 0x24 4) 8 2) (bits (fld d 0x24 4) 10 2)
         (if o.isect then bits (fld d 0x24 4) 12 6 + 1 else 1) (fld d 0x20 4)
         ((fibresOf d o.fibres).mapIdx fun j x => ⟨(List.range x.len).map (C j), (List.range x.len).map (V j), false⟩)
         fun _ => 0
       let holds (va n v : Nat) : Prop := ∀ pa i, e.pa 0 va Need.write = .ok pa → i < n →
         (.mem (pa + i), BitVec.ofNat 8 (v / 256 ^ i)) ∈ bs
       (∀ p x, p < r.out.length → e.pa 0 (fld d 0 8 + 4 * p) Need.write ≠ .error (.dead 0 x) ∧
         e.pa 0 (fld d 8 8 + vs * p) Need.write ≠ .error (.dead 0 x)) →
       ((∃ va, ctr = .dead va) → holds (o.desc + 0x28) 4 (2 ^ 31 + if r.err = 0 then 3 else r.err)) ∧
       ((∀ va, ctr ≠ .dead va) →
       (∀ p c v, r.out[p]? = some (c, v) → holds (fld d 0 8 + 4 * p) 4 c ∧ holds (fld d 8 8 + vs * p) vs v) ∧
       holds (o.desc + 0x28) 4 (2 ^ 31 + r.err) ∧ holds (o.desc + 0x2C) 4 r.cnt ∧
       holds (o.desc + 0x30) 4 (if r.err = 1 then r.fib else 0) ∧ holds (o.desc + 0x34) 4 (if r.err = 1 then r.pos else 0))) ∧
  ((∀ (k : CBlock) (x y : COp × List (List Nat × Val)) (v n : Nat) (out : List (Nat × Nat)) (acc : Option Nat),
     nth k.sizes v 0 = n →
     let at_ (p : COp × List (List Nat × Val)) (u : Nat) : Option Val :=
       p.2.lookup (p.1.dims.map fun d => ((out ++ [(v, u)]).lookup d.var).getD 0)
     let times (a b : Val) : Val := if (mulV a b).2 then .nan false else (mulV a b).1
     let round (w : Val) : Nat := (roundTo fp32 .rne false w).1
     let run (term : Nat → Option Val) (a : Option Nat) (g : Nat) : Option Nat :=
       match ((List.range 32).map (32 * g + ·)).filterMap fun u => if u < n then term u else none with
       | [] => a
       | l => some (round (match a with
         | none => (sumV .rne l).1
         | some b => (sumV .rne [decodeF fp32 b, (sumV .rne l).1]).1))
     let total (term : Nat → Option Val) : Nat := ((List.range ((n + 31) / 32)).foldl (run term) acc).getD 0
     contractElem k [x] [v] out acc = total (at_ x) ∧
     contractElem k [x, y] [v] out acc = total fun u => match at_ x u, at_ y u with
       | some a, some b => some (times a b)
       | _, _ => none) ∧
   ∀ (s : State) (o : SOp) (tm : Team) (tile : OutTile) (bs : List (Place × Byte)) (st : Nat) (s1 s2 : State),
     let e := s.engEnv o
     let k := cblock o.bytes
     let status : List (Place × Byte) := place st (leBytes 4 (2 ^ 31) ++ List.replicate 12 0) |>.map fun p => (.mem p.1, p.2)
     (s.eng.sops.filter (·.team == o.team)).head? = some o → o.merge = false → o.tiles = 0 → tm.uid = o.team → Clean s tm →
     k.ctr = 0 → outTiles k = [tile] → e.levelsOk k = .ok () → e.tile k tile = .ok bs →
     (∀ q ∈ s.eng.sops, q.id = o.id → q = o) →
     (∀ p b, (Place.mem p, b) ∈ bs ++ status → isPeerPa p = false) →
     s.storeBytes o.team o.core none o.dom bs = .ok s1 →
     (∃ v, (s1.setTiles o.id 1).commitLines o.team o.core none ((s1.setTiles o.id 1).heldLines o.team
       (memLines (bs.map (·.1)))) = (v, true) ∧ v.storeBytes o.team o.core none o.dom status = .ok s2 ∧
       ∀ j, j < 4 → (v.engEnv o).pa 0 (o.desc + 8 + 4 * j) Need.write = .ok (st + 4 * j)) →
     ∃ t tm', exec (.contractPerform o.team) s = .next t ∧ t.eng.sops = s.eng.sops.filter (·.id != o.id) ∧
       t.team? o.team = some tm' ∧ tm'.buf = [] ∧ tm'.restart = false ∧
       (∀ j b, (leBytes 4 (2 ^ 31) ++ List.replicate 12 0)[j]? = some b → t.mem.cells.get (st + j) = b) ∧
       ∀ a, (a < st ∨ st + 16 ≤ a) → t.mem.cells.get a = match (bs.filter fun q => q.1 == .mem a).getLast? with
         | some q => q.2
         | none => s.mem.cells.get a)

/-! ## Key regions and LAUNCH -/

/-- R309 to R313: KST starts, in ascending lane order, one operation for each lane of ACTIVE, with the region as it is then.
Its first step stores the key through the commit buffer; each Insert after it enters the token, for its bucket, in the
last block of the chain while that holds fewer than 14, else in a fresh block of the pool, and else it marks the bucket. -/
def Obligations.KeyStores : Prop :=
  (∀ (slot : BitVec 3) (a b : Src) (s : State) (i : Issue) (c : Crew) (k : KSlot) (ps : Nat → List Place) (ds : Nat → List Nat),
    let sh : Shape := ⟨none, [useA a 2, useB b]⟩
    let o := i.opn c sh
    let m := c.attr i
    Ready s i c sh (fun _ _ _ => !keySpaces.contains m.space) true →
    (isRel m.order = true → s.released c c.pipe.serial m.scope = true) →
    (∀ q ∈ c.pipe.inflight, q.cls = some .k → q.done = true) →
    (s.eng.kops.filter (·.crew == c.id)).length + (lanesOf i.act).length ≤ 256 →
    (∀ n, has i.act n = true → (c.lane n).isSome = true ∧
      s.kstChk c (c.teamOf n) slot.toNat m.space (o.fa n).toNat (o.wb n).toNat = .ok (k, ps n, ds n)) →
    ∃ e t new, exec (.kst slot a b) s = .next t ∧ t.crew? i.crew = some e ∧ Wrote c e i sh (noWrites c) ∧ t.mem = s.mem ∧
      t.eng = { s.eng with kops := s.eng.kops ++ new } ∧ new.length = (lanesOf i.act).length ∧
      ∀ (j n : Nat) (q : KOp), (lanesOf i.act)[j]? = some n → new[j]? = some q →
        q = ⟨q.id, c.id, c.teamOf n, k, (o.wb n).toNat / 2 ^ 24, (o.wb n).toNat % 2 ^ 24, ps n, ds n, [], 0, m.pdom, [],
          c.core, c.pipe.serial, if isAcq m.order ∧ j + 1 = new.length then some m.scope else none⟩) ∧
  ∀ (s : State) (k : KOp) (tm : Team) (g : Grid) (crew : Nat),
    s.eng.kops.find? (·.crew == crew) = some k → (∀ q ∈ s.eng.kops, q.id = k.id → q = k) →
    s.team? k.team = some tm → tm.uid = k.team → s.grid? tm.grid = some g → tm.audit.replay = none →
    (k.step = 0 → 0 < k.slot.nl → s.readsPoison k.team k.src = false → ∀ s1,
      s.storeBytes k.team k.core (some k.crew) k.dom
        ((k.dst.map Place.mem).zip (k.src.map (s.placeByte k.team))) = .ok s1 →
      ∃ t, exec (.kstInsert crew) s = .next t ∧ t.mem = s1.mem ∧ (t.team? k.team).map (·.buf) = (s1.team? k.team).map (·.buf) ∧
        t.eng.kops = s.eng.kops.map fun q => if q.id = k.id then { q with key := k.src.map (s.placeByte k.team), step := 1 } else q) ∧
    ∀ l hdr blocks headVa head lastVa last, k.step = l + 1 → l < k.slot.nl → s.chkVa g.ctx k.slot.bbase Need.both = .ok hdr →
      let bucket := (k.slot.signature l (k.slot.elems k.key)).1
      s.chainBlocks g.ctx k.slot (k.slot.opcnt + 1) (k.slot.headBlock k.head l bucket) = .ok blocks →
      blocks.head? = some (headVa, head) → blocks.getLast? = some (lastVa, last) →
      s.homePoison k.team (hdr :: blocks.map (·.2)) = false →
      let cnt := s.homeFld last 0x3C 2
      let free := s.homeFld hdr 4 4
      let nan := if (k.slot.signature l (k.slot.elems k.key)).2 then 1 else 0
      let writable (va : Nat) : Prop := ∃ pa, s.chkVa g.ctx va Need.both = .ok pa
      let ends (home : List (Nat × Byte)) (flags : Nat) (word : Option Nat) : Prop :=
        ∀ s1, s.storeBytes k.team k.core (some k.crew) k.dom (match word with
            | some pa => (numAt pa 4 k.tok).map fun q => (.mem q.1, q.2)
            | none => []) = .ok s1 → s1.mem = s.mem →
          ∃ t, exec (.kstInsert crew) s = .next t ∧ (t.team? k.team).map (·.buf) = (s1.team? k.team).map (·.buf) ∧
            t.eng.kops = s.eng.kops.filterMap (fun q => if q.id ≠ k.id then some q
              else if k.slot.nl = l + 1 then none else some { q with step := q.step + 1 }) ∧
            (∀ x, (x < hdr + 8 ∨ hdr + 12 ≤ x) → t.mem.cells.get x = (s.mem.cells.setAll home).get x) ∧
            leNat (t.mem.cells.read (hdr + 8) 4) = leNat ((s.mem.cells.setAll home).read (hdr + 8) 4) ||| (flags + nan)
      if s.homeFld head 0x3E 2 % 2 = 1 then ends [] 0 none
      else if cnt < 14 then writable lastVa → ends (numAt (last + 0x3C) 2 (cnt + 1)) 0 (some (last + 4 * cnt))
      else if k.slot.opcnt ≤ free then writable headVa → ends (numAt (head + 0x3E) 2 (s.homeFld head 0x3E 2 + 1)) 4 none
      else writable lastVa → ∀ pa, s.chkVa g.ctx (k.slot.poolBlock free) Need.both = .ok pa →
        ends (numAt (hdr + 4) 4 (free + 1) ++ numAt (last + 0x38) 4 (free + 1) ++ numAt (pa + 0x3C) 2 1) 0 (some pa)

/-- R308, R315 to R318, R387: KGATHER gives each lane the number of different tokens that the buckets of its query hold, writes
the first of them, ascending, to its scratchpad, and says in its predicate whether the dense path is needed, or traps there
with the query addresses. A NaN and a slot word that is no token set their bits of FLAGS. -/
def Obligations.KeyGathers : Prop :=
  (∀ (s : State) (ctx team : Nat) (k : KSlot) (probe : Bool) (h cap : Nat) (ps : List Place)
    (bs : List (List Nat × Bool × Bool)),
    let x := k.elems (ps.map (s.placeByte team))
    let sig (l : Nat) : Nat := (k.signature l x).1
    k.buckets probe x = ((List.range k.nl).flatMap fun l =>
      (l, sig l) :: if probe then (List.range k.nb).map fun j => (l, sig l ^^^ 2 ^ j) else []) ∧
    ((k.buckets probe x).length = bs.length →
      (∀ (j l g : Nat) (r : List Nat × Bool × Bool), (k.buckets probe x)[j]? = some (l, g) → bs[j]? = some r →
        s.bucket ctx team k h l g = .ok r) → (∃ hdr, s.chkVa ctx k.bbase Need.both = .ok hdr) →
      ∃ f, s.kfind ctx team k probe h cap ps = .ok f ∧ f.toks.Pairwise (· < ·) ∧
        (∀ t, t ∈ f.toks ↔ t < k.tmax ∧ t ≠ 2 ^ 32 - 1 ∧ ∃ r ∈ bs, t ∈ r.1) ∧
        (f.flags < 4 ∧ (f.flags % 2 = 1 ↔ ∃ l, l < k.nl ∧ (k.signature l x).2 = true) ∧
          (f.flags / 2 = 1 ↔ ∃ r ∈ bs, ∃ t ∈ r.1, k.tmax ≤ t ∧ t ≠ 2 ^ 32 - 1)) ∧
        (f.dense = true ↔ k.stale = true ∨ (∃ r ∈ bs, r.2.1 = true) ∨ cap < f.toks.length))) ∧
  ∀ (d : Rn) (a b : Src) (slot : BitVec 3) (p : Nat) (probe : Bool) (cap : BitVec 11),
    let sh : Shape := ⟨some (d, 1), [useA a 2, useB b]⟩
    let n := 16 * cap.toNat
    let bad (_ : State) (c : Crew) (i : Issue) : Bool := !keySpaces.contains (c.attr i).space || notTeamLocal c
    let finds (s : State) (i : Issue) (c : Crew) (o : Opn) (k : KSlot) (f : Nat → KFound) : Prop :=
      (isRel (c.attr i).order = true → s.released c c.pipe.serial (c.attr i).scope = true) ∧
      (∀ q ∈ s.eng.kops, q.crew ≠ c.id) ∧ s.kslot? c.ctx slot.toNat = some k ∧
      ∀ l, has i.act l = true → (c.lane l).isSome = true ∧ (s.team? (c.teamOf l)).isSome = true ∧ ∃ ps,
        s.kgChk c (c.teamOf l) slot.toNat (c.attr i).space (o.fa l).toNat (o.wb l).toNat n = .ok (k, ps) ∧
        s.kfind c.ctx (c.teamOf l) k probe ((o.wb l).toNat / 2 ^ 24) n ps = .ok (f l) ∧ (f l).poison = false
    (∀ (s : State) (i : Issue) (c : Crew) (k : KSlot) (f : Nat → KFound) (fb : Fallback),
      let o := i.opn c sh
      let base (l : Nat) : Nat := (o.wb l).toNat % 2 ^ 24
      Ready s i c sh bad true → finds s i c o k f →
      (fb = .pred p ∨ (fb = .trap ∧ ∀ l, has i.act l = true → (f l).dense = false)) →
      ∃ m e t, exec (.kgather d a b slot fb probe cap) s = .next t ∧ t.crew? i.crew = some e ∧ Sees c m ∧
        Wrote m e i sh { toReg sh c i fun l => BitVec.ofNat 64 (f l).toks.length with
          pred := if fb = .pred p then fun l x q => setOne p (!(f l).dense) x q else fun _ x => x.pred } ∧
        (∀ x, (∀ l, has i.act l = true → (f l).flags = 0 ∨ x < (f l).hdr + 8 ∨ (f l).hdr + 12 ≤ x) →
          t.mem.cells.get x = s.mem.cells.get x) ∧
        (∀ l, has i.act l = true → (f l).flags ≠ 0 →
          leNat (t.mem.cells.read ((f l).hdr + 8) 4) &&& (f l).flags = (f l).flags) ∧
        ∀ u tm, s.team? u = some tm → ∃ tm', t.team? u = some tm' ∧ ∀ off,
          ((∀ l, has i.act l = true → c.teamOf l = u → off < base l ∨ base l + 4 * min n (f l).toks.length ≤ off) →
            tm'.scratch.get off = tm.scratch.get off) ∧
          ∀ l j t0 r, has i.act l = true → c.teamOf l = u → ((f l).toks.take n)[j]? = some t0 → r < 4 → off = base l + 4 * j + r →
            (∀ l', has i.act l' = true → c.teamOf l' = u → l < l' →
              off < base l' ∨ base l' + 4 * min n (f l').toks.length ≤ off) →
            tm'.scratch.get off = BitVec.ofNat 8 (t0 / 256 ^ r)) ∧
    ∀ (k : KSlot) (f : Nat → KFound) (dense : LaneMask),
      Traps (.kgather d a b slot .trap probe cap) sh
        (fun s i c o => finds s i c o k f ∧ dense ≠ 0 ∧ (∀ l, has dense l = true ↔ has i.act l = true ∧ (f l).dense = true) ∧
          ∀ l, has i.act l = true → (f l).flags = 0)
        0x09 (fun _ _ _ _ => (slot.toNat, dense)) true true bad allRead
        fun i c => (c.captureAll (i.inHandler c) i.s [useA a 2]).a

/-- R341, R344 to R346: LAUNCH clears RESTART, commits what its teams have not committed, and then appends the record of each
lane of ACTIVE to the queue of its team, in ascending lane order. Stated for lanes of one team. -/
def Obligations.Launches : Prop :=
  ∀ (a : Src) (s : State) (i : Issue) (c : Crew) (u : Nat) (tm : Team) (bs : Nat → List Byte),
    let sh : Shape := ⟨none, [useA a 2]⟩
    let o := i.opn c sh
    Ready s i c sh fine true →
    (i.act = 0 → ∃ e t, exec (.launch a) s = .next t ∧ OnlyCrew s t i.crew e ∧ Wrote c e i sh (noWrites c)) ∧
    (i.act ≠ 0 → (∀ n, has i.act n = true → c.teamOf n = u ∧ (c.lane n).isSome = true) →
    tm.uid = u → s.team? u = some tm → tm.audit.replay = none → (lanesOf i.act).length ≤ 4 →
    tm.launchQ.length + (lanesOf i.act).length ≤ 4 →
    (∀ n, has i.act n = true → Block s c n 64 2 (o.fa n).toNat (bs n) ∧ recChk (bs n) = .ok ()) →
    (c.pipe.stage = 0 → Released s c .package → Clean s tm →
      ∃ k e t, exec (.launch a) s = .next t ∧ t.crew? i.crew = some e ∧ Sees c k ∧ Wrote k e i sh (noWrites c) ∧ t.mem = s.mem ∧
        t.team? u = some { tm with
          restart := false, audit := { tm.audit with excluded := true },
          launchQ := tm.launchQ ++ (lanesOf i.act).map fun n => ⟨bs n, (o.fa n).toNat, none, []⟩ }) ∧
    (c.pipe.stage = 0 → Released s c .package → tm.buf ≠ [] → (∀ k ∈ s.eng.commits, k.team ≠ u) →
      (∃ g cx, s.grid? tm.grid = some g ∧ s.ctx? g.ctx = some cx) →
      ∃ e t tm', exec (.launch a) s = .next t ∧ t.crew? i.crew = some e ∧
        e.lanes.map (Option.map (·.pc)) = c.lanes.map (Option.map (·.pc)) ∧ e.pipe.stage = 1 ∧
        e.pipe.desc = packRecs ((lanesOf i.act).map fun n => (n, bs n)) ∧ t.mem = s.mem ∧ t.team? u = some tm' ∧
        tm'.buf = [] ∧ tm'.restart = false ∧ tm'.launchQ = tm.launchQ ∧
        ∃ k ∈ t.eng.commits, k.team = u ∧ k.crew = some c.id ∧ k.lines = tm.buf) ∧
    (c.pipe.stage = 1 → c.pipe.desc = packRecs ((lanesOf i.act).map fun n => (n, bs n)) →
      (∀ k ∈ s.eng.commits, k.crew ≠ some c.id) →
      ∃ e t tm', exec (.launch a) s = .next t ∧ t.crew? i.crew = some e ∧ Wrote c e i sh (noWrites c) ∧ t.mem = s.mem ∧
        t.team? u = some tm' ∧
        tm'.launchQ = tm.launchQ ++ (lanesOf i.act).map fun n => ⟨bs n, (o.fa n).toNat, none, []⟩))

/-! ## Records and bins -/

/-- R20 to R22, R25 to R31, R39, R69: a token wait may park the lanes whose tokens are pending; when all that was issued for
an ended lane has completed, its thread exits or its record is written, with the state of the lane; a record store that
is nearly full spills; an aged record says so. -/
def Obligations.SegmentRecords : Prop :=
  ∀ (s : State),
    (∀ k c m mask, s.crew? k = some c → c.pipe.park = some (m, mask) →
      ∃ t e, exec (.tokenWaitPark k) s = .next t ∧ OnlyCrew s t k e ∧ e = { c with lanes := e.lanes, pipe := e.pipe } ∧
        e.pipe.park = none ∧ ∀ n, n < 64 → e.lane n = (c.lane n).map fun l =>
          if has m n = true ∧ l.ending = none ∧ toksMet mask l.toks = false then
            { l with ending := some ⟨l.pc, c.wb, l.run, .token mask, c.teamLocal, none, false, none⟩ }
          else l) ∧
    (∀ u idx c n l e, s.endedLane u idx = some (c, n, l, e) → s.crew? c.id = some c → c.cox = none → l.team = u → l.idx = idx →
      s.mayWrite c n l e = true → (∀ k, (s.core k).vac = none) →
      ((∃ d, exec (.recordWrite u idx) s = .next d ∧ d.mem = s.mem ∧
        (d.crew? c.id = none ∨ ∃ x, d.crew? c.id = some x ∧ x.lane n = none ∧
          ∀ j, j ≠ n → x.lane j = c.lane j) ∧
        (e.exit = true → d.recs.map (fun r => (r.team, r.idx)) = s.recs.map (fun r => (r.team, r.idx)) ∧
          ∀ tm, s.team? u = some tm → ∃ tm' q, d.team? u = some tm' ∧ tm'.chain.find? (·.idx == idx) = some q ∧
            q.exited = true) ∧
        (e.exit = false → e.departs = false → s.rec? u idx = none → ∃ r, d.rec? u idx = some r ∧ r.ctx = c.ctx ∧ r.grid = c.grid ∧
          r.width = c.width ∧ r.resume = e.resume ∧ r.wb = e.wb ∧ r.preds = l.preds ∧ r.toks = l.toks ∧ r.run = e.run ∧
          r.preoff = l.preoff ∧ r.poison = l.poison.st ∧ r.dom = l.dom ∧ r.wait = e.wait ∧ r.tl = e.tl ∧ r.cut = none ∧
          r.bin.level = 1 ∧ r.bin.hold = (if e.tl then e.fwd else none) ∧
          (match e.fwd with
            | some (.core b) => r.bin.cluster = clusterOf b ∧ r.bin.bind = if e.tl then none else some b
            | some (.cluster k) => r.bin.cluster = k ∧ r.bin.bind = none
            | some (.die p) => r.bin.cluster / 4 = p ∧ r.bin.bind = none
            | _ => r.bin.cluster = clusterOf c.core ∧ r.bin.bind = none) ∧
          (∀ tm, s.team? u = some tm → r.restartable = tm.restart) ∧
          r.live = (e.regs.getD c.regs).map fun g => (g.name, if has g.tags n then poisonWord else nth g.vals n 0))))) ∧
    (∀ cl r cx, s.storeHigh cl = true → s.spills cl = some r → s.ctx? r.ctx = some cx →
      (((s.recs.filter fun q => q.ctx == r.ctx && (q.bin.level == 2 || (q.team == r.team && q.idx == r.idx))).map
        Rec.bytes).sum ≤ cx.d.bhllc * 2 ^ 20) →
      ∃ t, exec (.boathouseSpill cl) s = .next t ∧ t = { s with recs := t.recs, clock := t.clock } ∧
        t.recs = s.recs.map fun q => if q.team = r.team ∧ q.idx = r.idx then
          { q with bin := { q.bin with level := 2, written := s.clock.nextId } } else q) ∧
    (∀ u idx, exec (.binAgeExpiry u idx) s = .next { s with recs := s.recs.map fun r =>
      if r.team = u ∧ r.idx = idx ∧ r.bin.ready = true then { r with bin := { r.bin with aged := true } } else r }) ∧
    ∀ k c, s.crew? k = some c → s.mayChange c = true → exec (.activeSetChange k) s =
      .next (s.updCrew k fun _ => { c with inSet := !c.inSet })

/-- R33 to R40, R27, R59, R356: a bin drains into a new crew on a core, its threads on lanes in ascending order with the
state of their records; a register that a thread's record does not hold is tagged in its lane. The records are gone, and
the core's snapshot is fresh. A bin that nothing takes may be forwarded to the nearest core that would.
R45 to R47: a gathered team moves to a core of its target, with its records; one that is there already stays. A record on
its way to a peer resumes here when it comes back. -/
def Obligations.BinDrains : Prop :=
  (∀ (s : State) (u idx core : Nat) (r : Rec), s.rec? u idx = some r →
     (∀ s1 rs0, s.taking r core = some (s1, rs0) → rs0 ≠ [] ∧ rs0.length ≤ r.width ∧
       (∀ q ∈ rs0, q ∈ s.recs ∧ s.drains q = true ∧ q.sameBin r = true ∧ q.bin.cluster = r.bin.cluster ∧
         q.bin.closed = r.bin.closed) ∧
       rs0.Pairwise (fun a b => s.earlier b a = false) ∧
       (r.cut = none → r.width ≤ rs0.length ∨ (rs0.head?.any (·.bin.aged)) = true ∨ r.bin.closed.isSome)) ∧
     (s.binFirst r core = false → exec (.binDrain u idx core) s = .next s) ∧
     (∀ cx g s1 rs0 q, s.drains r = true → s.binFirst r core = true → s.taking r core = some (s1, rs0) →
       s.ctx? r.ctx = some cx → s.grid? r.grid = some g → rs0.find? (·.bin.level != 1) = some q →
       exec (.binDrain u idx core) s = .next (if s.storeRoom q.bin.cluster q.bytes then
         { s.updRec q.team q.idx fun x => { x with bin := { x.bin with level := 1, written := s.clock.nextId } } with
           clock := { s.clock with nextId := s.clock.nextId + 1 } } else s)) ∧
     (∀ (cx : Ctx) (g : Grid) (s1 : State) (rs0 rs : List Rec), s.drains r = true → s.binFirst r core = true →
       s.taking r core = some (s1, rs0) → s.ctx? r.ctx = some cx → s.grid? r.grid = some g → rs = sortBy s1.byThread rs0 →
       r.cut = none → (∀ q ∈ rs0, q.bin.level = 1 ∧ q.cut = none) → s.poisonedImage rs0 = none →
       (∀ k ∈ s1.crews, k.id < s1.clock.nextId) →
       (∀ c, c.core = core → c.regs.length = ((rs.flatMap fun q => q.live.map (·.1)).eraseDups).length → c.grid = r.grid →
         c.width = r.width → c.budget = g.budgetOf r.idx → c.cox = none → c.id = s1.clock.nextId →
         c.regs.length ≤ s1.poolFree c) →
       ∃ t c, exec (.binDrain u idx core) s = .next t ∧ t.crews = s1.crews ++ [c] ∧ c.id = s1.clock.nextId ∧ c.core = core ∧
         c.ctx = r.ctx ∧ c.grid = r.grid ∧ c.width = r.width ∧ c.wb = r.wb ∧ c.teamLocal = r.tl ∧ c.cox = none ∧
         c.fpcr = cx.d.fpcr ∧ c.memdef = cx.d.memdef ∧ c.bkpten = cx.d.bkpten ∧ c.poisonEn = cx.d.poisonEn ∧
         (∀ n l, c.val (.s n) l = none) ∧ t.mem = s1.mem ∧ (t.core core).floor = s1.mem.now ∧
         (t.recs = s1.recs.filter fun q => !(rs.any fun x => x.team == q.team && x.idx == q.idx)) ∧
         ∀ i, i < r.width → match rs[i]? with
           | none => c.lane i = none
           | some q => (∃ l, c.lane i = some l ∧ l.team = q.team ∧ l.idx = q.idx ∧ l.pc = q.resume ∧ l.preds = q.preds ∧
               l.toks = q.toks ∧ l.run = q.run ∧ l.preoff = q.preoff ∧ l.dom = q.dom ∧ l.depth = 0 ∧ l.ending = none ∧
               l.poison.st = q.poison) ∧ ∀ n, i < 64 → c.val (.v n) i = q.live.lookup n) ∧
     (∀ cx, s.ctx? r.ctx = some cx → s.mayForward r = true → s.takesBin r core = true →
       s.storeTakes (s.bin r) (clusterOf core) = true → (∀ k ∈ cx.d.cores, s.takesBin r k = true → cx.d.away r.bin.cluster core ≤ cx.d.away r.bin.cluster k) →
       exec (.binForward u idx core) s = .next { s with recs := s.recs.map fun q =>
         if (∃ x ∈ s.bin r, x.team = q.team ∧ x.idx = q.idx) then
           { q with bin := { q.bin with cluster := clusterOf core } } else q })) ∧
  ((∀ (s : State) (tm : Team) (g : Grid) (f : FwdTarget), s.team? tm.uid = some tm → tm.fwdTo = some f → s.gathered tm = true →
     s.grid? tm.grid = some g → (∀ p, f ≠ .peer p) →
     let rec_ (core : Nat) (t : State) : Prop := ∀ r ∈ s.recs, s.rec? r.team r.idx = some r → ∃ q, t.rec? r.team r.idx = some q ∧
       q.resume = r.resume ∧ q.live = r.live ∧ q.bin.cluster = (if r.team = tm.uid then clusterOf core else r.bin.cluster) ∧
       (r.team = tm.uid → q.bin.hold = none ∧ q.bin.bind = none)
     let room (k : Nat) : Bool := s.storeTakes (s.recs.filter (·.team == tm.uid)) (clusterOf k)
     (tm.core ∈ f.cores → tm.holds = true → room tm.core = true → ∃ t tm', exec (.teamMove tm.uid) s = .next t ∧ t.mem = s.mem ∧
       t.team? tm.uid = some tm' ∧ tm'.fwdTo = none ∧ tm'.core = tm.core ∧ tm'.res = tm.res ∧ rec_ tm.core t) ∧
     ∀ x, (tm.core ∉ f.cores ∨ tm.holds = false) → s.chooseCore g (f.cores.filter room) = some x → x.claim = [] →
       (tm.mode ≠ .saved ∨ tm.res.imgs = []) →
       ∃ t tm', exec (.teamMove tm.uid) s = .next t ∧ t.mem = s.mem ∧ t.team? tm.uid = some tm' ∧ tm'.fwdTo = none ∧
         tm'.core = x.core ∧ tm'.mode = .placed ∧ tm'.res.tcore = x.core ∧ tm'.res.sbase = x.sbase ∧ tm'.res.tslot = x.tslot ∧
         tm'.res.rows = g.rows ∧ tm'.scratch = tm.scratch ∧ tm'.tiles = tm.tiles ∧ tm'.buf = tm.buf ∧ rec_ x.core t ∧
         ∀ c, s.crew? c.id = some c → c.cox = some tm.uid → ∃ e, t.crew? c.id = some e ∧ e.core = x.core ∧ e.lanes = c.lanes) ∧
   ∀ (s : State) (port : Nat) (r : Rec) (g : Grid) (tm : Team), s.rec? r.team r.idx = some r → r.bin.hold = some (.peer port) →
     s.grid? r.grid = some g → s.team? r.team = some tm → tm.fwdTo = none →
     ∃ t q, exec (.peerRecordArrival port r.ctx g.gid tm.index r.idx) s = .next t ∧ t.mem = s.mem ∧
       t.rec? r.team r.idx = some q ∧ q.bin.hold = none ∧ q = { r with bin := q.bin })

/-! ## Grids, teams and pre-emption -/

/-- The crew `c` holds the threads of crew `k` of a team as R349 starts them. -/
def Sys2Proof.Machine.StartedCrew (c : Crew) (g : Grid) (d : CtxDesc) (uid core k : Nat) : Prop :=
  let role := roleOfCrew g.roles k
  c.core = core ∧ c.ctx = g.ctx ∧ c.grid = g.id ∧ c.width = g.lr.width ∧ c.budget = role.budget ∧ c.wb = 0 ∧
  c.teamLocal = true ∧ c.cox = none ∧ c.regs = [] ∧ c.fpcr = d.fpcr ∧ c.memdef = d.memdef ∧
  (∀ l, c.val (.s 0) l = some (g.lr.param.truncate 32) ∧ c.val (.s 1) l = some (wordOf g.lr.param 1) ∧
    c.val (.s 2) l = some (BitVec.ofNat 32 g.addr) ∧ c.val (.s 3) l = some (BitVec.ofNat 32 (g.addr / 2 ^ 32)) ∧
    c.val (.s 4) l = none) ∧
  ∀ j, j < g.lr.width → if k * g.lr.width + j < g.lr.threads then
      ∃ l, c.lane j = some l ∧ l.team = uid ∧ l.idx = k * g.lr.width + j ∧ l.pc = role.code ∧ l.preds = 0 ∧ l.run = none ∧
        l.depth = 0 ∧ l.ending = none ∧ ∀ t ∈ l.toks, t = ⟨0, false⟩
    else c.lane j = none

/-- R341, R347, R353: admission makes a grid of the head entry of a team's queue, or of a queue slot's launch, or completes it
with the reason for which it is rejected.
R350, R352: a team with everything done begins its retirement commit, and leaves once nothing is uncommitted; a grid
whose teams have retired writes STATUS into its record, and adds 1 to its counter where it has one. -/
def Obligations.GridLives : Prop :=
  ((∀ (s : State) (tm : Team) (e : PendLaunch) (es : List PendLaunch) (g0 : Grid) (c : Ctx),
     s.team? tm.uid = some tm → tm.launchQ = e :: es → e.grid = none → s.grid? tm.grid = some g0 → s.ctx? g0.ctx = some c →
     let g := gridOf s.clock.nextId c.id e.addr (launchRecOf e.bytes) (min (launchRecOf e.bytes).prio c.d.maxprio) (some tm.uid)
       none
     (∀ roles idem cox, s.admits c g e.unres = .ok roles idem cox → ∃ t, exec (.admission (some tm.uid)) s = .next t ∧
       t.mem = s.mem ∧ t.sched.grids = s.sched.grids ++ [{ g with roles := roles, idem := idem, cox := cox }] ∧
       t.team? tm.uid = some { tm with launchQ := { e with grid := some g.id } :: es }) ∧
     ∀ r, s.admits c g e.unres = .reject r → ∃ t tm', exec (.admission (some tm.uid)) s = .next t ∧ t.mem = s.mem ∧
       t.sched.grids = s.sched.grids ++ [{ g with fin := some ⟨1, r, 2, 0⟩ }] ∧ t.team? tm.uid = some tm' ∧
       tm'.launchQ = es ∧ tm'.freed = tm.freed + 1) ∧
   ∀ (s : State) (q : Slot) (e : PendLaunch) (c : Ctx), s.hostLaunches.head? = some (q, e) → s.slot q.num = q →
     s.ctx? q.ctx = some c →
     let g := gridOf s.clock.nextId c.id e.addr (launchRecOf e.bytes) (min (launchRecOf e.bytes).prio c.d.maxprio) none
       (some q.num)
     ∀ x, (∃ roles idem cox, s.admits c g e.unres = .ok roles idem cox ∧ x = { g with roles := roles, idem := idem, cox := cox }) ∨
         (∃ r, s.admits c g e.unres = .reject r ∧ x = { g with fin := some ⟨1, r, 2, 0⟩ }) →
       ∃ t, exec (.admission none) s = .next t ∧ t.sched.grids = s.sched.grids ++ [x] ∧ (t.slot q.num).launch = none ∧
         (t.slot q.num).owed = q.owed ++ [g.id] ∧ (t.slot q.num).cur = []) ∧
  ((∀ (s : State) (tm : Team) (g : Grid), s.team? tm.uid = some tm → s.grid? tm.grid = some g → g.shadow = none →
     s.allDone tm = true → (∀ k ∈ s.eng.commits, k.team ≠ tm.uid) →
     (tm.buf ≠ [] → (s.ctx? g.ctx).isSome = true → ∃ t tm', exec (.teamRetire tm.uid) s = .next t ∧ t.mem = s.mem ∧
       t.team? tm.uid = some tm' ∧ tm'.buf = [] ∧ ∃ k ∈ t.eng.commits, k.team = tm.uid ∧ k.lines = tm.buf ∧ k.crew = none ∧
         k.die = dieOf tm.core) ∧
     (tm.buf = [] → ∃ t g', exec (.teamRetire tm.uid) s = .next t ∧ t.mem = s.mem ∧ t.team? tm.uid = none ∧
       t.grid? g.id = some g' ∧ g'.retired = g.retired + if tm.home = none then 1 else 0)) ∧
   ∀ (s : State) (g : Grid) (f : EndStatus) (st : Option (List Nat)) (ctr : Option (List Nat)), s.grid? g.id = some g →
     (g.fin = some f ∧ f.kind ≠ 4) ∨ (g.fin = none ∧ g.next = g.stop ∧ g.retired = g.stop ∧ f = ⟨0, 0, 0, 0⟩) →
     g.shadow = none → (∀ k ∈ s.eng.commits, k.grid ≠ g.id) → (∀ r ∈ s.sched.replays, r.grid ≠ g.id) →
     s.endWord g (g.addr + 0x3C) = .inr st → (if g.lr.ctr = 0 then ctr = none else s.endWord g g.lr.ctr = .inr ctr) →
     let put (m : Mem) (p : Option (List Nat)) (v : Mem → List Nat → Nat) : Mem := match p with
       | some pas => m.setAll (pas.zip (leBytes 4 (v m pas)))
       | none => m
     ∃ t, exec (.gridComplete g.id) s = .next t ∧ t.grid? g.id = none ∧
       t.mem.cells = put (put s.mem.cells st fun _ _ =>
         2 ^ 31 + f.kind * 2 ^ 28 + f.reason * 2 ^ 16 + f.grade * 2 ^ 13 + f.cause % 2 ^ 13) ctr
         fun m pas => leNat (pas.map m.get) + 1)

/-- R15, R349, R354, R365 to R367: a placed team takes its resources and starts all its threads at its roles' code; a team that
consumes an error is rolled back, or its grid ends where RESTART is clear; a relaunched team starts afresh. Stated for
teams outside a set of more than one team. -/
def Obligations.TeamStarts : Prop :=
  let runs (t : State) (g : Grid) (d : CtxDesc) (uid : Nat) (f : Fit) : Prop :=
    (∃ tm, t.team? uid = some tm ∧ tm.grid = g.id ∧ tm.core = f.core ∧ tm.mode = .placed ∧ tm.restart = true ∧
      tm.res.rows = g.rows ∧ tm.res.sbase = f.sbase ∧ tm.res.tslot = f.tslot ∧ tm.res.ssize = g.lr.scrBytes ∧
      tm.scratch = [] ∧ tm.buf = [] ∧ tm.tiles = [] ∧ tm.windows = List.replicate 8 none ∧ tm.err = none) ∧
    ∀ k, k * g.lr.width < g.lr.threads → ∃ c ∈ t.crews, StartedCrew c g d uid f.core k
  (∀ (s : State) (g : Grid) (c : Ctx) (cl : Nat) (f : Fit), s.placeOrder.head? = some g → s.grid? g.id = some g →
    s.ctx? g.ctx = some c → g.setOf g.next = none → g.batch = 1 → s.placeFor c.d g 1 = some (cl, [f]) → f.claim = [] →
    0 < g.lr.width → (∀ x ∈ s.sched.teams, x.uid < s.clock.nextId) →
    ∃ t g', exec .teamPlace s = .next t ∧ t.mem = s.mem ∧ runs t g c.d s.clock.nextId f ∧
      (t.team? s.clock.nextId).map (·.index) = some g.next ∧ t.grid? g.id = some g' ∧ g'.next = g.next + 1) ∧
  ∀ (s : State) (tm : Team) (g : Grid), s.team? tm.uid = some tm → s.grid? tm.grid = some g → g.setOf tm.index = none →
    g.shadow = none →
    (tm.mode ≠ .rolled → s.drainsTo [tm] = false →
      (tm.restart = true → tm.rollbacks < 3 → ∃ t tm', exec (.eccConsumed (.team tm.uid)) s = .next t ∧ t.mem = s.mem ∧
        t.team? tm.uid = some tm' ∧ tm'.mode = .rolled ∧ tm'.err = some 0x0C ∧ tm'.rollbacks = tm.rollbacks + 1 ∧
        tm'.buf = [] ∧ tm'.scratch = [] ∧ tm'.tiles = [] ∧ (∀ r ∈ t.recs, r.team ≠ tm.uid) ∧
        ∀ c ∈ t.crews, c.cox ≠ some tm.uid ∧ ∀ n l, c.lane n = some l → l.team ≠ tm.uid) ∧
      (g.fin = none → tm.launchQ = [] → (tm.restart = false ∨ 3 ≤ tm.rollbacks) → ∃ t g', exec (.eccConsumed (.team tm.uid)) s = .next t ∧
        t.grid? g.id = some g' ∧ g'.fin = some ⟨2, 0, if tm.restart then 2 else 3, 0x0C⟩ ∧ t.team? tm.uid = none)) ∧
    ∀ (c : Ctx) (cl : Nat) (f : Fit), s.ctx? g.ctx = some c → c.suspended = false → c.dying = false →
      (s.sched.teams.find? fun t => t.grid == g.id && t.index == tm.index && t.mode == .rolled) = some tm → g.id = tm.grid →
      s.relaunchPlace c.d g 1 (clusterOf tm.core) = some (cl, [f]) → f.claim = [] → 0 < g.lr.width →
      ∃ t, exec (.teamRelaunch g.id tm.index) s = .next t ∧ t.mem = s.mem ∧ runs t g c.d tm.uid f ∧
        (t.team? tm.uid).map (·.rollbacks) = some tm.rollbacks

/-- R194 to R196, R357 to R362: a pre-emption request closes the cores it names that its context may use, with the other cores of
the team sets on them, those granted earlier among them; system software can withdraw it; at the end of the grace a crew that
may be cut becomes records, one for each lane; a deferral ends at its limit; a vacant core returns its rows and goes to a request, or
reopens. -/
def Obligations.Preemptions : Prop :=
  (∀ (s : State) (who : Requester) (prio : Nat),
    (∀ want, (∀ id, want ≠ .withdraw id) → (∀ q ∈ s.sched.requests, q.id ≠ s.clock.nextId) →
      ∃ t q, exec (.preemptRequest who prio want) s = .next t ∧ t.mem = s.mem ∧ t.crews = s.crews ∧
        q ∈ t.sched.requests ∧ q.id = s.clock.nextId ∧ q.who = who ∧ q.prio = prio ∧
        (∀ n cls, want = .count n cls → q.want = want ∧ q.need = n) ∧
        ∀ cs, want = .cores cs → ∃ ks : List Nat, q.want = .cores ks ∧ q.need = ks.length ∧ ks.Nodup ∧
          (∀ k, k ∈ ks ↔ ∃ j ∈ cs, s.chip.dieOn (dieOf j) = true ∧ k ∈ s.group j ∧
            ∀ x, who = .ctx x → ∃ cx, s.ctx? x = some cx ∧ s.usable cx j = true) ∧
          ∀ k, (k ∈ ks → (∀ v, (s.core k).vac = some v → v.vacant = true) →
              (t.core k).vac = some ⟨q.id, false, false, false, none⟩) ∧
            (k ∉ ks ∨ (∃ v, (s.core k).vac = some v ∧ v.vacant = false) → (t.core k).vac = (s.core k).vac)) ∧
    ∀ id, (∀ q ∈ s.sched.requests, q.id = id → q.cause = .software) →
      (∀ k ∈ s.chip.cores, ∀ v, k.vac = some v → v.granted ≠ some id) →
      ∃ t, exec (.preemptRequest who prio (.withdraw id)) s = .next t ∧ t.mem = s.mem ∧ t.crews = s.crews ∧
        ∀ q ∈ t.sched.requests, q.id ≠ id) ∧
  (∀ (s : State) (core : Nat) (c : Crew) (g : Grid), s.crew? c.id = some c → s.crews.filter (·.core == core) = [c] →
    s.grid? c.grid = some g → g.idem = [] → c.depth = 0 → c.cutReady = true → s.cutFits c = true →
    (∀ n l m k, c.lane n = some l → c.lane m = some k → (l.team, l.idx) = (k.team, k.idx) → n = m) →
    (∀ n l, c.lane n = some l → s.rec? l.team l.idx = none ∧ ∃ tm, s.team? l.team = some tm ∧ tm.grid = c.grid) →
    (∀ o ∈ c.pipe.inflight, o.done = true) → (s.core core).num = core →
    let cut (t : State) : Prop := t.crew? c.id = none ∧ t.mem = s.mem ∧ ∀ n l, n < c.lanes.length → c.lane n = some l →
      ∃ r x, t.rec? l.team l.idx = some r ∧ r.resume = l.pc ∧ r.wb = c.wb ∧ r.preds = l.preds ∧ r.toks = l.toks ∧ r.run = l.run ∧
        r.live = (c.regs.map fun q => (q.name, if has q.tags n then poisonWord else nth q.vals n 0)) ∧ r.cut = some x ∧
        x.lane = n ∧ x.depth = 0 ∧ x.bkpten = c.bkpten ∧ x.poisonEn = c.poisonEn ∧ r.wait = .cut x.serial
    let pre : Prop := ∃ n l, has c.elig n = true ∧ c.lane n = some l ∧ l.preoff = true
    (∀ v, (s.core core).vac = some v → v.vacant = false →
      (¬ pre → ∃ t, exec (.graceExpiry core) s = .next t ∧ cut t) ∧
      (pre → c.pipe.cut.preoffOver = false → exec (.graceExpiry core) s =
        .next (s.updCore core fun k => { k with vac := some { v with graceOver := true } })) ∧
      (v.graceOver = true → pre → (∀ q ∈ s.sched.requests, ∀ cl, q.cause ≠ .test cl) →
        ∃ t, exec (.preoffLimitExpiry c.id) s = .next t ∧ cut t))) ∧
  (∀ (s : State) (c : Crew), s.crew? c.id = some c → (s.core c.core).vac.any (·.graceOver) = true →
    (∀ d ∈ s.crews, d.core = c.core → d.cutReady = false) →
    exec (.maskedDeferExpiry c.id) s = .next (s.updCrew c.id fun _ =>
      { c with pipe := { c.pipe with cut := { c.pipe.cut with maskedOver := true } } })) ∧
  ∀ (s : State) (core : Nat) (v : Vacate), (s.core core).vac = some v → v.vacant = false → (s.core core).num = core →
    (∀ c ∈ s.crews, c.core ≠ core) → s.sched.teams.Pairwise (fun a b => a.uid ≠ b.uid) →
    let left (t : State) : Prop := t.mem = s.mem ∧ (∀ tm ∈ s.sched.teams, tm.core = core → tm.mode = .placed →
      ∃ tm', t.team? tm.uid = some tm' ∧ (tm'.mode = .vacated ∨ tm'.mode = .restarted) ∧ tm'.res.rows = 0) ∧
      ∀ x ∈ t.sched.grants, x.2.1 ≠ core
    (s.sched.requests = [] → ∃ t, exec (.coreVacant core) s = .next t ∧ left t ∧ (t.core core).vac = none) ∧
    ∀ q cs, s.sched.requests = [q] → q.who = .device → q.cause = .withdraw → q.want = .cores cs → core ∈ cs → 0 < q.need →
      q.find = 0 → s.chip.dieOn (dieOf core) = true →
      ∃ t, exec (.coreVacant core) s = .next t ∧ left t ∧
        (t.core core).vac = some { v with vacant := true, granted := some q.id } ∧
        t.sched.requests = [{ q with need := q.need - 1 }]

/-! ## Memory steps, errors and service -/

/-- R218 to R221: a copy that completes stores its bytes where its team sees them, or combines its word at the home of the
word, and takes one from the count of its token; the lane's later loads of the words do not miss them (R220). A copy from a
poisoned line is an uncorrectable error that its team consumes, and one from a peer's page asks the peer first (R363, R406).
R324, R330, R336, R406: a commit whose peers have all acknowledged it enters the histories at one instant, which its team's
threads see from then on; its lines for host pages reach the host later. R328: a copy of a phase number takes the number. -/
def Obligations.CopiesAndCommits : Prop :=
  (∀ (s : State) (k : Copy), s.eng.copies.find? (·.id == k.id) = some k → s.copyHeld k = false → s.answered (.copy k.id) = true →
    let src : List Place := k.src.filterMap id
    let dst : List Place := k.dst.filterMap id
    let mine (c : Crew) (l : Lane) : Prop := match k.idx with
      | none => c.cox = some k.team
      | some i => c.cox = none ∧ l.team = k.team ∧ l.idx = i
    let short : Bool := k.dst.any Option.isNone || k.src.any Option.isNone
    let landed (t : State) : Prop := t.eng.copies = s.eng.copies.filter (·.id != k.id) ∧
      ∀ c n l, s.crew? c.id = some c → c.lane n = some l → ∃ e x, t.crew? c.id = some e ∧ e.lane n = some x ∧ x.pc = l.pc ∧
        (¬ mine c l → x.toks = l.toks) ∧
        (mine c l → x.toks = l.toks.set k.tok ⟨(nth l.toks k.tok ⟨0, false⟩).count - 1,
            (nth l.toks k.tok ⟨0, false⟩).err || short⟩ ∧
          ∀ a, .mem a ∈ dst → if k.rd = .none then a / 4 * 4 ∈ x.wrote else x.seen.lookup (a / 4 * 4) = some t.mem.now)
    (s.readsPoison k.team src = true → k.asked ≠ 0 ∨ (memBytes src).any isPeerPa = false → (memBytes dst).any isPeerPa = false →
      exec (.copyComplete k.id) s = .next { s with agenda := .eccConsumed (.team k.team) :: s.agenda }) ∧
    (k.asked = 0 → (memBytes src).any isPeerPa = true → ∃ t, exec (.copyComplete k.id) s = .next t ∧ t.mem = s.mem ∧
      t.crews = s.crews ∧ t.answered (.copy k.id) = false ∧ ∀ a ∈ memBytes src, isPeerPa a = true →
        ∃ x ∈ (t.port (peerPort a)).unacked, x.what = .copy k.id ∧ x.body = .load (peerCtx a) (peerVa (lineOf a)) 128) ∧
    ((memBytes src).any isPeerPa = false → s.readsPoison k.team src = false →
      (∀ s1, k.rd = .none → (s.team? k.team).isSome → (∀ x o, .scr x o ∈ dst → (s.team? x).isSome) →
        let puts : List (Place × Byte) := (k.dst.zip k.src).filterMap fun p => match p with
          | (some d, some r) => some (d, s.placeByte k.team r)
          | _ => none
        s.storeBytes k.team k.core (some k.crew) k.dom puts = .ok s1 →
        ∃ t, exec (.copyComplete k.id) s = .next t ∧ landed t ∧ t.mem = s1.mem ∧
          (∀ u, (t.team? u).map (fun x => (x.buf, x.scratch)) = (s1.team? u).map fun x => (x.buf, x.scratch)) ∧
          (t.mem = s.mem → s.isReplay k.team = false →
            ∀ p, p ≠ .void → t.placeByte k.team p = match (puts.filter fun q => q.1 == p).getLast? with
              | some q => q.2
              | none => s.placeByte k.team p) ∧
          ∀ a, t.mem.cells.get a = s.mem.cells.get a ∨ .mem a ∈ puts.map (·.1) ∨
            ∃ tm l, s.team? k.team = some tm ∧ l ∈ tm.buf ∧ a ∈ l.bytes.map (·.1)) ∧
      ∀ (pa : Nat) (from_ : List Place) (tm : Team), k.rd ≠ .none →
        k.dst = (List.range 4).map (fun i => some (.mem (pa + i))) → k.src = from_.map some → from_.length = 4 →
        (memBytes dst).any isPeerPa = false → s.homePoison k.team (memBytes dst) = false →
        s.team? k.team = some tm → tm.audit.replay = none →
        let old := leNat (s.mem.cells.read pa 4)
        let v := leNat (from_.map (s.placeByte k.team))
        let int (x : Nat) : Int := if 2 ^ 31 ≤ x then (x : Int) - 2 ^ 32 else x
        ∃ t r, exec (.copyComplete k.id) s = .next t ∧ landed t ∧ leNat (t.mem.cells.read pa 4) = r ∧
          (k.rd = .add → k.ty ≠ .f32 → r = (old + v) % 2 ^ 32) ∧
          (k.rd = .add → k.ty = .f32 → r = ((add32 ⟨.rne, false, false⟩ (BitVec.ofNat 32 old) (BitVec.ofNat 32 v)).1.truncate 32 : Word).toNat) ∧
          (k.rd = .and → r = old &&& v) ∧ (k.rd = .or → r = old ||| v) ∧
          (k.rd = .min → k.ty = .n32 → r = min old v) ∧ (k.rd = .max → k.ty = .n32 → r = max old v) ∧
          (k.rd = .min → k.ty = .i32 → int r = min (int old) (int v)) ∧
          (k.rd = .max → k.ty = .i32 → int r = max (int old) (int v)) ∧
          ∀ a, (a < pa ∨ pa + 4 ≤ a) → t.mem.cells.get a = s.mem.cells.get a)) ∧
  (∀ (s : State) (k : Commit), s.eng.commits.find? (·.id == k.id) = some k →
    let bs : List (Nat × Byte) := k.lines.flatMap (·.bytes)
    (k.unacked ≠ [] → exec (.commitComplete k.id) s = .next s) ∧
    (k.unacked = [] → k.keep = false → (∀ tm, s.team? k.team = some tm → tm.audit.replay = none) →
      ∃ t, exec (.commitComplete k.id) s = .next t ∧ t.eng.commits = s.eng.commits.filter (·.id != k.id) ∧
        t.mem.cells = s.mem.cells.setAll bs ∧ (bs ≠ [] → t.mem.now = s.mem.now + 1 ∧
          ∀ a, t.mem.bad a = true ↔ ∃ p ∈ s.mem.poison, p.1 = lineOf a ∧ ∃ x ∈ p.2, x ∉ bs.map (·.1)) ∧
        ((∃ l ∈ k.lines, isHostPa l.addr = true) → ∃ id, t.eng.hostDue = s.eng.hostDue ++ [(id, k.crew)]) ∧
        ((∀ l ∈ k.lines, isHostPa l.addr = false) → t.eng.hostDue = s.eng.hostDue) ∧
        ∀ c n l w, (s.team? k.team).isSome → s.crew? c.id = some c → c.lane n = some l → l.team = k.team → w ∈ l.wrote →
          (∃ p ∈ bs, p.1 / 4 * 4 = w) →
          ∃ e x, t.crew? c.id = some e ∧ e.lane n = some x ∧ x.seen.lookup w = some t.mem.now ∧ w ∉ x.wrote)) ∧
  (∀ (s : State) (id : Nat), (∀ k ∈ s.eng.commits, k.id ≠ id) → (∃ x ∈ s.eng.hostDue, x.1 = id) →
    ∃ t, exec (.commitComplete id) s = .next t ∧ t.mem = s.mem ∧
      t.eng = { s.eng with hostDue := s.eng.hostDue.filter (·.1 != id) }) ∧
  ∀ (s : State) (ctx dom die : Nat) (cx : Ctx), s.ctx? ctx = some cx → ∃ t, exec (.phaseCopyUpdate ctx dom die) s = .next t ∧
    t.mem = s.mem ∧ t.ctx? ctx = some { cx with
      pnCopy := cx.pnCopy.set die ((nth cx.pnCopy die []).set dom (nth cx.pn dom 0)) }

/-- R201 to R208, R276, R279, R320, R368, R371, R379, R380, R382, R403: what an error costs; a second retired bank of a group
withdraws the core; a poisoned line keeps its mark; an error in a context's descriptor suspends the context; a failed Cox
withdraws its cluster and rolls back the teams that it served; the states of a cluster's test; the governor's grant; and the
turns of the run list.
R376 to R378: the decision of the Umpire on a sample whose run is over: the runs agree by their signatures and the sample
is over; a third run that agrees with the first shows the second at fault, and its cluster is drained; one that agrees
with the second shows the first at fault, and the grid completes with AUDIT_MISMATCH. -/
def Obligations.ErrorsAndService : Prop :=
  (∀ (s : State),
     (∀ core, (s.core core).stale ≠ [] → ∃ t, exec (.scratchParityUpdate core) s = .next t ∧ t.mem = s.mem ∧
       (t.core core).stale = (s.core core).stale.drop 1) ∧
     (s.health.counts.length = 8 → ∀ ins, (∃ core off, ins = .scratchError core off .correctable) ∨
         (∃ la, ins = .llcError la .correctable) → ∃ t, exec ins s = .next t ∧ t = { s with health := t.health } ∧
       nth t.health.counts 0 0 = nth s.health.counts 0 0 + 1 ∧ nth t.health.counts 1 0 = nth s.health.counts 1 0 + 1) ∧
     (∀ core off b kind, (∃ team, (kind = .data team ∧ b = bits off 3 5) ∨ (kind = .parity ∧ b = 32 + bits off 5 3) ∨
         ∃ k : BitVec 3, kind = .uncovered team k ∧ b = if k.toNat < 4 then 4 * bits off 5 3 + k.toNat else 32 + bits off 5 3) →
       b ∉ (s.core core).banks →
       let same (x : Nat) : Prop := (if x < 32 then x / 4 else x - 32) = if b < 32 then b / 4 else b - 32
       ((∀ x ∈ (s.core core).banks, ¬ same x) → (∀ team k, kind ≠ .uncovered team k) →
         ∃ t, exec (.scratchError core off kind) s = .next t ∧ t.mem = s.mem ∧
         t.sched = s.sched ∧ (t.core core).banks = (s.core core).banks ++ [b] ∧
         (t.core core).withdrawn = (s.core core).withdrawn) ∧
       ((∃ x ∈ (s.core core).banks, same x) → ∃ t, exec (.scratchError core off kind) s = .next t ∧ t.mem = s.mem ∧
         (t.core core).withdrawn = true ∧ ∀ team, kind ≠ .parity →
           (kind = .data team ∨ ∃ k, kind = .uncovered team k) → ∀ tm g, s.team? team = some tm → s.grid? tm.grid = some g →
             g.fin = none → ∀ tm', t.team? team = some tm' → tm'.mode = .rolled)) ∧
     (∀ la, ∃ t, exec (.llcError la .committed) s = .next t ∧ t.mem.cells = s.mem.cells ∧ t.crews = s.crews ∧
       ∀ a, t.mem.bad a = true ↔ s.mem.bad a = true ∨ a / 128 = la / 128) ∧
     (∀ ctx cx, s.ctx? ctx = some cx → ∃ t, exec (.eccConsumed (.context ctx)) s = .next t ∧ t.mem = s.mem ∧
       (∃ x, t.ctx? ctx = some { cx with suspended := true, reserved := x }) ∧
       ((∀ tm ∈ s.sched.teams, tm.launchQ = []) → ∀ g, s.grid? g.id = some g → g.ctx = ctx → g.fin = none → g.shadow = none →
         ∃ g', t.grid? g.id = some g' ∧ g'.fin = some ⟨3, 0, 4, 0x0C⟩)) ∧
     (∀ cl, ∃ t, exec (.coxFailure cl) s = .next t ∧ (t.cluster cl).st = .withdrawn ∧ t.mem = s.mem ∧
       ∀ tm ∈ s.sched.teams, tm.holds = true → clusterOf tm.core = cl → (∃ g, s.grid? tm.grid = some g ∧ g.cox.isSome ∧ g.fin = none) →
         ∀ tm', t.team? tm.uid = some tm' → tm'.mode = .rolled) ∧
     (∀ die, die ∉ s.eng.deadUnits → ∃ t, exec (.keyUnitFailure die) s = .next t ∧ t.mem = s.mem ∧ t.crews = s.crews ∧
       t.eng = { s.eng with deadUnits := s.eng.deadUnits ++ [die] } ∧ t.health.service = true ∧
       t.health.svc.getLsbD 3 = true) ∧
     (∀ cl grant, ∃ t, exec (.powerGovernorStep cl grant) s = .next t ∧
       t = { s with chip := t.chip, health := { s.health with seq := s.health.seq + 2 } } ∧
       t.cluster cl = { s.cluster cl with cur := min (s.cluster cl).fmax grant.toNat }) ∧
     (∀ cl, let k := s.cluster cl
       let int := s.dev.relctl.toNat / 2 ^ 24
       (k.st = .inService → int ≠ 0 → int ≤ k.sinceTest → s.chip.dieOn (cl / 4) = true → ∃ t, exec (.iftDue cl) s = .next t ∧ t.mem = s.mem ∧
         (t.cluster cl).st = .testDue ∧ (t.cluster cl).dueFor = 0 ∧
         ∀ c, c ∈ clusterCores cl → (s.core c).withdrawn = false → (t.core c).vac ≠ none) ∧
       (k.st = .testDue → 8 ≤ k.dueFor → s.clusterVacant cl = false → ∃ t, exec (.iftOverdue cl) s = .next t ∧ t.mem = s.mem ∧
         (t.cluster cl).st = .overdue) ∧
       ∀ (drift : BitVec 12), (k.st = .testDue ∨ k.st = .overdue) → s.clusterVacant cl = true →
         driftSteps s.dev.agectl drift.toNat + bits s.dev.agectl.toNat 24 8 ≤ 0x54 →
         (∃ t, exec (.iftRun cl true drift) s = .next t ∧ (t.cluster cl).st = .inService ∧ (t.cluster cl).sinceTest = 0 ∧
           (t.cluster cl).drift = drift.toNat) ∧
         ∃ t, exec (.iftRun cl false drift) s = .next t ∧ (t.cluster cl).st = .withdrawn ∧ t.health.service = true) ∧
     (∀ c cs, s.host.turnSeen.filter s.runList.contains = c :: cs → ∃ t, exec .runlistTurn s = .next t ∧
       t = { s with host := t.host } ∧ t.host.turn = some c ∧ t.host.turnSeen = cs) ∧
     (s.host.turnSeen.filter s.runList.contains = [] → s.host.turn ≠ none → ∃ t, exec .runlistTurn s = .next t ∧
       t.mem = s.mem ∧ t.health.rot = s.health.rot + 1 ∧
       ∀ cl, s.chip.dieOn (cl / 4) = true → cl < 32 → (t.cluster cl).sinceTest = (s.cluster cl).sinceTest + 1)) ∧
  (∀ (s : State) (r : Replay) (g : Grid), s.sched.replays.find? (·.id == r.id) = some r → s.runDead r = false →
     s.runOver r = true → s.grid? r.grid = some g → g.fin = none → g.shadow = none → r.id ≠ r.grid →
     (∀ h ∈ s.sched.grids, h.shadow ≠ some r.id) → (∀ t ∈ s.sched.teams, t.launchQ = []) →
     let run := (s.runTeams r).map (·.audit.log)
     let agree (a b : List (List Host.Cell)) : Prop := a.map signature = b.map signature
     (r.sp = none → agree r.so run → s.health.counts.length = 8 → ∃ t, exec (.umpireDecide r.id) s = .next t ∧ t.mem = s.mem ∧
       t.sched.replays = s.sched.replays.filter (·.id != r.id) ∧ t.grid? r.id = none ∧
       nth t.health.counts 4 0 = nth s.health.counts 4 0 + 1) ∧
     ∀ sp cl1, r.sp = some sp → r.cl1 = some cl1 →
       (agree run r.so → (s.cluster cl1).st ≠ .withdrawn → ∃ t, exec (.umpireDecide r.id) s = .next t ∧ t.mem = s.mem ∧
         (t.cluster cl1).st = .drained ∧ t.sched.replays = s.sched.replays.filter (·.id != r.id)) ∧
       (¬ agree run r.so → agree run sp → (s.cluster r.cl0).st ≠ .withdrawn → ∃ t g', exec (.umpireDecide r.id) s = .next t ∧
         t.mem = s.mem ∧ (t.cluster r.cl0).st = .drained ∧ t.grid? r.grid = some g' ∧ g'.fin = some ⟨2, 0, 4, 0x14⟩))

/-! ## The host interface -/

/-- R391, R394 to R398, R401, R402, R404, R409: what each command of the admin ring does before its packet completes, and with
which status; the completion writes CPL, signals the packet's vector, and moves the ring on. -/
def Obligations.AdminCommands : Prop :=
  ∀ (s : State),
    let ends (ins : Instr) (code : Nat) (post : State → Prop) : Prop := ∃ t, exec ins s = .next (t.admDone code) ∧ post t
    let same (t : State) : Prop := t = s
    (∀ (t : State) code, t.host.admCur ≠ [] → code < 2 ^ 63 → (t.admDone code).host.admCur = [] ∧
      (t.admDone code).host.admNext = t.host.admNext + 1 ∧
      (t.admDone code).host.msix = (if (fld t.host.admCur 1 1).testBit 0 then t.host.msix ++ [fld t.host.admCur 2 2] else t.host.msix) ∧
      (t.host.admPend = [] → (t.admDone code).dev.admrptr = t.host.admNext + 1) ∧
      leNat ((t.admDone code).mem.cells.read (t.admAddr t.host.admNext + 0x38) 8) = 2 ^ 63 + code) ∧
    (∀ ctx, s.ctx? ctx = none → ∀ ins, ins ∈ [Instr.ctxDestroy ctx, .ctxSuspend ctx, .ctxResume ctx] ∨
      (∃ team port, ins = .migrate ctx team port) ∨ (∃ slot base, ins = .queueMap slot ctx base) → ends ins 4 same) ∧
    (∀ desc ctx, let b := s.mem.cells.read (hostAddr desc) 128
      (desc % 64 ≠ 0 → ends (.ctxCreate desc ctx) 1 same) ∧
      (desc % 64 = 0 → (s.health.ddrain = true ∨ s.ctx? ctx ≠ none) → ends (.ctxCreate desc ctx) 3 same) ∧
      (desc % 64 = 0 → s.health.ddrain = false → s.ctx? ctx = none → s.descBad b = true → ends (.ctxCreate desc ctx) 2 same) ∧
      (desc % 64 = 0 → s.health.ddrain = false → s.ctx? ctx = none → s.descBad b = false →
        (∃ p ∈ s.host.pasids, p.1 = fld b 8 4 % 2 ^ 20) → ends (.ctxCreate desc ctx) 3 same) ∧
      (desc % 64 = 0 → s.health.ddrain = false → s.ctx? ctx = none → s.descBad b = false →
        (∀ p ∈ s.host.pasids, p.1 ≠ fld b 8 4 % 2 ^ 20) →
        ends (.ctxCreate desc ctx) 0 fun t => t.mem = s.mem ∧ t.crews = s.crews ∧
          t.host.pasids = s.host.pasids ++ [(fld b 8 4 % 2 ^ 20, false)] ∧ ∃ cx, t.ctx? ctx = some cx ∧ cx.id = ctx ∧
            cx.d.ptroot = fld b 0 8 ∧ cx.d.pasid = fld b 8 4 % 2 ^ 20 ∧ cx.d.tenant = fld b 8 4 / 2 ^ 20 % 16 ∧
            cx.d.maxprio = fld b 8 4 / 2 ^ 24 % 16 ∧ cx.d.memdef.toNat = fld b 0x24 4 ∧ cx.d.fpcr.toNat = fld b 0x28 4 ∧
            cx.d.trapvec = fld b 0x30 8 ∧ cx.d.emuvec = fld b 0x38 8 ∧ cx.d.bhsize = fld b 0x18 8 ∧
            cx.suspended = false ∧ cx.keys = [] ∧ (∀ d, nth cx.pn d 0 = 0) ∧ ∀ die d, cx.pnAt die d = 0)) ∧
    (∀ ctx cx, s.ctx? ctx = some cx →
      (cx.dying = false → s.nothingLeft ctx = true → (∀ q ∈ s.host.slots, q.launch = none) →
        ends (.ctxDestroy ctx) 0 fun t => t.ctx? ctx = none ∧ (s.host.admPend = [] → t.mem = s.mem)) ∧
      (∀ g, cx.dying = false → s.grid? g.id = some g → g.ctx = ctx → g.fin = none → g.shadow = none →
        ∃ t g' x, exec (.ctxDestroy ctx) s = .next t ∧ t.mem = s.mem ∧ t.ctx? ctx = some { cx with dying := true, keys := [], reserved := x } ∧
          t.grid? g.id = some g' ∧ ∃ y, g'.fin = some ⟨4, 0, y, 0⟩) ∧
      (s.still ctx = true → (∀ q ∈ s.sched.requests, q.cause ≠ .suspend ctx) →
        ends (.ctxSuspend ctx) 0 fun t => t.ctx? ctx = some { cx with suspended := true } ∧ t.mem = s.mem) ∧
      (s.still ctx = false → (∀ q ∈ s.sched.requests, q.cause ≠ .suspend ctx) → ∃ t, exec (.ctxSuspend ctx) s = .next t ∧
        t.ctx? ctx = some { cx with suspended := true } ∧ t.host = s.host ∧
        ∀ c ∈ s.crews, c.ctx = ctx → s.chip.dieOn (dieOf c.core) = true → (t.core c.core).vac ≠ none) ∧
      (ends (.ctxResume ctx) 0 fun t => t.ctx? ctx = some { cx with suspended := false } ∧ t.mem = s.mem) ∧
      (∀ slot base, ((s.slot slot).qctl.getLsbD 31 = true → ends (.queueMap slot ctx base) 3 same) ∧
        ((s.slot slot).qctl.getLsbD 31 = false → ctx < 256 → ends (.queueMap slot ctx base) 0 fun t => t.mem = s.mem ∧
          (t.slot slot).base = base ∧ (t.slot slot).qctl.toNat = 2 ^ 31 + ctx * 2 ^ 16 + (s.slot slot).qctl.toNat % 2 ^ 5 ∧
          (t.slot slot).wptr = 0 ∧ (t.slot slot).rptr = 0)) ∧
      ∀ team port tm, s.teamOfCtx ctx team = some tm → s.movers tm = [tm] → s.team? tm.uid = some tm →
        (¬ (port ≤ 11 ∧ s.bound ctx port = true) → ends (.migrate ctx team port) 1 same) ∧
        (port ≤ 11 → s.bound ctx port = true → tm.fwdTo = none → ends (.migrate ctx team port) 0 fun t =>
          t.team? tm.uid = some { tm with fwdTo := some (.peer port) } ∧ t.mem = s.mem)) ∧
    (∀ pasid, s.host.admCur ≠ [] → (pasid, false) ∈ s.host.pasids →
      ∃ t, exec (.pasidClose pasid) s = .next t ∧ t.host.admCur = [] ∧ t.host.admNext = s.host.admNext + 1 ∧
        (s.pasidIdle pasid = true → ∀ p ∈ t.host.pasids, p.1 ≠ pasid) ∧
        (s.pasidIdle pasid = false → (pasid, true) ∈ t.host.pasids ∧ (s.host.admNext, pasid) ∈ t.host.admPend)) ∧
    (∀ fid u, ((∀ f ∈ s.host.faults, f.stage ≠ .written fid) → ends (.faultDone fid u) 4 same) ∧
      ∀ f, (s.host.faults.find? fun f => f.stage == .written fid) = some f → ends (.faultDone fid u) 0 fun t =>
        t.mem = s.mem ∧ f ∉ t.host.faults ∧ (∀ r, s.rec? r.team r.idx = some r → r.wait = .fault f.key →
          r.bin.hold = none → (∀ h ∈ s.host.faults, h.key = f.key → h = f) →
          ∃ q, t.rec? r.team r.idx = some q ∧ q.bin.ready = true ∧ (u = true → f.key ∈ q.unres))) ∧
    (∀ u, ends (.drain .device u) 0 fun t =>
      t = { s with health := { s.health with ddrain := !u, seq := s.health.seq + 2 } }) ∧
    (∀ n, n < 16 → ends (.drain (.tenant n) false) 0 fun t => t = { s with health := t.health } ∧ n ∈ t.health.tdrain) ∧
    (∀ n, n < 16 → ends (.drain (.tenant n) true) 0 fun t => t = { s with health := t.health } ∧ n ∉ t.health.tdrain) ∧
    (∀ c, c < 32 → s.chip.dieOn (c / 4) = true → (s.cluster c).st ≠ .withdrawn →
      (ends (.drain (.cluster c) false) 0 fun t => (t.cluster c).st = .drained ∧ t.mem = s.mem) ∧
      ((s.cluster c).st = .drained → ends (.drain (.cluster c) true) 0 fun t => (t.cluster c).st = .inService ∧ t.mem = s.mem)) ∧
    (∀ n block, n < 16 → let b := s.mem.cells.read (hostAddr block) 144
      ((∃ c ∈ s.ctxs, c.d.tenant = n) → ends (.tenantSet n block) 3 same) ∧
      ((∀ c ∈ s.ctxs, c.d.tenant ≠ n) → s.tenantBad (tenantOf n b) b = true → ends (.tenantSet n block) 1 same) ∧
      ((∀ c ∈ s.ctxs, c.d.tenant ≠ n) → s.tenantBad (tenantOf n b) b = false → ends (.tenantSet n block) 0 fun t =>
        t.mem = s.mem ∧ ∃ x, t.tenant? n = some x ∧ x.clmask.toNat = fld b 0 4 ∧ x.msix.toNat = fld b 4 4 ∧
          ∀ w, w ∈ x.wins ↔ ∃ i, i < 8 ∧ w = (fld b (0x10 + 16 * i) 8, fld b (0x18 + 16 * i) 8) ∧ w.2 ≠ 0)) ∧
    (let left : Prop := (∃ k ∈ s.chip.cores, k.withdrawn = true) ∨ (∃ k ∈ s.chip.clusters, k.st = .withdrawn) ∨ s.eng.deadUnits ≠ [];
      (left → ends .svcClear 3 same) ∧
      (¬ left → ends .svcClear 0 fun t =>
        t = { s with health := { s.health with service := false, svc := 0, seq := s.health.seq + 2 } })) ∧
    ∀ addr len, let img := s.mem.cells.read (hostAddr addr) len
      (s.health.recovery = false → ends (.bitload addr len) 1 same) ∧
      (s.health.recovery = true → Config.imageOk img = false → ends (.bitload addr len) 2 same) ∧
      (s.health.recovery = true → Config.imageOk img = true → ∃ t, exec (.bitload addr len) s = .next t ∧
        t.host.image = img ∧ t.health.recovery = false ∧ t.crews = [] ∧ t.ctxs = [])

/-- R124, R206, R207, R401, R404: a warm start ends all work and keeps memory, unless a tenant was defined since the last; a
cold start also starts the device's registers, counters and banks anew, and clears the memory of the package. -/
def Obligations.Starts : Prop :=
  ∀ (s : State),
    let gone (t : State) : Prop := t.agenda = [] ∧ t.cur = none ∧ t.ctxs = [] ∧ t.crews = [] ∧ t.recs = [] ∧ t.sched.grids = [] ∧ t.sched.teams = [] ∧
      t.clock.start = s.clock.time ∧ t.host.slots = [] ∧ t.host.faults = [] ∧ t.dev.admwptr = 0 ∧ t.dev.admrptr = 0 ∧
      t.dev.fltwptr = 0 ∧ t.chip.ports = [] ∧ t.eng.commits = [] ∧ t.eng.drains = []
    (∃ t, exec .devctlWarm s = .next t ∧ gone t ∧ t.host.tenantSet = false ∧ t.eng.deadUnits = s.eng.deadUnits ∧
      t.dev.agectl = s.dev.agectl ∧ t.dev.relctl = s.dev.relctl ∧ t.host.image = s.host.image ∧
      (s.host.tenantSet = false → t.mem = s.mem) ∧
      (s.host.tenantSet = true → ∀ a, t.mem.cells.get a = if hostBase ≤ a then s.mem.cells.get a else 0) ∧
      t.health.recovery = (s.host.digest != some s.host.image && !Config.imageOk s.host.image) ∧
      ∀ c, c < 256 → (t.core c).banks = (s.core c).banks ∧ (t.core c).withdrawn = (s.core c).withdrawn ∧
        (t.core c).vac = none ∧ (t.core c).floor = 0) ∧
    ∀ failed, ∃ t, exec (.coldStart failed) s = .next t ∧ gone t ∧ t.dev = DevRegs.reset ∧ t.eng.deadUnits = [] ∧
      t.host.image = s.host.image ∧ t.host.tenants = [] ∧ t.health.recovery = !Config.imageOk s.host.image ∧ t.mem.hist = [] ∧
      t.mem.poison = [] ∧ (∀ a, t.mem.cells.get a = if hostBase ≤ a then s.mem.cells.get a else 0) ∧
      ∀ c, c < 256 → s.chip.dieOn (dieOf c) = true → (∀ b, b ∈ (t.core c).banks ↔ b < 40 ∧ (c, b) ∈ failed) ∧
        let group (b : Nat) : Nat := if b < 32 then b / 4 else b - 32
        ((t.core c).withdrawn = true ↔ ∃ a b, a < b ∧ b < 40 ∧ (c, a) ∈ failed ∧ (c, b) ∈ failed ∧ group a = group b)

/-- R397, R399: the packets of a user queue: LAUNCH hands its record to admission, WAITCTR completes when the counter has
reached the value, SIGNAL adds at the home of the word; a packet that completes moves its queue on.
R370, R371, R375, R390, R391, R399, R409, R410: what a write of each register of the BAR stores, bit by bit. -/
def Obligations.QueuesAndRegisters : Prop :=
  (∀ (s : State) (slot : Nat) (pas : List Nat),
     (∀ code, (s.slot slot).cur ≠ [] → ((s.userDone slot code).slot slot).cur = [] ∧
       ((s.userDone slot code).slot slot).rptr = (s.slot slot).rptr + 1) ∧
     (∀ addr, (s.slot slot).launch = none → s.reach slot addr 64 64 Need.read = .ok pas →
       (recChk (pas.map s.mem.cells.get) = .ok () → ∃ t, exec (.queueLaunch slot addr) s = .next t ∧
         t = { s with host := t.host } ∧ t.slot slot = { s.slot slot with launch := some ⟨pas.map s.mem.cells.get, addr, none, []⟩ }) ∧
       (∀ code arg, recChk (pas.map s.mem.cells.get) = .trap code arg →
         exec (.queueLaunch slot addr) s = .next (s.userDone slot 1))) ∧
     (∀ addr (v : Word), s.reach slot addr 4 4 Need.read = .ok pas →
       (v.toNat ≤ leNat (pas.map s.mem.cells.get) → exec (.waitctr slot addr v) s = .next (s.userDone slot 0)) ∧
       (leNat (pas.map s.mem.cells.get) < v.toNat → exec (.waitctr slot addr v) s = .next s)) ∧
     ∀ addr (v : Word), s.reach slot addr 4 4 Need.both = .ok pas → pas ≠ [] → ∃ t : State, exec (.signal slot addr v) s =
         .next (t.userDone slot 0) ∧ t.host.slots = s.host.slots ∧
       t.mem.cells = s.mem.cells.setAll (pas.zip (leBytes 4 (leNat (pas.map s.mem.cells.get) + v.toNat)))) ∧
  (∀ (s : State) (v : Word) (w : DWord) (b : Bool),
     let far (top : Nat) (ctl wp rp : Word) : Bool :=
       let l := ctl.toNat % 32
       decide (2 ^ (if 4 ≤ l ∧ l ≤ top then l else 4) < (wp - rp).toNat)
     let dev (ins : Instr) (post : State → Prop) : Prop := ∃ t, exec ins s = .next t ∧ t = { s with dev := t.dev } ∧ post t
     dev (.admwptrWrite v) (fun t => t.dev.admwptr = v ∧ ∀ n, n < 32 → t.dev.admctl.getLsbD n =
       (s.dev.admctl.getLsbD n || (n == 30 && far 12 s.dev.admctl v s.dev.admrptr))) ∧
     (∀ n, n < 64 → (∃ t, exec (.queueDoorbell n v) s = .next t ∧ t = { s with host := t.host } ∧ (t.slot n).wptr = v ∧
         (t.slot n).rptr = (s.slot n).rptr ∧ ∀ k, k < 32 → (t.slot n).qctl.getLsbD k =
           ((s.slot n).qctl.getLsbD k || (k == 30 && far 16 (s.slot n).qctl v (s.slot n).rptr))) ∧
       ∃ t, exec (.qctlWrite n v) s = .next t ∧ t = { s with host := t.host } ∧ (t.slot n).base = (s.slot n).base ∧
         ∀ k, k < 32 → (t.slot n).qctl.getLsbD k = if k < 5 then v.getLsbD k
           else if k = 30 then ((s.slot n).qctl.getLsbD k && !v.getLsbD k) ||
             (far 16 v (s.slot n).wptr (s.slot n).rptr && !far 16 (s.slot n).qctl (s.slot n).wptr (s.slot n).rptr)
           else (s.slot n).qctl.getLsbD k) ∧
     dev (.admctlWrite v) (fun t => ∀ n, n < 32 → t.dev.admctl.getLsbD n = if n < 5 ∨ n = 31 then v.getLsbD n
       else if n = 30 then (s.dev.admctl.getLsbD n && !v.getLsbD n) ||
         (far 12 v s.dev.admwptr s.dev.admrptr && !far 12 s.dev.admctl s.dev.admwptr s.dev.admrptr)
       else s.dev.admctl.getLsbD n) ∧
     dev (.fltctlWrite v) (fun t => ∀ n, n < 32 → t.dev.fltctl.getLsbD n =
       (v.getLsbD n && (decide (n < 5) || (decide (16 ≤ n) && decide (n < 27)) || n == 31))) ∧
     dev (.fltrptrWrite v) (fun t => t.dev.fltrptr = v) ∧
     dev (.devctlAge b) (fun t => t.dev.devctl.getLsbD 3 = b ∧
       if b then t.dev.agectl = 0x300C8032 else bits t.dev.agectl.toNat 12 12 = 0xFFF ∧
         bits t.dev.agectl.toNat 0 12 = bits s.dev.agectl.toNat 0 12 ∧ bits t.dev.agectl.toNat 24 8 = bits s.dev.agectl.toNat 24 8) ∧
     dev (.devctlIft b) (fun t => t.dev.devctl.getLsbD 2 = b ∧ t.dev.relctl.toNat / 2 ^ 24 = (if b then 0x40 else 0) ∧
       t.dev.relctl.toNat % 2 ^ 24 = s.dev.relctl.toNat % 2 ^ 24) ∧
     dev (.devctlUmp b) (fun t => t.dev.devctl.getLsbD 1 = b ∧ t.dev.relctl.getLsbD 16 = b ∧
       (b = true → t.dev.relctl.toNat % 32 = 4) ∧ t.dev.relctl.toNat / 2 ^ 24 = s.dev.relctl.toNat / 2 ^ 24) ∧
     (∃ t, exec (.devctlDrain b) s = .next t ∧ t = { s with dev := t.dev, health := t.health } ∧
       t.dev.devctl.getLsbD 0 = b ∧ t.health.ddrain = b) ∧
     dev (.registerWrite .agectl w) (fun t => t.dev.agectl = w.truncate 32) ∧
     dev (.registerWrite .relctl w) (fun t => t.dev.relctl.toNat % 32 = min (w.toNat % 32) 16 ∧
       (∀ n, n < 32 → (n = 16 ∨ 24 ≤ n) → t.dev.relctl.getLsbD n = w.getLsbD n) ∧
       ∀ n, 5 ≤ n → n < 24 → n ≠ 16 → t.dev.relctl.getLsbD n = false) ∧
     dev (.registerWrite .admbase w) (fun t => t.dev.admbase = w) ∧ dev (.registerWrite .fltbase w) (fun t => t.dev.fltbase = w) ∧
     ∀ k, k < 256 → s.chip.dieOn (dieOf k) = true → ∃ t, exec (.registerWrite (.segctl k) w) s = .next t ∧
       t = { s with chip := t.chip } ∧ t.core k = { s.core k with segctl := w.truncate 32 &&& 0xFFFF0FFF })

/-- R22, R389, R391, R393, R394: a fault gets a record in the ring; the host's answers resolve faults or leave them
unresolvable; R321, R336: a write of the host enters the histories at one instant. R405 to R407: a flit is taken once and in
order; a transfer that fails too often loses the port, and its grids end with LINK_LOSS. -/
def Obligations.HostAndPeers : Prop :=
  ∀ (s : State),
    (∀ f, (s.host.faults.find? (·.stage == .ring)) = some f → s.host.faults.length < 2 ^ 32 → s.dev.fltctl.getLsbD 31 = true →
      (let l := s.dev.fltctl.toNat % 32
       (s.dev.fltwptr - s.dev.fltrptr).toNat < 2 ^ (if 4 ≤ l ∧ l ≤ 16 then l else 4)) →
      let a := hostAddr (s.dev.fltbase.toNat + 32 * (s.dev.fltwptr.toNat % 2 ^ ringLog s.dev.fltctl 16))
      ∃ t fid, exec .faultRecordWrite s = .next t ∧ fid < 2 ^ 32 ∧ (∀ g ∈ s.host.faults, g.stage ≠ .written fid) ∧ t.dev = { s.dev with fltwptr := s.dev.fltwptr + 1 } ∧
        leNat (t.mem.cells.read a 8) = f.va % 2 ^ 64 ∧ leNat (t.mem.cells.read (a + 8) 1) = f.key.ctx % 256 ∧
        leNat (t.mem.cells.read (a + 9) 1) = (if f.key.write then 1 else 0) + (if f.key.fetch then 2 else 0) ∧
        leNat (t.mem.cells.read (a + 12) 4) = fid ∧ { f with stage := .written fid } ∈ t.host.faults ∧
        t.host.msix = if s.dev.fltwptr = s.dev.fltrptr then s.host.msix ++ [bits s.dev.fltctl.toNat 16 11] else s.host.msix) ∧
    (∀ pasid page, s.closing pasid = false →
      (∀ f, s.hostFaults pasid page .ats = [f] →
        (∃ t, exec (.atsTranslationResponse pasid page .absent) s = .next t ∧ t = { s with host := t.host } ∧
          t.host.faults = s.host.faults.map fun h => if h = f then { h with stage := .pri } else h) ∧
        ∀ hpa r w x, ∃ t, exec (.atsTranslationResponse pasid page (.mapped hpa r w x)) s = .next t ∧ t.mem = s.mem ∧
          (pasid, page, hpa, r, w, x) ∈ t.host.ats ∧ f ∉ t.host.faults) ∧
      (∀ f ok, s.hostFaults pasid page .pri = [f] → ∃ t, exec (.priResponse pasid page ok) s = .next t ∧ t.mem = s.mem ∧
        t.host.faults = s.host.faults.filter (· != f) ∧
        ∀ c n l, s.crew? c.id = some c → c.ctx = f.key.ctx → c.lane n = some l → l.faultOn = some f.key →
          ∃ e x, t.crew? c.id = some e ∧ e.lane n = some x ∧ x.unres = if ok then l.unres else f.key :: l.unres) ∧
      exec (.atsInvalidation pasid page) s = .next { s with
        host := { s.host with ats := s.host.ats.filter fun t => !(t.1 == pasid && t.2.1 == page) } }) ∧
    (∀ port, nth s.health.hostUp port false = true → ∃ t, exec (.hostPortDown port) s = .next t ∧
      t = { s with health := t.health } ∧ nth t.health.hostUp port true = false) ∧
    (∀ hpa bytes, bytes ≠ [] → ∃ t, exec (.hostPageWrite hpa bytes) s = .next t ∧
      t.mem.cells = s.mem.cells.setAll (place (hostAddr hpa) bytes) ∧ t.mem.now = s.mem.now + 1 ∧ t.dev = s.dev ∧ t.ctxs = s.ctxs) ∧
    ∀ port, port < 12 → (s.port port).lost = false →
      (∀ seq body, seq ≠ (s.port port).rxSeq → exec (.peerFlitReceive port seq body) s = .next s) ∧
      (∀ body (t : State) ack, s.peerDeliver port (s.port port).rxSeq body = .yes t ack →
        ∃ u, exec (.peerFlitReceive port (s.port port).rxSeq body) s = .next u ∧ u = { t with chip := u.chip } ∧
          (u.port port).rxSeq = (t.port port).rxSeq + 1 ∧ (u.port port).unacked = (t.port port).unacked ∧
          (u.port port).acks = (t.port port).acks ++ (ack.map fun p => ⟨(s.port port).rxSeq, p.1, p.2⟩).toList) ∧
      (∀ ctx cx va n pa, s.ctx? ctx = some cx → s.translateRange cx va Need.read n = .inr pa →
        s.peerDeliver port (s.port port).rxSeq (.load ctx va n) = .yes s (some (true,
          (List.range n).map fun i => (va + i, s.mem.cells.get (nth pa i 0))))) ∧
      (∀ ctx cx va pa (op : PeerOp) (w64 : Bool) (v : DWord), s.ctx? ctx = some cx →
        let n := if w64 then 8 else 4
        s.translateRange cx va Need.both n = .inr pa →
        let old := leNat (pa.map s.mem.cells.get)
        let x := v.toNat % 2 ^ (8 * n)
        ∃ t new, s.peerDeliver port (s.port port).rxSeq (.atomic ctx va op w64 v) = .yes t (some (true,
            (List.range n).map fun i => (va + i, s.mem.cells.get (nth pa i 0)))) ∧
          t.mem.cells = s.mem.cells.setAll (pa.zip (leBytes n new)) ∧ t.mem.now = s.mem.now + 1 ∧
          (∀ r, op = .red r → new = redValue r (8 * n) x old) ∧ (op = .exch → new = x) ∧
          (∀ cmp, op = .cas cmp → new = if old = cmp.toNat % 2 ^ (8 * n) then x else old) ∧
          ∀ ty, op = .copy .add ty → ty ≠ .f32 → w64 = false → new % 2 ^ 32 = (old + x) % 2 ^ 32) ∧
      (∀ ctx cx tags (cells : List Host.Cell) (pa : Nat → Nat), s.ctx? ctx = some cx → cells ≠ [] →
        (∀ c ∈ cells, s.translate cx c.1 Need.write = .ok (pa c.1)) →
        ∃ t, s.peerDeliver port (s.port port).rxSeq (.stores ctx tags cells) = .yes t (some (true, [])) ∧
          t.mem.cells = s.mem.cells.setAll (cells.map fun c => (pa c.1, c.2)) ∧ t.mem.now = s.mem.now + 1) ∧
      (∀ u ok cells, (s.port port).unacked.find? (·.seq == u.seq) = some u →
        ∃ t, s.peerDeliver port (s.port port).rxSeq (.ack u.seq ok cells) = .yes t none ∧
          (t.port port).unacked = (s.port port).unacked.filter (·.seq != u.seq) ∧
          (∀ id k, u.what = .commit id → k ∈ s.eng.commits → k.id = id →
            { k with unacked := k.unacked.filter (· != port) } ∈ t.eng.commits) ∧
          (∀ ctx va n, u.body = .load ctx va n → ∀ i b, i < n → (va + i, b) ∈ cells → (cells.map (·.1)).Nodup →
            t.mem.cells.get (peerAddr ctx port (va + i)) = b)) ∧
      (∀ u, (s.port port).unacked.find? (·.seq == u.seq) = some u → u.tries < 16 →
        ∃ t, exec (.peerRetryTimeout port u.seq) s = .next t ∧ t = { s with chip := t.chip } ∧
          (t.port port).unacked.find? (·.seq == u.seq) = some { u with tries := u.tries + 1 }) ∧
      ∀ ins, (ins = .peerPortLoss port ∨ ∃ u, ins = .peerRetryTimeout port u.seq ∧
          (s.port port).unacked.find? (·.seq == u.seq) = some u ∧ 16 ≤ u.tries) → (∀ t ∈ s.sched.teams, t.launchQ = []) →
        ∃ t, exec ins s = .next t ∧ t.mem = s.mem ∧ (t.port port).lost = true ∧ (t.port port).unacked = [] ∧
          ∀ g, s.grid? g.id = some g → g.fin = none → g.shadow = none →
            let due : Prop := ∃ k ∈ s.eng.commits, k.grid = g.id ∧ port ∈ k.unacked
            (due → ∃ g', t.grid? g.id = some g' ∧ g'.fin = some ⟨2, 0, 3, 0x13⟩) ∧
            (¬ due → (∃ u ∈ (s.port port).unacked, u.grid = some g.id) →
              ∃ g', t.grid? g.id = some g' ∧ g'.fin = some ⟨2, 0, 2, 0x13⟩) ∧
            (¬ due → (∀ u ∈ (s.port port).unacked, u.grid ≠ some g.id) → (∀ d ∈ s.eng.drains, d.grid = g.id → d.port ≠ some port) →
              (∀ tm ∈ s.sched.teams, tm.grid = g.id → ∀ a ∈ tm.away, a.2 ≠ port) → t.grid? g.id = some g)

/-! ## Operands, decoding and the step -/

/-- R53, R55, R59, R60, R64: what an operand field reads in a lane of ACTIVE: zero, the lane's number, the literal, or the
word of the register, and the poison value where it is tagged; 64-bit operands by pairs; inside the window of a
completed long-latency write, what its register held before. A tagged read sets POISONST, and traps POISON before the
instruction takes effect where TRAPMASK enables it. -/
def Obligations.OperandReads : Prop :=
  (∀ (c : Crew) (h : Bool) (act : LaneMask) (x y z : Src) (f64 : Bool) (lane : Nat), lane < c.width →
    has act lane = true → (∀ o ∈ c.pipe.inflight, o.done = false) →
    let word (r : Rn) (k : Nat) : Word :=
      match nameOf c.wb h r with
      | .zr => 0
      | .lid => if k = 0 then BitVec.ofNat 32 lane else 0
      | .lit w => w
      | nm => (c.val (nm.plus k) lane).getD 0x7FA5A5A5
    let tagged (r : Rn) : Bool :=
      match nameOf c.wb h r with
      | .zr | .lid | .lit _ => false
      | nm => (c.val nm lane).isNone
    let o := c.captureAll h act [useA x, useB y, useC z]
    o.wa lane = word x.r 0 ∧ o.wb lane = word y.r 0 ∧ o.wc lane = word z.r 0 ∧
    c.taggedField h [useA x, useB y, useC z] lane = (([x.r, y.r, z.r].find? tagged).map Rn.code) ∧
    (c.captureAll h act [useA x 2 f64]).fa lane =
      match nameOf c.wb h x.r with
      | .lit w => if f64 then BitVec.ofNat 64 (w.toNat * 2 ^ 32) else BitVec.ofInt 64 w.toInt
      | _ => BitVec.ofNat 64 ((word x.r 0).toNat + 2 ^ 32 * (word x.r 1).toNat)) ∧
  (∀ (c : Crew) (h : Bool) (act : LaneMask) (x : Src) (lane n : Nat) (o : LongOp) (prev : Option Reg), lane < c.width →
    has act lane = true → nameOf c.wb h x.r = .v n → c.pipe.inflight = [o] → o.group = [n] → o.prev = [prev] → o.done = true →
    (c.captureAll h act [useA x]).wa lane =
      if 0 < nth o.left lane 0 then (match prev with
        | some r => if has r.tags lane then 0x7FA5A5A5 else nth r.vals lane 0
        | none => 0x7FA5A5A5)
      else (c.val (.v n) lane).getD 0x7FA5A5A5) ∧
  ∀ (d : Rn) (a b : Src) (s : State) (i : Issue) (c : Crew), Checked s i c (shapeAB d a b) → i.entry = none →
    let field (n : Nat) : Option Nat := if has i.act n then c.taggedField (i.inHandler c) (shapeAB d a b).srcs n else none
    let m := maskOf fun n => (field n).isSome
    let st (l : Lane) (f : Nat) : PoisonSt := if l.poison.st then l.poison else ⟨true, true, f⟩
    m ≠ 0 →
    (c.poisonEn = false → HasRoom s i c (shapeAB d a b) false → ∃ e t, exec (.iadd d a b) s = .next t ∧ OnlyCrew s t i.crew e ∧
      (∀ n l, c.lane n = some l → n < 64 → ∃ x, e.lane n = some x ∧ x.poison = (match field n with
        | some f => st l f
        | none => l.poison)) ∧
      HoldsGroup e (nameOf c.wb (i.inHandler c) d) 1 i.act fun n =>
        BitVec.ofNat 64 (((i.opn c (shapeAB d a b)).wa n + (i.opn c (shapeAB d a b)).wb n).toNat)) ∧
    ∀ cx n l f, c.poisonEn = true → c.quiet → s.ctx? c.ctx = some cx → c.mayTrap cx i.s → lowest m = some n →
      c.lane n = some l → field n = some f → (st l f).field < 128 →
      ∃ e t q, exec (.iadd d a b) s = .next t ∧ OnlyCrew s t i.crew e ∧
        TookTrap c e i.s m c.ckpt cx.d.trapvec i.pc
          (s.gradeAt c i.s) (st l f).field 0x07 [q] ∧
        q.pc = i.pc ∧ q.w0 = i.raw.w0 ∧ q.w1 = i.raw.w1 ∧ q.lit = i.raw.lit ∧ q.part = i.act

/-- Words that the spec's worked examples write out, one or two of each family, and words of undefined codes (R50, R67,
R75 to R84): each is the instruction it stands for. -/
def Obligations.DecodeWords : Prop :=
  let r (n : Nat) : Src := ⟨.win n, false, false⟩
  decodeWords [0x00000000] = some .nop ∧
  decodeWords [0x0820203C] = some (.iadd (.win 8) ⟨.win 4, true, false⟩ ⟨.win 3, true, false⟩) ∧
  decodeWords [0x1C07EFE0, 0x00040000, 5] = some (.icmp 1 ⟨.lid, false, false⟩ ⟨.lit 5, false, false⟩ .lt false false .none) ∧
  decodeWords [0x0C07E814] = some (.iaddi (.win 1) .lid false 10) ∧
  decodeWords [0x160C0FD0, 0x00020000] = some (.idiv (.win 3) (r 1) ⟨.lid, false, false⟩ true false false 0) ∧
  decodeWords [0x283C3880, 0x132C0000] = some (.lut3 (.win 15) (r 7) (r 8) (r 9) 0x96) ∧
  decodeWords [0x542810A0, 0x00060010] = some (.cvt (.win 10) (r 2) (r 10) .e4m3 .f32 false .fpcr 1 0) ∧
  decodeWords [0x5C3050B0, 0x1A000000] = some (.fdot4 (.win 12) (r 10) (r 11) (r 13) false false .fpcr) ∧
  decodeWords [0x82100800, 0x0AC80006] = some (.shfl (.win 4) (r 1) (.imm 6) .pick .w4 (some 5)) ∧
  decodeWords [0x88080800, 0x00800000] = some (.accum (.win 2) (r 1) .addI32 false .w8) ∧
  decodeWords [0x86142000] = some (.lmaskLo (.win 5) 4) ∧
  decodeWords [0xA4101022] = some (.ld4 (.win 4) (.win 2) 2 2) ∧
  decodeWords [0xAE3C6200] = some (.st4 (.win 15) (.win 12) 32 0) ∧
  decodeWords [0xB8002020, 0x0014000A] = some (.cpy (r 4) (r 2) .b16 2 .none .i32 .scratch .global 0) ∧
  decodeWords [0xC0000000, 0x1E780000] = some (.tcfg 0 .f32 15 15) ∧
  decodeWords [0xC4001840, 0x00040000] = some (.twr 0 (r 3) false (.reg (r 4))) ∧
  decodeWords [0xEA203090, 0x06200001] = some (.kgather (.win 8) (r 6) (r 9) 0 (.pred 3) true 1) ∧
  decodeWords [0xF0000002] = some (.bra 2) ∧ decodeWords [0xF8000000, 0x00020000] = some .exit ∧
  decodeWords [0xFC080840] = some (.rpqr (.win 2) (r 1)) ∧ decodeWords [0xFC000020] = some .rte ∧
  decodeWords [0xFE040000] = some (.grd 2 false 0) ∧
  decodeWords [0xFF020100] = some (.mem ⟨.relaxed, .team, .scratch, 0, 4, false, false, 0⟩) ∧
  decodeWords [0xFF800000] = none ∧ decodeWords [0x6E000000] = none ∧ decodeWords [0x00000000, 0] = none

/-- R48 to R55, R67 to R83: every instruction that has an encoding, with every operand at every value that the encoding
admits, is read back from its words as itself. -/
def Obligations.DecodeEncode : Prop :=
  ∀ i : Instr, i.wf = true → i.encodable = true →
    decodeWords (encode i) = some i ∧ (∀ w ∈ encode i, w < 2 ^ 32) ∧
    ∀ tail, (encode i).head?.any (fun w => fOp w != 0x7F) = true → ∃ r, splitIssue [] (encode i ++ tail) = some r ∧
      r.len = (encode i).length ∧ r.decode = some ⟨none, none, i⟩

/-- R19, R48, R49, R67: where the words at the PC of the crew that issues decode to an instruction with its prefixes, a step
starts the issue and executes its first part, and each further step the next part; when the last is done, no issue is in
progress. An issue's words are fetched one by one, each translated as an instruction fetch. -/
def Obligations.StepRunsDecoded : Prop :=
  (∀ (s : State) (i : Instr) (rest : List Instr), s.agenda = i :: rest →
    step s = endOutcome (exec i { s with agenda := rest })) ∧
  (∀ (s : State) (k : Nat) (c : Crew) (cx : Ctx) (lanes : LaneMask) (pc : Nat) (yl : LaneMask) (r : RawIssue) (d : Decoded)
      (i : Instr) (rest : List Instr),
    s.agenda = [] → s.tickClock.turns = [.crew k] → s.crew? k = some c → s.ctx? c.ctx = some cx → c.pipe.reinj = [] →
    c.choose = some (lanes, pc, yl) → c.waitsTranslation lanes = false → s.tickClock.fetchFrom cx pc [] maxWords = .ok r → r.decode = some d → s.tickClock.disabled cx r = false →
    d.grd.toList ++ d.pre.toList ++ [d.instr] = i :: rest →
    ∃ cur : Issue, cur.crew = c.id ∧ cur.s = lanes ∧ cur.pc = pc ∧ cur.raw = r ∧ cur.entry = none ∧ cur.mem = none ∧ cur.mask = 0 ∧
      (d.grd = none → cur.act = c.active lanes none) ∧
      step s = endOutcome (exec i { s with
        clock := { s.clock with time := s.clock.time + 1 }, cur := some cur, agenda := rest })) ∧
  (∀ (s : State) (cx : Ctx) (pc : Nat) (ws : List Nat) (pa : Nat → Nat) (r : RawIssue), ws.length < 2 ^ 54 →
    splitIssue [] ws = some r → (∀ k, k < ws.length → splitIssue [] (ws.take k) = none) →
    (∀ k w, ws[k]? = some w → w < 2 ^ 32 ∧ s.translate cx (pc + 4 * k) Need.exec = .ok (pa k) ∧
      s.mem.cells.read (pa k) 4 = leBytes 4 w) →
    s.fetchFrom cx pc [] maxWords = .ok r) ∧
  ∀ (o : Host.Outcome State Fault Refusal), (∀ f, o = .fault f → endOutcome o = .fault f) ∧ (∀ f, o = .refused f → endOutcome o = .refused f) ∧
    ∀ t, o = .next t →
      (t.agenda ≠ [] → endOutcome o = .next t) ∧
      (t.agenda = [] → ∃ u, endOutcome o = .next u ∧ u.cur = none ∧ u = { t with cur := none, crews := u.crews } ∧
        ∀ c ∈ u.crews, ∃ e ∈ t.crews, c = e ∨ c = { e with pipe := { e.pipe with waiting := false } })

/-- The model's own invariant (log entry 6): between turns no issue is in progress. -/
def Obligations.NoIssueBetweenTurns : Prop :=
  ∀ s t : State, (s.agenda = [] → s.cur = none) → step s = .next t → t.agenda = [] → t.cur = none

/-- The model's own invariant (log entry 3): every step keeps the canonical form of memory, addresses strictly rising and
no byte listed that reads as an unlisted one. -/
def Obligations.MemoryStaysCanonical : Prop :=
  ∀ s t : State, s.mem.cells.wf = true → step s = .next t → t.mem.cells.wf = true

/-- R38, R371, R375, R390, R391, R399, R401, R404, R408, R410: right after a cold start the device's registers read as their
Reset values, memory reads zero, and there is no context, queue, tenant, grid, team, crew or record; the model's
invariants hold. -/
def Obligations.ResetState : Prop :=
  let word (off : Nat) : Nat := leNat ((List.range 4).map fun k => State.reset.barByte (off + k))
  word 0x00 = 0xC ∧ word 0x08 = 0x300C8032 ∧ word 0x0C = 0x40000000 ∧ word 0x18 = 4 ∧ word 0x1C = 0 ∧ word 0x20 = 0 ∧
  word 0x30 = 6 ∧ word 0x34 = 0 ∧ word 0x38 = 0 ∧
  (∀ q, q < 64 → word (0x108 + 16 * q) = 4) ∧
  (∀ c, c < 32 → word (0x60000 + 256 * c) = 0x54540000) ∧
  (∀ k, k < 256 → word (0x70000 + 64 * k) = 0x01000100) ∧
  word 0x10004 % 2 ^ 24 = 0x000100 ∧ word 0x10010 = 0 ∧ word 0x100E8 = 0 ∧
  (∀ a, State.reset.mem.cells.get a = 0) ∧
  State.reset.ctxs = [] ∧ State.reset.host.slots = [] ∧ State.reset.host.tenants = [] ∧ State.reset.host.pasids = [] ∧
  State.reset.sched.grids = [] ∧ State.reset.sched.teams = [] ∧ State.reset.crews = [] ∧ State.reset.recs = [] ∧
  State.reset.agenda = [] ∧ State.reset.cur = none ∧ State.reset.mem.cells.wf = true
end

