-- ==== Sys2Proof/Laws/State.lean ====
section
/-! SUPPORT. What each update of the state leaves as it is, and what the finders give after it. -/

namespace Sys2Proof.Machine

/-! ## Fields -/

@[simp] theorem State.setCrew_agenda (s : State) (c : Crew) : (s.setCrew c).agenda = s.agenda := rfl
@[simp] theorem State.setCrew_cur (s : State) (c : Crew) : (s.setCrew c).cur = s.cur := rfl
@[simp] theorem State.setCrew_clock (s : State) (c : Crew) : (s.setCrew c).clock = s.clock := rfl
@[simp] theorem State.setCrew_chip (s : State) (c : Crew) : (s.setCrew c).chip = s.chip := rfl
@[simp] theorem State.setCrew_mem (s : State) (c : Crew) : (s.setCrew c).mem = s.mem := rfl
@[simp] theorem State.setCrew_dev (s : State) (c : Crew) : (s.setCrew c).dev = s.dev := rfl
@[simp] theorem State.setCrew_health (s : State) (c : Crew) : (s.setCrew c).health = s.health := rfl
@[simp] theorem State.setCrew_host (s : State) (c : Crew) : (s.setCrew c).host = s.host := rfl
@[simp] theorem State.setCrew_ctxs (s : State) (c : Crew) : (s.setCrew c).ctxs = s.ctxs := rfl
@[simp] theorem State.setCrew_sched (s : State) (c : Crew) : (s.setCrew c).sched = s.sched := rfl
@[simp] theorem State.setCrew_recs (s : State) (c : Crew) : (s.setCrew c).recs = s.recs := rfl
@[simp] theorem State.setCrew_eng (s : State) (c : Crew) : (s.setCrew c).eng = s.eng := rfl

@[simp] theorem State.updCrew_agenda (s : State) (k : Nat) (f : Crew → Crew) : (s.updCrew k f).agenda = s.agenda := rfl
@[simp] theorem State.updCrew_cur (s : State) (k : Nat) (f : Crew → Crew) : (s.updCrew k f).cur = s.cur := rfl
@[simp] theorem State.updCrew_clock (s : State) (k : Nat) (f : Crew → Crew) : (s.updCrew k f).clock = s.clock := rfl
@[simp] theorem State.updCrew_chip (s : State) (k : Nat) (f : Crew → Crew) : (s.updCrew k f).chip = s.chip := rfl
@[simp] theorem State.updCrew_mem (s : State) (k : Nat) (f : Crew → Crew) : (s.updCrew k f).mem = s.mem := rfl
@[simp] theorem State.updCrew_dev (s : State) (k : Nat) (f : Crew → Crew) : (s.updCrew k f).dev = s.dev := rfl
@[simp] theorem State.updCrew_health (s : State) (k : Nat) (f : Crew → Crew) : (s.updCrew k f).health = s.health := rfl
@[simp] theorem State.updCrew_host (s : State) (k : Nat) (f : Crew → Crew) : (s.updCrew k f).host = s.host := rfl
@[simp] theorem State.updCrew_ctxs (s : State) (k : Nat) (f : Crew → Crew) : (s.updCrew k f).ctxs = s.ctxs := rfl
@[simp] theorem State.updCrew_sched (s : State) (k : Nat) (f : Crew → Crew) : (s.updCrew k f).sched = s.sched := rfl
@[simp] theorem State.updCrew_recs (s : State) (k : Nat) (f : Crew → Crew) : (s.updCrew k f).recs = s.recs := rfl
@[simp] theorem State.updCrew_eng (s : State) (k : Nat) (f : Crew → Crew) : (s.updCrew k f).eng = s.eng := rfl

@[simp] theorem State.updTeam_agenda (s : State) (u : Nat) (f : Team → Team) : (s.updTeam u f).agenda = s.agenda := rfl
@[simp] theorem State.updTeam_cur (s : State) (u : Nat) (f : Team → Team) : (s.updTeam u f).cur = s.cur := rfl
@[simp] theorem State.updTeam_clock (s : State) (u : Nat) (f : Team → Team) : (s.updTeam u f).clock = s.clock := rfl
@[simp] theorem State.updTeam_chip (s : State) (u : Nat) (f : Team → Team) : (s.updTeam u f).chip = s.chip := rfl
@[simp] theorem State.updTeam_mem (s : State) (u : Nat) (f : Team → Team) : (s.updTeam u f).mem = s.mem := rfl
@[simp] theorem State.updTeam_dev (s : State) (u : Nat) (f : Team → Team) : (s.updTeam u f).dev = s.dev := rfl
@[simp] theorem State.updTeam_health (s : State) (u : Nat) (f : Team → Team) : (s.updTeam u f).health = s.health := rfl
@[simp] theorem State.updTeam_host (s : State) (u : Nat) (f : Team → Team) : (s.updTeam u f).host = s.host := rfl
@[simp] theorem State.updTeam_ctxs (s : State) (u : Nat) (f : Team → Team) : (s.updTeam u f).ctxs = s.ctxs := rfl
@[simp] theorem State.updTeam_sched_grids (s : State) (u : Nat) (f : Team → Team) : (s.updTeam u f).sched.grids = s.sched.grids := rfl
@[simp] theorem State.updTeam_sched_sets (s : State) (u : Nat) (f : Team → Team) : (s.updTeam u f).sched.sets = s.sched.sets := rfl
@[simp] theorem State.updTeam_sched_requests (s : State) (u : Nat) (f : Team → Team) : (s.updTeam u f).sched.requests = s.sched.requests := rfl
@[simp] theorem State.updTeam_sched_replays (s : State) (u : Nat) (f : Team → Team) : (s.updTeam u f).sched.replays = s.sched.replays := rfl
@[simp] theorem State.updTeam_sched_grants (s : State) (u : Nat) (f : Team → Team) : (s.updTeam u f).sched.grants = s.sched.grants := rfl
@[simp] theorem State.updTeam_crews (s : State) (u : Nat) (f : Team → Team) : (s.updTeam u f).crews = s.crews := rfl
@[simp] theorem State.updTeam_recs (s : State) (u : Nat) (f : Team → Team) : (s.updTeam u f).recs = s.recs := rfl
@[simp] theorem State.updTeam_eng (s : State) (u : Nat) (f : Team → Team) : (s.updTeam u f).eng = s.eng := rfl

@[simp] theorem State.updGrid_agenda (s : State) (g : Nat) (f : Grid → Grid) : (s.updGrid g f).agenda = s.agenda := rfl
@[simp] theorem State.updGrid_cur (s : State) (g : Nat) (f : Grid → Grid) : (s.updGrid g f).cur = s.cur := rfl
@[simp] theorem State.updGrid_clock (s : State) (g : Nat) (f : Grid → Grid) : (s.updGrid g f).clock = s.clock := rfl
@[simp] theorem State.updGrid_chip (s : State) (g : Nat) (f : Grid → Grid) : (s.updGrid g f).chip = s.chip := rfl
@[simp] theorem State.updGrid_mem (s : State) (g : Nat) (f : Grid → Grid) : (s.updGrid g f).mem = s.mem := rfl
@[simp] theorem State.updGrid_dev (s : State) (g : Nat) (f : Grid → Grid) : (s.updGrid g f).dev = s.dev := rfl
@[simp] theorem State.updGrid_health (s : State) (g : Nat) (f : Grid → Grid) : (s.updGrid g f).health = s.health := rfl
@[simp] theorem State.updGrid_host (s : State) (g : Nat) (f : Grid → Grid) : (s.updGrid g f).host = s.host := rfl
@[simp] theorem State.updGrid_ctxs (s : State) (g : Nat) (f : Grid → Grid) : (s.updGrid g f).ctxs = s.ctxs := rfl
@[simp] theorem State.updGrid_sched_teams (s : State) (g : Nat) (f : Grid → Grid) : (s.updGrid g f).sched.teams = s.sched.teams := rfl
@[simp] theorem State.updGrid_sched_sets (s : State) (g : Nat) (f : Grid → Grid) : (s.updGrid g f).sched.sets = s.sched.sets := rfl
@[simp] theorem State.updGrid_sched_requests (s : State) (g : Nat) (f : Grid → Grid) : (s.updGrid g f).sched.requests = s.sched.requests := rfl
@[simp] theorem State.updGrid_sched_replays (s : State) (g : Nat) (f : Grid → Grid) : (s.updGrid g f).sched.replays = s.sched.replays := rfl
@[simp] theorem State.updGrid_sched_grants (s : State) (g : Nat) (f : Grid → Grid) : (s.updGrid g f).sched.grants = s.sched.grants := rfl
@[simp] theorem State.updGrid_crews (s : State) (g : Nat) (f : Grid → Grid) : (s.updGrid g f).crews = s.crews := rfl
@[simp] theorem State.updGrid_recs (s : State) (g : Nat) (f : Grid → Grid) : (s.updGrid g f).recs = s.recs := rfl
@[simp] theorem State.updGrid_eng (s : State) (g : Nat) (f : Grid → Grid) : (s.updGrid g f).eng = s.eng := rfl

@[simp] theorem State.updCtx_agenda (s : State) (k : Nat) (f : Ctx → Ctx) : (s.updCtx k f).agenda = s.agenda := rfl
@[simp] theorem State.updCtx_cur (s : State) (k : Nat) (f : Ctx → Ctx) : (s.updCtx k f).cur = s.cur := rfl
@[simp] theorem State.updCtx_clock (s : State) (k : Nat) (f : Ctx → Ctx) : (s.updCtx k f).clock = s.clock := rfl
@[simp] theorem State.updCtx_chip (s : State) (k : Nat) (f : Ctx → Ctx) : (s.updCtx k f).chip = s.chip := rfl
@[simp] theorem State.updCtx_mem (s : State) (k : Nat) (f : Ctx → Ctx) : (s.updCtx k f).mem = s.mem := rfl
@[simp] theorem State.updCtx_dev (s : State) (k : Nat) (f : Ctx → Ctx) : (s.updCtx k f).dev = s.dev := rfl
@[simp] theorem State.updCtx_health (s : State) (k : Nat) (f : Ctx → Ctx) : (s.updCtx k f).health = s.health := rfl
@[simp] theorem State.updCtx_host (s : State) (k : Nat) (f : Ctx → Ctx) : (s.updCtx k f).host = s.host := rfl
@[simp] theorem State.updCtx_sched (s : State) (k : Nat) (f : Ctx → Ctx) : (s.updCtx k f).sched = s.sched := rfl
@[simp] theorem State.updCtx_crews (s : State) (k : Nat) (f : Ctx → Ctx) : (s.updCtx k f).crews = s.crews := rfl
@[simp] theorem State.updCtx_recs (s : State) (k : Nat) (f : Ctx → Ctx) : (s.updCtx k f).recs = s.recs := rfl
@[simp] theorem State.updCtx_eng (s : State) (k : Nat) (f : Ctx → Ctx) : (s.updCtx k f).eng = s.eng := rfl

@[simp] theorem State.updRec_agenda (s : State) (t i : Nat) (f : Rec → Rec) : (s.updRec t i f).agenda = s.agenda := rfl
@[simp] theorem State.updRec_cur (s : State) (t i : Nat) (f : Rec → Rec) : (s.updRec t i f).cur = s.cur := rfl
@[simp] theorem State.updRec_clock (s : State) (t i : Nat) (f : Rec → Rec) : (s.updRec t i f).clock = s.clock := rfl
@[simp] theorem State.updRec_chip (s : State) (t i : Nat) (f : Rec → Rec) : (s.updRec t i f).chip = s.chip := rfl
@[simp] theorem State.updRec_mem (s : State) (t i : Nat) (f : Rec → Rec) : (s.updRec t i f).mem = s.mem := rfl
@[simp] theorem State.updRec_dev (s : State) (t i : Nat) (f : Rec → Rec) : (s.updRec t i f).dev = s.dev := rfl
@[simp] theorem State.updRec_health (s : State) (t i : Nat) (f : Rec → Rec) : (s.updRec t i f).health = s.health := rfl
@[simp] theorem State.updRec_host (s : State) (t i : Nat) (f : Rec → Rec) : (s.updRec t i f).host = s.host := rfl
@[simp] theorem State.updRec_ctxs (s : State) (t i : Nat) (f : Rec → Rec) : (s.updRec t i f).ctxs = s.ctxs := rfl
@[simp] theorem State.updRec_sched (s : State) (t i : Nat) (f : Rec → Rec) : (s.updRec t i f).sched = s.sched := rfl
@[simp] theorem State.updRec_crews (s : State) (t i : Nat) (f : Rec → Rec) : (s.updRec t i f).crews = s.crews := rfl
@[simp] theorem State.updRec_eng (s : State) (t i : Nat) (f : Rec → Rec) : (s.updRec t i f).eng = s.eng := rfl

@[simp] theorem State.updSet_agenda (s : State) (g k : Nat) (f : TeamSet → TeamSet) : (s.updSet g k f).agenda = s.agenda := rfl
@[simp] theorem State.updSet_cur (s : State) (g k : Nat) (f : TeamSet → TeamSet) : (s.updSet g k f).cur = s.cur := rfl
@[simp] theorem State.updSet_clock (s : State) (g k : Nat) (f : TeamSet → TeamSet) : (s.updSet g k f).clock = s.clock := rfl
@[simp] theorem State.updSet_chip (s : State) (g k : Nat) (f : TeamSet → TeamSet) : (s.updSet g k f).chip = s.chip := rfl
@[simp] theorem State.updSet_mem (s : State) (g k : Nat) (f : TeamSet → TeamSet) : (s.updSet g k f).mem = s.mem := rfl
@[simp] theorem State.updSet_dev (s : State) (g k : Nat) (f : TeamSet → TeamSet) : (s.updSet g k f).dev = s.dev := rfl
@[simp] theorem State.updSet_health (s : State) (g k : Nat) (f : TeamSet → TeamSet) : (s.updSet g k f).health = s.health := rfl
@[simp] theorem State.updSet_host (s : State) (g k : Nat) (f : TeamSet → TeamSet) : (s.updSet g k f).host = s.host := rfl
@[simp] theorem State.updSet_ctxs (s : State) (g k : Nat) (f : TeamSet → TeamSet) : (s.updSet g k f).ctxs = s.ctxs := rfl
@[simp] theorem State.updSet_sched_grids (s : State) (g k : Nat) (f : TeamSet → TeamSet) : (s.updSet g k f).sched.grids = s.sched.grids := rfl
@[simp] theorem State.updSet_sched_teams (s : State) (g k : Nat) (f : TeamSet → TeamSet) : (s.updSet g k f).sched.teams = s.sched.teams := rfl
@[simp] theorem State.updSet_sched_requests (s : State) (g k : Nat) (f : TeamSet → TeamSet) : (s.updSet g k f).sched.requests = s.sched.requests := rfl
@[simp] theorem State.updSet_sched_replays (s : State) (g k : Nat) (f : TeamSet → TeamSet) : (s.updSet g k f).sched.replays = s.sched.replays := rfl
@[simp] theorem State.updSet_sched_grants (s : State) (g k : Nat) (f : TeamSet → TeamSet) : (s.updSet g k f).sched.grants = s.sched.grants := rfl
@[simp] theorem State.updSet_crews (s : State) (g k : Nat) (f : TeamSet → TeamSet) : (s.updSet g k f).crews = s.crews := rfl
@[simp] theorem State.updSet_recs (s : State) (g k : Nat) (f : TeamSet → TeamSet) : (s.updSet g k f).recs = s.recs := rfl
@[simp] theorem State.updSet_eng (s : State) (g k : Nat) (f : TeamSet → TeamSet) : (s.updSet g k f).eng = s.eng := rfl

@[simp] theorem State.updCore_agenda (s : State) (k : Nat) (f : Core → Core) : (s.updCore k f).agenda = s.agenda := rfl
@[simp] theorem State.updCore_cur (s : State) (k : Nat) (f : Core → Core) : (s.updCore k f).cur = s.cur := rfl
@[simp] theorem State.updCore_clock (s : State) (k : Nat) (f : Core → Core) : (s.updCore k f).clock = s.clock := rfl
@[simp] theorem State.updCore_chip_clusters (s : State) (k : Nat) (f : Core → Core) : (s.updCore k f).chip.clusters = s.chip.clusters := rfl
@[simp] theorem State.updCore_chip_ports (s : State) (k : Nat) (f : Core → Core) : (s.updCore k f).chip.ports = s.chip.ports := rfl
@[simp] theorem State.updCore_mem (s : State) (k : Nat) (f : Core → Core) : (s.updCore k f).mem = s.mem := rfl
@[simp] theorem State.updCore_dev (s : State) (k : Nat) (f : Core → Core) : (s.updCore k f).dev = s.dev := rfl
@[simp] theorem State.updCore_health (s : State) (k : Nat) (f : Core → Core) : (s.updCore k f).health = s.health := rfl
@[simp] theorem State.updCore_host (s : State) (k : Nat) (f : Core → Core) : (s.updCore k f).host = s.host := rfl
@[simp] theorem State.updCore_ctxs (s : State) (k : Nat) (f : Core → Core) : (s.updCore k f).ctxs = s.ctxs := rfl
@[simp] theorem State.updCore_sched (s : State) (k : Nat) (f : Core → Core) : (s.updCore k f).sched = s.sched := rfl
@[simp] theorem State.updCore_crews (s : State) (k : Nat) (f : Core → Core) : (s.updCore k f).crews = s.crews := rfl
@[simp] theorem State.updCore_recs (s : State) (k : Nat) (f : Core → Core) : (s.updCore k f).recs = s.recs := rfl
@[simp] theorem State.updCore_eng (s : State) (k : Nat) (f : Core → Core) : (s.updCore k f).eng = s.eng := rfl

@[simp] theorem State.updCluster_agenda (s : State) (c : Nat) (f : Cluster → Cluster) : (s.updCluster c f).agenda = s.agenda := rfl
@[simp] theorem State.updCluster_cur (s : State) (c : Nat) (f : Cluster → Cluster) : (s.updCluster c f).cur = s.cur := rfl
@[simp] theorem State.updCluster_clock (s : State) (c : Nat) (f : Cluster → Cluster) : (s.updCluster c f).clock = s.clock := rfl
@[simp] theorem State.updCluster_chip_cores (s : State) (c : Nat) (f : Cluster → Cluster) : (s.updCluster c f).chip.cores = s.chip.cores := rfl
@[simp] theorem State.updCluster_chip_ports (s : State) (c : Nat) (f : Cluster → Cluster) : (s.updCluster c f).chip.ports = s.chip.ports := rfl
@[simp] theorem State.updCluster_mem (s : State) (c : Nat) (f : Cluster → Cluster) : (s.updCluster c f).mem = s.mem := rfl
@[simp] theorem State.updCluster_dev (s : State) (c : Nat) (f : Cluster → Cluster) : (s.updCluster c f).dev = s.dev := rfl
@[simp] theorem State.updCluster_health (s : State) (c : Nat) (f : Cluster → Cluster) : (s.updCluster c f).health = s.health := rfl
@[simp] theorem State.updCluster_host (s : State) (c : Nat) (f : Cluster → Cluster) : (s.updCluster c f).host = s.host := rfl
@[simp] theorem State.updCluster_ctxs (s : State) (c : Nat) (f : Cluster → Cluster) : (s.updCluster c f).ctxs = s.ctxs := rfl
@[simp] theorem State.updCluster_sched (s : State) (c : Nat) (f : Cluster → Cluster) : (s.updCluster c f).sched = s.sched := rfl
@[simp] theorem State.updCluster_crews (s : State) (c : Nat) (f : Cluster → Cluster) : (s.updCluster c f).crews = s.crews := rfl
@[simp] theorem State.updCluster_recs (s : State) (c : Nat) (f : Cluster → Cluster) : (s.updCluster c f).recs = s.recs := rfl
@[simp] theorem State.updCluster_eng (s : State) (c : Nat) (f : Cluster → Cluster) : (s.updCluster c f).eng = s.eng := rfl

@[simp] theorem State.updPort_agenda (s : State) (p : Nat) (f : Port → Port) : (s.updPort p f).agenda = s.agenda := rfl
@[simp] theorem State.updPort_cur (s : State) (p : Nat) (f : Port → Port) : (s.updPort p f).cur = s.cur := rfl
@[simp] theorem State.updPort_clock (s : State) (p : Nat) (f : Port → Port) : (s.updPort p f).clock = s.clock := rfl
@[simp] theorem State.updPort_chip_cores (s : State) (p : Nat) (f : Port → Port) : (s.updPort p f).chip.cores = s.chip.cores := rfl
@[simp] theorem State.updPort_chip_clusters (s : State) (p : Nat) (f : Port → Port) : (s.updPort p f).chip.clusters = s.chip.clusters := rfl
@[simp] theorem State.updPort_mem (s : State) (p : Nat) (f : Port → Port) : (s.updPort p f).mem = s.mem := rfl
@[simp] theorem State.updPort_dev (s : State) (p : Nat) (f : Port → Port) : (s.updPort p f).dev = s.dev := rfl
@[simp] theorem State.updPort_health (s : State) (p : Nat) (f : Port → Port) : (s.updPort p f).health = s.health := rfl
@[simp] theorem State.updPort_host (s : State) (p : Nat) (f : Port → Port) : (s.updPort p f).host = s.host := rfl
@[simp] theorem State.updPort_ctxs (s : State) (p : Nat) (f : Port → Port) : (s.updPort p f).ctxs = s.ctxs := rfl
@[simp] theorem State.updPort_sched (s : State) (p : Nat) (f : Port → Port) : (s.updPort p f).sched = s.sched := rfl
@[simp] theorem State.updPort_crews (s : State) (p : Nat) (f : Port → Port) : (s.updPort p f).crews = s.crews := rfl
@[simp] theorem State.updPort_recs (s : State) (p : Nat) (f : Port → Port) : (s.updPort p f).recs = s.recs := rfl
@[simp] theorem State.updPort_eng (s : State) (p : Nat) (f : Port → Port) : (s.updPort p f).eng = s.eng := rfl

@[simp] theorem State.updSlot_agenda (s : State) (q : Nat) (f : Slot → Slot) : (s.updSlot q f).agenda = s.agenda := rfl
@[simp] theorem State.updSlot_cur (s : State) (q : Nat) (f : Slot → Slot) : (s.updSlot q f).cur = s.cur := rfl
@[simp] theorem State.updSlot_clock (s : State) (q : Nat) (f : Slot → Slot) : (s.updSlot q f).clock = s.clock := rfl
@[simp] theorem State.updSlot_chip (s : State) (q : Nat) (f : Slot → Slot) : (s.updSlot q f).chip = s.chip := rfl
@[simp] theorem State.updSlot_mem (s : State) (q : Nat) (f : Slot → Slot) : (s.updSlot q f).mem = s.mem := rfl
@[simp] theorem State.updSlot_dev (s : State) (q : Nat) (f : Slot → Slot) : (s.updSlot q f).dev = s.dev := rfl
@[simp] theorem State.updSlot_health (s : State) (q : Nat) (f : Slot → Slot) : (s.updSlot q f).health = s.health := rfl
@[simp] theorem State.updSlot_host_tenants (s : State) (q : Nat) (f : Slot → Slot) : (s.updSlot q f).host.tenants = s.host.tenants := rfl
@[simp] theorem State.updSlot_host_pasids (s : State) (q : Nat) (f : Slot → Slot) : (s.updSlot q f).host.pasids = s.host.pasids := rfl
@[simp] theorem State.updSlot_host_faults (s : State) (q : Nat) (f : Slot → Slot) : (s.updSlot q f).host.faults = s.host.faults := rfl
@[simp] theorem State.updSlot_host_ats (s : State) (q : Nat) (f : Slot → Slot) : (s.updSlot q f).host.ats = s.host.ats := rfl
@[simp] theorem State.updSlot_host_msix (s : State) (q : Nat) (f : Slot → Slot) : (s.updSlot q f).host.msix = s.host.msix := rfl
@[simp] theorem State.updSlot_host_turn (s : State) (q : Nat) (f : Slot → Slot) : (s.updSlot q f).host.turn = s.host.turn := rfl
@[simp] theorem State.updSlot_host_turnSeen (s : State) (q : Nat) (f : Slot → Slot) : (s.updSlot q f).host.turnSeen = s.host.turnSeen := rfl
@[simp] theorem State.updSlot_host_admNext (s : State) (q : Nat) (f : Slot → Slot) : (s.updSlot q f).host.admNext = s.host.admNext := rfl
@[simp] theorem State.updSlot_host_admCur (s : State) (q : Nat) (f : Slot → Slot) : (s.updSlot q f).host.admCur = s.host.admCur := rfl
@[simp] theorem State.updSlot_host_admPend (s : State) (q : Nat) (f : Slot → Slot) : (s.updSlot q f).host.admPend = s.host.admPend := rfl
@[simp] theorem State.updSlot_host_image (s : State) (q : Nat) (f : Slot → Slot) : (s.updSlot q f).host.image = s.host.image := rfl
@[simp] theorem State.updSlot_host_digest (s : State) (q : Nat) (f : Slot → Slot) : (s.updSlot q f).host.digest = s.host.digest := rfl
@[simp] theorem State.updSlot_host_tenantSet (s : State) (q : Nat) (f : Slot → Slot) : (s.updSlot q f).host.tenantSet = s.host.tenantSet := rfl
@[simp] theorem State.updSlot_host_nextFid (s : State) (q : Nat) (f : Slot → Slot) : (s.updSlot q f).host.nextFid = s.host.nextFid := rfl
@[simp] theorem State.updSlot_ctxs (s : State) (q : Nat) (f : Slot → Slot) : (s.updSlot q f).ctxs = s.ctxs := rfl
@[simp] theorem State.updSlot_sched (s : State) (q : Nat) (f : Slot → Slot) : (s.updSlot q f).sched = s.sched := rfl
@[simp] theorem State.updSlot_crews (s : State) (q : Nat) (f : Slot → Slot) : (s.updSlot q f).crews = s.crews := rfl
@[simp] theorem State.updSlot_recs (s : State) (q : Nat) (f : Slot → Slot) : (s.updSlot q f).recs = s.recs := rfl
@[simp] theorem State.updSlot_eng (s : State) (q : Nat) (f : Slot → Slot) : (s.updSlot q f).eng = s.eng := rfl

@[simp] theorem State.updEng_agenda (s : State) (f : Engines → Engines) : (s.updEng f).agenda = s.agenda := rfl
@[simp] theorem State.updEng_cur (s : State) (f : Engines → Engines) : (s.updEng f).cur = s.cur := rfl
@[simp] theorem State.updEng_clock (s : State) (f : Engines → Engines) : (s.updEng f).clock = s.clock := rfl
@[simp] theorem State.updEng_chip (s : State) (f : Engines → Engines) : (s.updEng f).chip = s.chip := rfl
@[simp] theorem State.updEng_mem (s : State) (f : Engines → Engines) : (s.updEng f).mem = s.mem := rfl
@[simp] theorem State.updEng_dev (s : State) (f : Engines → Engines) : (s.updEng f).dev = s.dev := rfl
@[simp] theorem State.updEng_health (s : State) (f : Engines → Engines) : (s.updEng f).health = s.health := rfl
@[simp] theorem State.updEng_host (s : State) (f : Engines → Engines) : (s.updEng f).host = s.host := rfl
@[simp] theorem State.updEng_ctxs (s : State) (f : Engines → Engines) : (s.updEng f).ctxs = s.ctxs := rfl
@[simp] theorem State.updEng_sched (s : State) (f : Engines → Engines) : (s.updEng f).sched = s.sched := rfl
@[simp] theorem State.updEng_crews (s : State) (f : Engines → Engines) : (s.updEng f).crews = s.crews := rfl
@[simp] theorem State.updEng_recs (s : State) (f : Engines → Engines) : (s.updEng f).recs = s.recs := rfl
@[simp] theorem State.updEng_eng (s : State) (f : Engines → Engines) : (s.updEng f).eng = f s.eng := rfl

@[simp] theorem State.updSched_agenda (s : State) (f : Sched → Sched) : (s.updSched f).agenda = s.agenda := rfl
@[simp] theorem State.updSched_cur (s : State) (f : Sched → Sched) : (s.updSched f).cur = s.cur := rfl
@[simp] theorem State.updSched_clock (s : State) (f : Sched → Sched) : (s.updSched f).clock = s.clock := rfl
@[simp] theorem State.updSched_chip (s : State) (f : Sched → Sched) : (s.updSched f).chip = s.chip := rfl
@[simp] theorem State.updSched_mem (s : State) (f : Sched → Sched) : (s.updSched f).mem = s.mem := rfl
@[simp] theorem State.updSched_dev (s : State) (f : Sched → Sched) : (s.updSched f).dev = s.dev := rfl
@[simp] theorem State.updSched_health (s : State) (f : Sched → Sched) : (s.updSched f).health = s.health := rfl
@[simp] theorem State.updSched_host (s : State) (f : Sched → Sched) : (s.updSched f).host = s.host := rfl
@[simp] theorem State.updSched_ctxs (s : State) (f : Sched → Sched) : (s.updSched f).ctxs = s.ctxs := rfl
@[simp] theorem State.updSched_sched (s : State) (f : Sched → Sched) : (s.updSched f).sched = f s.sched := rfl
@[simp] theorem State.updSched_crews (s : State) (f : Sched → Sched) : (s.updSched f).crews = s.crews := rfl
@[simp] theorem State.updSched_recs (s : State) (f : Sched → Sched) : (s.updSched f).recs = s.recs := rfl
@[simp] theorem State.updSched_eng (s : State) (f : Sched → Sched) : (s.updSched f).eng = s.eng := rfl

@[simp] theorem State.updHealth_agenda (s : State) (f : Health → Health) : (s.updHealth f).agenda = s.agenda := rfl
@[simp] theorem State.updHealth_cur (s : State) (f : Health → Health) : (s.updHealth f).cur = s.cur := rfl
@[simp] theorem State.updHealth_clock (s : State) (f : Health → Health) : (s.updHealth f).clock = s.clock := rfl
@[simp] theorem State.updHealth_chip (s : State) (f : Health → Health) : (s.updHealth f).chip = s.chip := rfl
@[simp] theorem State.updHealth_mem (s : State) (f : Health → Health) : (s.updHealth f).mem = s.mem := rfl
@[simp] theorem State.updHealth_dev (s : State) (f : Health → Health) : (s.updHealth f).dev = s.dev := rfl
@[simp] theorem State.updHealth_health (s : State) (f : Health → Health) : (s.updHealth f).health = { f s.health with seq := (f s.health).seq + 2 } := rfl
@[simp] theorem State.updHealth_host (s : State) (f : Health → Health) : (s.updHealth f).host = s.host := rfl
@[simp] theorem State.updHealth_ctxs (s : State) (f : Health → Health) : (s.updHealth f).ctxs = s.ctxs := rfl
@[simp] theorem State.updHealth_sched (s : State) (f : Health → Health) : (s.updHealth f).sched = s.sched := rfl
@[simp] theorem State.updHealth_crews (s : State) (f : Health → Health) : (s.updHealth f).crews = s.crews := rfl
@[simp] theorem State.updHealth_recs (s : State) (f : Health → Health) : (s.updHealth f).recs = s.recs := rfl
@[simp] theorem State.updHealth_eng (s : State) (f : Health → Health) : (s.updHealth f).eng = s.eng := rfl

@[simp] theorem State.updHost_agenda (s : State) (f : HostSide → HostSide) : (s.updHost f).agenda = s.agenda := rfl
@[simp] theorem State.updHost_cur (s : State) (f : HostSide → HostSide) : (s.updHost f).cur = s.cur := rfl
@[simp] theorem State.updHost_clock (s : State) (f : HostSide → HostSide) : (s.updHost f).clock = s.clock := rfl
@[simp] theorem State.updHost_chip (s : State) (f : HostSide → HostSide) : (s.updHost f).chip = s.chip := rfl
@[simp] theorem State.updHost_mem (s : State) (f : HostSide → HostSide) : (s.updHost f).mem = s.mem := rfl
@[simp] theorem State.updHost_dev (s : State) (f : HostSide → HostSide) : (s.updHost f).dev = s.dev := rfl
@[simp] theorem State.updHost_health (s : State) (f : HostSide → HostSide) : (s.updHost f).health = s.health := rfl
@[simp] theorem State.updHost_host (s : State) (f : HostSide → HostSide) : (s.updHost f).host = f s.host := rfl
@[simp] theorem State.updHost_ctxs (s : State) (f : HostSide → HostSide) : (s.updHost f).ctxs = s.ctxs := rfl
@[simp] theorem State.updHost_sched (s : State) (f : HostSide → HostSide) : (s.updHost f).sched = s.sched := rfl
@[simp] theorem State.updHost_crews (s : State) (f : HostSide → HostSide) : (s.updHost f).crews = s.crews := rfl
@[simp] theorem State.updHost_recs (s : State) (f : HostSide → HostSide) : (s.updHost f).recs = s.recs := rfl
@[simp] theorem State.updHost_eng (s : State) (f : HostSide → HostSide) : (s.updHost f).eng = s.eng := rfl

@[simp] theorem State.updDev_agenda (s : State) (f : DevRegs → DevRegs) : (s.updDev f).agenda = s.agenda := rfl
@[simp] theorem State.updDev_cur (s : State) (f : DevRegs → DevRegs) : (s.updDev f).cur = s.cur := rfl
@[simp] theorem State.updDev_clock (s : State) (f : DevRegs → DevRegs) : (s.updDev f).clock = s.clock := rfl
@[simp] theorem State.updDev_chip (s : State) (f : DevRegs → DevRegs) : (s.updDev f).chip = s.chip := rfl
@[simp] theorem State.updDev_mem (s : State) (f : DevRegs → DevRegs) : (s.updDev f).mem = s.mem := rfl
@[simp] theorem State.updDev_dev (s : State) (f : DevRegs → DevRegs) : (s.updDev f).dev = f s.dev := rfl
@[simp] theorem State.updDev_health (s : State) (f : DevRegs → DevRegs) : (s.updDev f).health = s.health := rfl
@[simp] theorem State.updDev_host (s : State) (f : DevRegs → DevRegs) : (s.updDev f).host = s.host := rfl
@[simp] theorem State.updDev_ctxs (s : State) (f : DevRegs → DevRegs) : (s.updDev f).ctxs = s.ctxs := rfl
@[simp] theorem State.updDev_sched (s : State) (f : DevRegs → DevRegs) : (s.updDev f).sched = s.sched := rfl
@[simp] theorem State.updDev_crews (s : State) (f : DevRegs → DevRegs) : (s.updDev f).crews = s.crews := rfl
@[simp] theorem State.updDev_recs (s : State) (f : DevRegs → DevRegs) : (s.updDev f).recs = s.recs := rfl
@[simp] theorem State.updDev_eng (s : State) (f : DevRegs → DevRegs) : (s.updDev f).eng = s.eng := rfl

/-! ## Finders over entries that were not touched -/

@[simp] theorem State.team_setCrew (s : State) (c : Crew) (m : Nat) : (s.setCrew c).team? m = s.team? m := rfl
@[simp] theorem State.grid_setCrew (s : State) (c : Crew) (m : Nat) : (s.setCrew c).grid? m = s.grid? m := rfl
@[simp] theorem State.ctx_setCrew (s : State) (c : Crew) (m : Nat) : (s.setCrew c).ctx? m = s.ctx? m := rfl
@[simp] theorem State.rec_setCrew (s : State) (c : Crew) (x y : Nat) : (s.setCrew c).rec? x y = s.rec? x y := rfl
@[simp] theorem State.core_setCrew (s : State) (c : Crew) (m : Nat) : (s.setCrew c).core m = s.core m := rfl
@[simp] theorem State.cluster_setCrew (s : State) (c : Crew) (m : Nat) : (s.setCrew c).cluster m = s.cluster m := rfl
@[simp] theorem State.slot_setCrew (s : State) (c : Crew) (m : Nat) : (s.setCrew c).slot m = s.slot m := rfl
@[simp] theorem State.team_updCrew (s : State) (k : Nat) (f : Crew → Crew) (m : Nat) : (s.updCrew k f).team? m = s.team? m := rfl
@[simp] theorem State.grid_updCrew (s : State) (k : Nat) (f : Crew → Crew) (m : Nat) : (s.updCrew k f).grid? m = s.grid? m := rfl
@[simp] theorem State.ctx_updCrew (s : State) (k : Nat) (f : Crew → Crew) (m : Nat) : (s.updCrew k f).ctx? m = s.ctx? m := rfl
@[simp] theorem State.rec_updCrew (s : State) (k : Nat) (f : Crew → Crew) (x y : Nat) : (s.updCrew k f).rec? x y = s.rec? x y := rfl
@[simp] theorem State.core_updCrew (s : State) (k : Nat) (f : Crew → Crew) (m : Nat) : (s.updCrew k f).core m = s.core m := rfl
@[simp] theorem State.cluster_updCrew (s : State) (k : Nat) (f : Crew → Crew) (m : Nat) : (s.updCrew k f).cluster m = s.cluster m := rfl
@[simp] theorem State.slot_updCrew (s : State) (k : Nat) (f : Crew → Crew) (m : Nat) : (s.updCrew k f).slot m = s.slot m := rfl
@[simp] theorem State.crew_updTeam (s : State) (u : Nat) (f : Team → Team) (m : Nat) : (s.updTeam u f).crew? m = s.crew? m := rfl
@[simp] theorem State.grid_updTeam (s : State) (u : Nat) (f : Team → Team) (m : Nat) : (s.updTeam u f).grid? m = s.grid? m := rfl
@[simp] theorem State.ctx_updTeam (s : State) (u : Nat) (f : Team → Team) (m : Nat) : (s.updTeam u f).ctx? m = s.ctx? m := rfl
@[simp] theorem State.rec_updTeam (s : State) (u : Nat) (f : Team → Team) (x y : Nat) : (s.updTeam u f).rec? x y = s.rec? x y := rfl
@[simp] theorem State.core_updTeam (s : State) (u : Nat) (f : Team → Team) (m : Nat) : (s.updTeam u f).core m = s.core m := rfl
@[simp] theorem State.cluster_updTeam (s : State) (u : Nat) (f : Team → Team) (m : Nat) : (s.updTeam u f).cluster m = s.cluster m := rfl
@[simp] theorem State.slot_updTeam (s : State) (u : Nat) (f : Team → Team) (m : Nat) : (s.updTeam u f).slot m = s.slot m := rfl
@[simp] theorem State.crew_updGrid (s : State) (g : Nat) (f : Grid → Grid) (m : Nat) : (s.updGrid g f).crew? m = s.crew? m := rfl
@[simp] theorem State.team_updGrid (s : State) (g : Nat) (f : Grid → Grid) (m : Nat) : (s.updGrid g f).team? m = s.team? m := rfl
@[simp] theorem State.ctx_updGrid (s : State) (g : Nat) (f : Grid → Grid) (m : Nat) : (s.updGrid g f).ctx? m = s.ctx? m := rfl
@[simp] theorem State.rec_updGrid (s : State) (g : Nat) (f : Grid → Grid) (x y : Nat) : (s.updGrid g f).rec? x y = s.rec? x y := rfl
@[simp] theorem State.core_updGrid (s : State) (g : Nat) (f : Grid → Grid) (m : Nat) : (s.updGrid g f).core m = s.core m := rfl
@[simp] theorem State.cluster_updGrid (s : State) (g : Nat) (f : Grid → Grid) (m : Nat) : (s.updGrid g f).cluster m = s.cluster m := rfl
@[simp] theorem State.slot_updGrid (s : State) (g : Nat) (f : Grid → Grid) (m : Nat) : (s.updGrid g f).slot m = s.slot m := rfl
@[simp] theorem State.crew_updCtx (s : State) (k : Nat) (f : Ctx → Ctx) (m : Nat) : (s.updCtx k f).crew? m = s.crew? m := rfl
@[simp] theorem State.team_updCtx (s : State) (k : Nat) (f : Ctx → Ctx) (m : Nat) : (s.updCtx k f).team? m = s.team? m := rfl
@[simp] theorem State.grid_updCtx (s : State) (k : Nat) (f : Ctx → Ctx) (m : Nat) : (s.updCtx k f).grid? m = s.grid? m := rfl
@[simp] theorem State.rec_updCtx (s : State) (k : Nat) (f : Ctx → Ctx) (x y : Nat) : (s.updCtx k f).rec? x y = s.rec? x y := rfl
@[simp] theorem State.core_updCtx (s : State) (k : Nat) (f : Ctx → Ctx) (m : Nat) : (s.updCtx k f).core m = s.core m := rfl
@[simp] theorem State.cluster_updCtx (s : State) (k : Nat) (f : Ctx → Ctx) (m : Nat) : (s.updCtx k f).cluster m = s.cluster m := rfl
@[simp] theorem State.slot_updCtx (s : State) (k : Nat) (f : Ctx → Ctx) (m : Nat) : (s.updCtx k f).slot m = s.slot m := rfl
@[simp] theorem State.crew_updRec (s : State) (t i : Nat) (f : Rec → Rec) (m : Nat) : (s.updRec t i f).crew? m = s.crew? m := rfl
@[simp] theorem State.team_updRec (s : State) (t i : Nat) (f : Rec → Rec) (m : Nat) : (s.updRec t i f).team? m = s.team? m := rfl
@[simp] theorem State.grid_updRec (s : State) (t i : Nat) (f : Rec → Rec) (m : Nat) : (s.updRec t i f).grid? m = s.grid? m := rfl
@[simp] theorem State.ctx_updRec (s : State) (t i : Nat) (f : Rec → Rec) (m : Nat) : (s.updRec t i f).ctx? m = s.ctx? m := rfl
@[simp] theorem State.core_updRec (s : State) (t i : Nat) (f : Rec → Rec) (m : Nat) : (s.updRec t i f).core m = s.core m := rfl
@[simp] theorem State.cluster_updRec (s : State) (t i : Nat) (f : Rec → Rec) (m : Nat) : (s.updRec t i f).cluster m = s.cluster m := rfl
@[simp] theorem State.slot_updRec (s : State) (t i : Nat) (f : Rec → Rec) (m : Nat) : (s.updRec t i f).slot m = s.slot m := rfl
@[simp] theorem State.crew_updSet (s : State) (g k : Nat) (f : TeamSet → TeamSet) (m : Nat) : (s.updSet g k f).crew? m = s.crew? m := rfl
@[simp] theorem State.team_updSet (s : State) (g k : Nat) (f : TeamSet → TeamSet) (m : Nat) : (s.updSet g k f).team? m = s.team? m := rfl
@[simp] theorem State.grid_updSet (s : State) (g k : Nat) (f : TeamSet → TeamSet) (m : Nat) : (s.updSet g k f).grid? m = s.grid? m := rfl
@[simp] theorem State.ctx_updSet (s : State) (g k : Nat) (f : TeamSet → TeamSet) (m : Nat) : (s.updSet g k f).ctx? m = s.ctx? m := rfl
@[simp] theorem State.rec_updSet (s : State) (g k : Nat) (f : TeamSet → TeamSet) (x y : Nat) : (s.updSet g k f).rec? x y = s.rec? x y := rfl
@[simp] theorem State.core_updSet (s : State) (g k : Nat) (f : TeamSet → TeamSet) (m : Nat) : (s.updSet g k f).core m = s.core m := rfl
@[simp] theorem State.cluster_updSet (s : State) (g k : Nat) (f : TeamSet → TeamSet) (m : Nat) : (s.updSet g k f).cluster m = s.cluster m := rfl
@[simp] theorem State.slot_updSet (s : State) (g k : Nat) (f : TeamSet → TeamSet) (m : Nat) : (s.updSet g k f).slot m = s.slot m := rfl
@[simp] theorem State.crew_updCore (s : State) (k : Nat) (f : Core → Core) (m : Nat) : (s.updCore k f).crew? m = s.crew? m := rfl
@[simp] theorem State.team_updCore (s : State) (k : Nat) (f : Core → Core) (m : Nat) : (s.updCore k f).team? m = s.team? m := rfl
@[simp] theorem State.grid_updCore (s : State) (k : Nat) (f : Core → Core) (m : Nat) : (s.updCore k f).grid? m = s.grid? m := rfl
@[simp] theorem State.ctx_updCore (s : State) (k : Nat) (f : Core → Core) (m : Nat) : (s.updCore k f).ctx? m = s.ctx? m := rfl
@[simp] theorem State.rec_updCore (s : State) (k : Nat) (f : Core → Core) (x y : Nat) : (s.updCore k f).rec? x y = s.rec? x y := rfl
@[simp] theorem State.cluster_updCore (s : State) (k : Nat) (f : Core → Core) (m : Nat) : (s.updCore k f).cluster m = s.cluster m := rfl
@[simp] theorem State.slot_updCore (s : State) (k : Nat) (f : Core → Core) (m : Nat) : (s.updCore k f).slot m = s.slot m := rfl
@[simp] theorem State.crew_updCluster (s : State) (c : Nat) (f : Cluster → Cluster) (m : Nat) : (s.updCluster c f).crew? m = s.crew? m := rfl
@[simp] theorem State.team_updCluster (s : State) (c : Nat) (f : Cluster → Cluster) (m : Nat) : (s.updCluster c f).team? m = s.team? m := rfl
@[simp] theorem State.grid_updCluster (s : State) (c : Nat) (f : Cluster → Cluster) (m : Nat) : (s.updCluster c f).grid? m = s.grid? m := rfl
@[simp] theorem State.ctx_updCluster (s : State) (c : Nat) (f : Cluster → Cluster) (m : Nat) : (s.updCluster c f).ctx? m = s.ctx? m := rfl
@[simp] theorem State.rec_updCluster (s : State) (c : Nat) (f : Cluster → Cluster) (x y : Nat) : (s.updCluster c f).rec? x y = s.rec? x y := rfl
@[simp] theorem State.core_updCluster (s : State) (c : Nat) (f : Cluster → Cluster) (m : Nat) : (s.updCluster c f).core m = s.core m := rfl
@[simp] theorem State.slot_updCluster (s : State) (c : Nat) (f : Cluster → Cluster) (m : Nat) : (s.updCluster c f).slot m = s.slot m := rfl
@[simp] theorem State.crew_updPort (s : State) (p : Nat) (f : Port → Port) (m : Nat) : (s.updPort p f).crew? m = s.crew? m := rfl
@[simp] theorem State.team_updPort (s : State) (p : Nat) (f : Port → Port) (m : Nat) : (s.updPort p f).team? m = s.team? m := rfl
@[simp] theorem State.grid_updPort (s : State) (p : Nat) (f : Port → Port) (m : Nat) : (s.updPort p f).grid? m = s.grid? m := rfl
@[simp] theorem State.ctx_updPort (s : State) (p : Nat) (f : Port → Port) (m : Nat) : (s.updPort p f).ctx? m = s.ctx? m := rfl
@[simp] theorem State.rec_updPort (s : State) (p : Nat) (f : Port → Port) (x y : Nat) : (s.updPort p f).rec? x y = s.rec? x y := rfl
@[simp] theorem State.core_updPort (s : State) (p : Nat) (f : Port → Port) (m : Nat) : (s.updPort p f).core m = s.core m := rfl
@[simp] theorem State.cluster_updPort (s : State) (p : Nat) (f : Port → Port) (m : Nat) : (s.updPort p f).cluster m = s.cluster m := rfl
@[simp] theorem State.slot_updPort (s : State) (p : Nat) (f : Port → Port) (m : Nat) : (s.updPort p f).slot m = s.slot m := rfl
@[simp] theorem State.crew_updSlot (s : State) (q : Nat) (f : Slot → Slot) (m : Nat) : (s.updSlot q f).crew? m = s.crew? m := rfl
@[simp] theorem State.team_updSlot (s : State) (q : Nat) (f : Slot → Slot) (m : Nat) : (s.updSlot q f).team? m = s.team? m := rfl
@[simp] theorem State.grid_updSlot (s : State) (q : Nat) (f : Slot → Slot) (m : Nat) : (s.updSlot q f).grid? m = s.grid? m := rfl
@[simp] theorem State.ctx_updSlot (s : State) (q : Nat) (f : Slot → Slot) (m : Nat) : (s.updSlot q f).ctx? m = s.ctx? m := rfl
@[simp] theorem State.rec_updSlot (s : State) (q : Nat) (f : Slot → Slot) (x y : Nat) : (s.updSlot q f).rec? x y = s.rec? x y := rfl
@[simp] theorem State.core_updSlot (s : State) (q : Nat) (f : Slot → Slot) (m : Nat) : (s.updSlot q f).core m = s.core m := rfl
@[simp] theorem State.cluster_updSlot (s : State) (q : Nat) (f : Slot → Slot) (m : Nat) : (s.updSlot q f).cluster m = s.cluster m := rfl
@[simp] theorem State.crew_updEng (s : State) (f : Engines → Engines) (m : Nat) : (s.updEng f).crew? m = s.crew? m := rfl
@[simp] theorem State.team_updEng (s : State) (f : Engines → Engines) (m : Nat) : (s.updEng f).team? m = s.team? m := rfl
@[simp] theorem State.grid_updEng (s : State) (f : Engines → Engines) (m : Nat) : (s.updEng f).grid? m = s.grid? m := rfl
@[simp] theorem State.ctx_updEng (s : State) (f : Engines → Engines) (m : Nat) : (s.updEng f).ctx? m = s.ctx? m := rfl
@[simp] theorem State.rec_updEng (s : State) (f : Engines → Engines) (x y : Nat) : (s.updEng f).rec? x y = s.rec? x y := rfl
@[simp] theorem State.core_updEng (s : State) (f : Engines → Engines) (m : Nat) : (s.updEng f).core m = s.core m := rfl
@[simp] theorem State.cluster_updEng (s : State) (f : Engines → Engines) (m : Nat) : (s.updEng f).cluster m = s.cluster m := rfl
@[simp] theorem State.slot_updEng (s : State) (f : Engines → Engines) (m : Nat) : (s.updEng f).slot m = s.slot m := rfl
@[simp] theorem State.crew_updSched (s : State) (f : Sched → Sched) (m : Nat) : (s.updSched f).crew? m = s.crew? m := rfl
@[simp] theorem State.ctx_updSched (s : State) (f : Sched → Sched) (m : Nat) : (s.updSched f).ctx? m = s.ctx? m := rfl
@[simp] theorem State.rec_updSched (s : State) (f : Sched → Sched) (x y : Nat) : (s.updSched f).rec? x y = s.rec? x y := rfl
@[simp] theorem State.core_updSched (s : State) (f : Sched → Sched) (m : Nat) : (s.updSched f).core m = s.core m := rfl
@[simp] theorem State.cluster_updSched (s : State) (f : Sched → Sched) (m : Nat) : (s.updSched f).cluster m = s.cluster m := rfl
@[simp] theorem State.slot_updSched (s : State) (f : Sched → Sched) (m : Nat) : (s.updSched f).slot m = s.slot m := rfl
@[simp] theorem State.crew_updHealth (s : State) (f : Health → Health) (m : Nat) : (s.updHealth f).crew? m = s.crew? m := rfl
@[simp] theorem State.team_updHealth (s : State) (f : Health → Health) (m : Nat) : (s.updHealth f).team? m = s.team? m := rfl
@[simp] theorem State.grid_updHealth (s : State) (f : Health → Health) (m : Nat) : (s.updHealth f).grid? m = s.grid? m := rfl
@[simp] theorem State.ctx_updHealth (s : State) (f : Health → Health) (m : Nat) : (s.updHealth f).ctx? m = s.ctx? m := rfl
@[simp] theorem State.rec_updHealth (s : State) (f : Health → Health) (x y : Nat) : (s.updHealth f).rec? x y = s.rec? x y := rfl
@[simp] theorem State.core_updHealth (s : State) (f : Health → Health) (m : Nat) : (s.updHealth f).core m = s.core m := rfl
@[simp] theorem State.cluster_updHealth (s : State) (f : Health → Health) (m : Nat) : (s.updHealth f).cluster m = s.cluster m := rfl
@[simp] theorem State.slot_updHealth (s : State) (f : Health → Health) (m : Nat) : (s.updHealth f).slot m = s.slot m := rfl
@[simp] theorem State.crew_updHost (s : State) (f : HostSide → HostSide) (m : Nat) : (s.updHost f).crew? m = s.crew? m := rfl
@[simp] theorem State.team_updHost (s : State) (f : HostSide → HostSide) (m : Nat) : (s.updHost f).team? m = s.team? m := rfl
@[simp] theorem State.grid_updHost (s : State) (f : HostSide → HostSide) (m : Nat) : (s.updHost f).grid? m = s.grid? m := rfl
@[simp] theorem State.ctx_updHost (s : State) (f : HostSide → HostSide) (m : Nat) : (s.updHost f).ctx? m = s.ctx? m := rfl
@[simp] theorem State.rec_updHost (s : State) (f : HostSide → HostSide) (x y : Nat) : (s.updHost f).rec? x y = s.rec? x y := rfl
@[simp] theorem State.core_updHost (s : State) (f : HostSide → HostSide) (m : Nat) : (s.updHost f).core m = s.core m := rfl
@[simp] theorem State.cluster_updHost (s : State) (f : HostSide → HostSide) (m : Nat) : (s.updHost f).cluster m = s.cluster m := rfl
@[simp] theorem State.crew_updDev (s : State) (f : DevRegs → DevRegs) (m : Nat) : (s.updDev f).crew? m = s.crew? m := rfl
@[simp] theorem State.team_updDev (s : State) (f : DevRegs → DevRegs) (m : Nat) : (s.updDev f).team? m = s.team? m := rfl
@[simp] theorem State.grid_updDev (s : State) (f : DevRegs → DevRegs) (m : Nat) : (s.updDev f).grid? m = s.grid? m := rfl
@[simp] theorem State.ctx_updDev (s : State) (f : DevRegs → DevRegs) (m : Nat) : (s.updDev f).ctx? m = s.ctx? m := rfl
@[simp] theorem State.rec_updDev (s : State) (f : DevRegs → DevRegs) (x y : Nat) : (s.updDev f).rec? x y = s.rec? x y := rfl
@[simp] theorem State.core_updDev (s : State) (f : DevRegs → DevRegs) (m : Nat) : (s.updDev f).core m = s.core m := rfl
@[simp] theorem State.cluster_updDev (s : State) (f : DevRegs → DevRegs) (m : Nat) : (s.updDev f).cluster m = s.cluster m := rfl
@[simp] theorem State.slot_updDev (s : State) (f : DevRegs → DevRegs) (m : Nat) : (s.updDev f).slot m = s.slot m := rfl

/-! ## Finders over entries that were touched -/

/-- A search by key after an update of the entries with key `k` that keeps their keys. -/
theorem find?_upd {α : Type} (key : α → Nat) (k : Nat) (f : α → α) (hf : ∀ x, key x = k → key (f x) = k) (l : List α) (n : Nat) :
    (l.map fun x => if key x == k then f x else x).find? (key · == n) =
      (l.find? (key · == n)).map fun x => if key x == k then f x else x := by
  induction l with
  | nil => rfl
  | cons x xs ih =>
    have hx : key (if key x == k then f x else x) = key x := by
      split
      · rename_i h; rw [hf x (beq_iff_eq.mp h), beq_iff_eq.mp h]
      · rfl
    simp only [List.map_cons, List.find?_cons, hx]
    split
    · rfl
    · exact ih

theorem State.crew?_updCrew (s : State) (k : Nat) (f : Crew → Crew) (hf : ∀ c, c.id = k → (f c).id = k) (n : Nat) :
    (s.updCrew k f).crew? n = (s.crew? n).map fun c => if c.id == k then f c else c := find?_upd Crew.id k f hf s.crews n

theorem State.team?_updTeam (s : State) (k : Nat) (f : Team → Team) (hf : ∀ t, t.uid = k → (f t).uid = k) (n : Nat) :
    (s.updTeam k f).team? n = (s.team? n).map fun t => if t.uid == k then f t else t := find?_upd Team.uid k f hf s.sched.teams n

theorem State.grid?_updGrid (s : State) (k : Nat) (f : Grid → Grid) (hf : ∀ g, g.id = k → (f g).id = k) (n : Nat) :
    (s.updGrid k f).grid? n = (s.grid? n).map fun g => if g.id == k then f g else g := find?_upd Grid.id k f hf s.sched.grids n

theorem State.ctx?_updCtx (s : State) (k : Nat) (f : Ctx → Ctx) (hf : ∀ c, c.id = k → (f c).id = k) (n : Nat) :
    (s.updCtx k f).ctx? n = (s.ctx? n).map fun c => if c.id == k then f c else c := find?_upd Ctx.id k f hf s.ctxs n

/-- A search by key after an entry was put: the entry at its key, and nothing else has changed. -/
theorem find?_putBy {α : Type} (key : α → Nat) (x : α) (l : List α) (n : Nat) :
    (putBy key x l).find? (key · == n) = if key x = n then some x else l.find? (key · == n) := by
  induction l with
  | nil => by_cases h : key x = n <;> simp [putBy, h]
  | cons y ys ih =>
    unfold putBy
    split
    · rename_i hy
      by_cases h : key x = n
      · simp [h]
      · have : ¬ key y = n := hy ▸ h
        simp [h, this]
    · rename_i hy
      split
      · by_cases h : key x = n <;> simp [List.find?_cons, h]
      · rw [List.find?_cons, List.find?_cons, ih]
        by_cases h : key x = n
        · have : (key y == n) = false := by simpa using fun e => hy (e.trans h.symm)
          simp only [this, if_pos h]
        · simp [h]

theorem State.core_updCore (s : State) (k : Nat) (f : Core → Core) (hf : (f (s.core k)).num = k) (n : Nat) :
    (s.updCore k f).core n = if k = n then f (s.core k) else s.core n := by
  simp only [State.core, State.updCore, find?_putBy]
  rw [show (f ((s.chip.cores.find? (·.num == k)).getD (Core.fresh k))).num = k from hf]
  split <;> rfl

theorem State.cluster_updCluster (s : State) (k : Nat) (f : Cluster → Cluster) (hf : (f (s.cluster k)).num = k) (n : Nat) :
    (s.updCluster k f).cluster n = if k = n then f (s.cluster k) else s.cluster n := by
  simp only [State.cluster, State.updCluster, find?_putBy]
  rw [show (f ((s.chip.clusters.find? (·.num == k)).getD (Cluster.fresh k))).num = k from hf]
  split <;> rfl

theorem State.slot_updSlot (s : State) (k : Nat) (f : Slot → Slot) (hf : (f (s.slot k)).num = k) (n : Nat) :
    (s.updSlot k f).slot n = if k = n then f (s.slot k) else s.slot n := by
  simp only [State.slot, State.updSlot, find?_putBy]
  rw [show (f ((s.host.slots.find? (·.num == k)).getD (Slot.fresh k))).num = k from hf]
  split <;> rfl

theorem State.port_updPort (s : State) (k : Nat) (f : Port → Port) (hf : (f (s.port k)).num = k) (n : Nat) :
    (s.updPort k f).port n = if k = n then f (s.port k) else s.port n := by
  simp only [State.port, State.updPort, find?_putBy]
  rw [show (f ((s.chip.ports.find? (·.num == k)).getD (Port.fresh k))).num = k from hf]
  split <;> rfl

/-- The number of an entry found by its number. -/
theorem State.crew?_id {s : State} {k : Nat} {c : Crew} (h : s.crew? k = some c) : c.id = k := by simpa using List.find?_some h
theorem State.team?_uid {s : State} {k : Nat} {t : Team} (h : s.team? k = some t) : t.uid = k := by simpa using List.find?_some h
theorem State.grid?_id {s : State} {k : Nat} {g : Grid} (h : s.grid? k = some g) : g.id = k := by simpa using List.find?_some h
theorem State.ctx?_id {s : State} {k : Nat} {c : Ctx} (h : s.ctx? k = some c) : c.id = k := by simpa using List.find?_some h

end Sys2Proof.Machine
end

