-- ==== Sys2Proof/Laws/Issue.lean ====
section
/-! SUPPORT. What the shared operations of an issue do when they answer: running actions, the checks of R86, finishing an
issue, and issuing long-latency work. -/

namespace Sys2Proof.Machine

/-! ## Running actions -/

@[simp] theorem run_pure {α : Type} (x : α) (s : State) : EStateM.run (pure x : Act α) s = .ok x s := rfl
@[simp] theorem run_get (s : State) : EStateM.run (get : Act State) s = .ok s s := rfl
@[simp] theorem run_set (s t : State) : EStateM.run (set t : Act PUnit) s = .ok ⟨⟩ t := rfl
@[simp] theorem run_modify (f : State → State) (s : State) : EStateM.run (modify f : Act PUnit) s = .ok ⟨⟩ (f s) := rfl
@[simp] theorem run_stop {α : Type} (s : State) : EStateM.run (stop : Act α) s = .error .done s := rfl

theorem run_bind {α β : Type} {a : Act α} {f : α → Act β} {s t : State} {x : α} (h : EStateM.run a s = .ok x t) :
    EStateM.run (a >>= f) s = EStateM.run (f x) t := by
  simp only [EStateM.run, bind, EStateM.bind] at h ⊢
  rw [h]

theorem run_bind_error {α β : Type} {a : Act α} {f : α → Act β} {s t : State} {e : Stop}
    (h : EStateM.run a s = .error e t) : EStateM.run (a >>= f) s = .error e t := by
  simp only [EStateM.run, bind, EStateM.bind] at h ⊢
  rw [h]

theorem act_next {a : Act Unit} {s t : State} (h : EStateM.run a s = .ok () t) : Act.run a s = .next t := by
  simp [Act.run, h]

theorem act_done {a : Act Unit} {s t : State} (h : EStateM.run a s = .error .done t) : Act.run a s = .next t := by
  simp [Act.run, h]

/-! ## Sets of lanes -/

theorem has_shift (k n : Nat) (h : n < 64) : has (1#64 <<< k) n = decide (n = k) := by
  simp only [has, BitVec.getLsbD_shiftLeft, h, decide_true, Bool.true_and]
  by_cases hk : n < k
  · simp [hk]; omega
  · simp only [hk, decide_false, Bool.not_false, Bool.true_and, BitVec.getLsbD_one]
    simp; omega

theorem has_foldl_maskOf (p : Nat → Bool) (l : List Nat) (m : LaneMask) (n : Nat) (h : n < 64) :
    has (l.foldl (fun m k => if p k then m ||| (1#64 <<< k) else m) m) n = (has m n || (l.contains n && p n)) := by
  induction l generalizing m with
  | nil => simp
  | cons k ks ih =>
    simp only [List.foldl_cons, ih, List.contains_cons]
    by_cases hp : p k
    · have hs := has_shift k n h
      simp only [has] at hs ⊢
      simp only [hp, if_true, BitVec.getLsbD_or, hs]
      by_cases hn : n = k
      · subst hn; simp [hp]
      · simp [hn, beq_eq_false_iff_ne.mpr hn]
    · by_cases hn : n = k
      · subst hn; simp [hp]
      · simp [hp, beq_eq_false_iff_ne.mpr hn]

@[simp] theorem has_maskOf (p : Nat → Bool) (n : Nat) (h : n < 64) : has (maskOf p) n = p n := by
  rw [maskOf, has_foldl_maskOf _ _ _ _ h]
  simp [has, h]

theorem has_lt {m : LaneMask} {n : Nat} (h : has m n = true) : n < 64 := BitVec.lt_of_getLsbD h

theorem mask_eq_zero {m : LaneMask} (h : ∀ n, n < 64 → has m n = false) : m = 0 := by
  apply BitVec.eq_of_getLsbD_eq
  intro n hn
  simpa [has] using h n hn

theorem maskOf_eq_zero {p : Nat → Bool} (h : ∀ n, n < 64 → p n = false) : maskOf p = 0 :=
  mask_eq_zero fun n hn => by rw [has_maskOf _ _ hn, h n hn]

theorem mem_lanesOf {m : LaneMask} {n : Nat} : n ∈ lanesOf m ↔ has m n = true := by
  simp only [lanesOf, List.mem_filter, List.mem_range]
  exact ⟨fun h => h.2, fun h => ⟨has_lt h, h⟩⟩

/-! ## The issue in progress -/

variable {s : State} {i : Issue} {c : Crew}

theorem theIssue_run (h : s.cur = some i) : EStateM.run theIssue s = .ok i s := by
  rw [theIssue, run_bind (run_get s), h]; rfl

theorem theCrew_run (h : InProgress s i c) : EStateM.run theCrew s = .ok c s := by
  rw [theCrew, run_bind (theIssue_run h.cur), run_bind (run_get s), h.crew]; rfl

theorem modCrew_run (h : s.cur = some i) (f : Crew → Crew) :
    EStateM.run (modCrew f) s = .ok ⟨⟩ (s.updCrew i.crew f) := by
  rw [modCrew, run_bind (theIssue_run h), run_modify]

/-- A token wait that is met without error changes nothing. -/
theorem tokenWait_run (h : InProgress s i c) (o : Opn)
    (ht : ∀ n l, n < 64 → has i.s n = true → c.lane n = some l →
      toksMet i.mask l.toks = true ∧ l.errTok i.mask = none) :
    EStateM.run (tokenWait o i.mask) s = .ok () s := by
  unfold tokenWait
  split
  · rfl
  · rw [run_bind (theIssue_run h.cur), run_bind (theCrew_run h)]
    have h0 : maskOf (fun n => has i.s n && (c.lane n).any fun l => !toksMet i.mask l.toks) = 0 := by
      refine maskOf_eq_zero fun n hn => ?_
      cases hs : has i.s n with
      | false => rfl
      | true =>
        cases hl : c.lane n with
        | none => simp
        | some l => simp [(ht n l hn hs hl).1]
    have h1 : (lanesOf i.s).findSome? (fun n => (c.lane n).bind (·.errTok i.mask)) = none := by
      rw [List.findSome?_eq_none_iff]
      intro n hn
      have hs := mem_lanesOf.mp hn
      cases hl : c.lane n with
      | none => rfl
      | some l => simp [(ht n l (has_lt hs) hs hl).2]
    simp only [h0, h1, bne_self_eq_false, Bool.false_eq_true, if_false]
    rfl

/-- The checks of R86 pass and change nothing; they answer the operands. -/
theorem issueChecks_run {sh : Shape} {bad : State → Crew → Issue → Bool} {sync ll kernel : Bool}
    {gs : Option (List (Rn × Nat × Nat))} (h : Checked s i c sh bad sync ll kernel gs) :
    EStateM.run (issueChecks sh bad sync ll kernel gs) s = .ok (i.opn c sh kernel) s := by
  unfold issueChecks
  rw [run_bind (run_get s), run_bind (theIssue_run h.cur), run_bind (theCrew_run h.toInProgress)]
  obtain ⟨he, hs⟩ | hp := h.checks
  · simp only [he, hs, beq_self_eq_true, Bool.and_self, if_true, Issue.opn, Issue.inHandler]
    cases i.entry <;> rfl
  · have hn := hp.names
    have hm := hp.mode
    have he := hp.early
    have hf := hp.order
    have ho := hp.own
    have hc := hp.clash
    have hw := hp.wait
    simp only [Issue.inHandler] at hn hc hw
    simp only [hn, hm, ho, hc, hw, he, hf, Bool.or_self, Bool.false_eq_true, if_false]
    split
    · simp only [Issue.opn, Issue.inHandler]; cases i.entry <;> rfl
    · rw [run_bind (tokenWait_run h.toInProgress _ hp.toks)]
      simp only [Issue.opn, Issue.inHandler]; cases i.entry <;> rfl

/-- Where no lane reads a tagged value the check of step 5 changes nothing. -/
theorem taggedReads_run {sh : Shape} (o : Opn) (h : InProgress s i c) {kernel : Bool} {who : Crew → Issue → LaneMask}
    (ht : Untagged i c sh kernel who) :
    EStateM.run (taggedReads o sh (i.inHandler c kernel) who) s = .ok () s := by
  unfold taggedReads taggedBy
  rw [run_bind (theIssue_run h.cur), run_bind (theIssue_run h.cur), run_bind (theCrew_run h)]
  obtain he | hn := ht
  · simp [he]
  · have h0 : maskOf (fun n => has i.act n &&
        (if has (who c i) n then c.taggedField (i.inHandler c kernel) sh.srcs n else none).isSome) = 0 := by
      refine maskOf_eq_zero fun n h64 => ?_
      cases ha : has i.act n with
      | false => rfl
      | true =>
        cases hw : has (who c i) n with
        | false => simp
        | true => simp [hn n h64 ha hw]
    simp [h0]

/-- Where there is room the destination's check changes nothing. -/
theorem roomFor_run {sh : Shape} {ll kernel mem : Bool} (h : InProgress s i c) (hr : HasRoom s i c sh ll kernel mem) :
    EStateM.run (roomFor sh (i.inHandler c kernel) ll mem) s = .ok () s := by
  unfold roomFor
  rw [run_bind (theIssue_run h.cur), run_bind (theCrew_run h)]
  cases hd : sh.dst with
  | none => rfl
  | some p =>
    obtain ⟨r, w⟩ := p
    simp only
    rw [run_bind (run_get s)]
    by_cases ha : i.act = 0
    · simp [ha]
    · have := hr r w hd ha
      rw [if_pos (by simp [this])]
      rfl

/-- An issue that executes: `begin'` answers its operands and changes nothing. -/
theorem begin'_run {sh : Shape} {bad : State → Crew → Issue → Bool} {sync ll kernel mem : Bool}
    {who : Crew → Issue → LaneMask} (h : Ready s i c sh bad sync ll kernel who mem) :
    EStateM.run (begin' sh bad sync ll kernel who mem) s = .ok (i.opn c sh kernel) s := by
  unfold begin'
  rw [run_bind (issueChecks_run h.toChecked), run_bind (theIssue_run h.cur), run_bind (theCrew_run h.toInProgress)]
  have ht : EStateM.run (onlyIf (!kernel) (taggedReads (i.opn c sh kernel) sh (i.inHandler c kernel) who)) s = .ok () s := by
    cases kernel with
    | true => rfl
    | false =>
      obtain hk | ht := h.tags
      · cases hk
      · exact taggedReads_run _ h.toInProgress ht
  simp only [Issue.inHandler] at ht
  rw [run_bind ht]
  have hr := roomFor_run h.toInProgress h.room
  simp only [Issue.inHandler] at hr
  rw [run_bind hr]
  rfl

theorem updCrew_eq {s : State} {k : Nat} {c : Crew} (h : s.crew? k = some c) : c.id = k := by
  have := List.find?_some h
  simpa using this

/-- Finishing an issue: last-use frees, the writes, and the crew stands behind the issue (R58). -/
theorem finish_run (h : s.cur = some i) (sh : Shape) (o : Opn) (w : Crew → Issue → Crew) (kernel : Bool) :
    EStateM.run (finish sh o w kernel) s =
      .ok () (s.updCrew i.crew fun c => (w (c.spent i sh kernel) i).advance i (entryOf c i o)) := by
  unfold finish
  rw [run_bind (theIssue_run h), modCrew_run h]
  rfl

/-- Every instruction that checks, reads, frees and writes, and no more, does this when it executes. -/
theorem begin_finish_next {sh : Shape} {bad : State → Crew → Issue → Bool} {sync ll kernel : Bool}
    {who : Crew → Issue → LaneMask} (h : Ready s i c sh bad sync ll kernel who) (w : Opn → Crew → Issue → Crew) :
    Act.run (do let o ← begin' sh bad sync ll kernel who; finish sh o (w o) kernel) s =
      .next (s.retired i sh (i.opn c sh kernel) (w (i.opn c sh kernel)) kernel) := by
  refine act_next ?_
  rw [run_bind (begin'_run h), finish_run h.cur, State.retired]

theorem lanewise_next {sh : Shape} (h : Ready s i c sh) (f : Opn → Nat → DWord) :
    Act.run (lanewise sh f) s =
      .next (s.retired i sh (i.opn c sh) fun d j => d.writeDst j sh (f (i.opn c sh))) := by
  unfold lanewise
  exact begin_finish_next h fun o d j => d.writeDst j sh (f o)

end Sys2Proof.Machine
end

