-- ==== Sys2Proof/Laws/Regs.lean ====
section
/-! SUPPORT. Registers: what a read gives after a write, a free, and after an issue has moved its crew on. -/

namespace Sys2Proof.Machine

/-! ## Lanes of a crew -/

@[simp] theorem Crew.lane_mapLanes (c : Crew) (m : LaneMask) (f : Nat → Lane → Lane) (n : Nat) :
    (c.mapLanes m f).lane n = (c.lane n).map fun l => if has m n then f n l else l := by
  simp only [Crew.lane, Crew.mapLanes, List.getElem?_mapIdx]
  cases c.lanes[n]? with
  | none => rfl
  | some l => cases l <;> by_cases h : has m n <;> simp [h]

@[simp] theorem Crew.lane_tick (c : Crew) (m : LaneMask) (n : Nat) : (c.tick m).lane n = c.lane n := rfl
@[simp] theorem Crew.lane_closeWindows (c : Crew) (m : LaneMask) (n : Nat) : (c.closeWindows m).lane n = c.lane n := rfl
@[simp] theorem Crew.lane_free (c : Crew) (ns : List Nat) (n : Nat) : (c.free ns).lane n = c.lane n := rfl

/-! ## Register lists -/

theorem find?_insReg (r : Reg) (l : List Reg) (n : Nat) :
    (insReg r l).find? (·.name == n) = if r.name = n then some r else l.find? (·.name == n) := by
  induction l with
  | nil => by_cases h : r.name = n <;> simp [insReg, h]
  | cons q qs ih =>
    unfold insReg
    by_cases h : r.name = n
    · subst h
      split
      · simp
      · split
        · simp
        · rename_i hq
          simp [hq, ih]
    · simp only [h, if_false] at ih ⊢
      split
      · simp [List.find?_cons, h]
      · split
        · rename_i hq
          have : q.name ≠ n := by omega
          simp [this, h]
        · rw [List.find?_cons, List.find?_cons, ih]

theorem find?_filter_names (l : List Reg) (ns : List Nat) (n : Nat) :
    (l.filter fun r => !ns.contains r.name).find? (·.name == n) =
      if n ∈ ns then none else l.find? (·.name == n) := by
  rw [List.find?_filter]
  split
  · rename_i h
    rw [List.find?_eq_none]
    intro r _
    by_cases hr : r.name = n
    · subst hr; simpa using h
    · simp [hr]
  · rename_i h
    congr 1
    funext r
    by_cases hr : r.name = n
    · subst hr; simpa using h
    · simp [hr]

theorem nth_map_range {f : Nat → Word} {w n : Nat} (h : n < w) (d : Word) : nth ((List.range w).map f) n d = f n := by
  simp [nth, h]

/-! ## One register -/

theorem has_zero (n : Nat) : has 0#64 n = false := by simp [has]

theorem has_and_not (a b : LaneMask) (n : Nat) : has (a &&& ~~~b) n = (has a n && !has b n) := by
  by_cases h : n < 64
  · simp [has, h]
  · cases ha : has a n with
    | true => exact absurd (has_lt ha) h
    | false =>
      cases hh : has (a &&& ~~~b) n with
      | true => exact absurd (has_lt hh) h
      | false => rfl

theorem has_allOnes {n : Nat} (h : n < 64) : has (BitVec.allOnes 64) n = true := by
  simp only [has, BitVec.getLsbD_allOnes, h, decide_true]

/-- What a lane holds in a register. -/
def Reg.val (r : Reg) (lane : Nat) : Option Word := if has r.tags lane then none else some (nth r.vals lane 0)

theorem Reg.val_write (r : Reg) (width : Nat) (act : LaneMask) (f : Nat → Word) (lane : Nat) (h : lane < width) :
    (r.write width act f).val lane = if has act lane then some (f lane) else r.val lane := by
  simp only [Reg.val, Reg.write, nth_map_range h, has_and_not]
  by_cases ha : has act lane <;> simp [ha]

theorem Reg.val_new (n width : Nat) {lane : Nat} (h : lane < 64) : (Reg.new n width).val lane = none := by
  simp only [Reg.val, Reg.new, has_allOnes h, if_true]

theorem Crew.val_v (c : Crew) (n lane : Nat) : c.val (.v n) lane = (c.regs.find? (·.name == n)).bind (·.val lane) := rfl

theorem Crew.val_h (c : Crew) (n lane : Nat) :
    c.val (.h n) lane = ((c.hregs.find? (·.name == n)).map (·.val lane)).getD (some 0) := by
  simp only [Crew.val]
  cases c.hregs.find? (·.name == n) <;> rfl

theorem Crew.val_s (c : Crew) (n lane : Nat) :
    c.val (.s n) lane = (c.scal[n]?).bind fun x => if x.tag then none else some x.v := rfl

theorem find?_name {l : List Reg} {n : Nat} {r : Reg} (h : l.find? (·.name == n) = some r) : r.name = n := by
  simpa using List.find?_some h

/-- Writing the lanes of a set into the register of a name, made anew where it is missing. -/
theorem find?_write (l : List Reg) (m n w : Nat) (new : Reg) (hn : new.name = m) (act : LaneMask) (f : Nat → Word) :
    (insReg ((((l.find? (·.name == m)).getD new)).write w act f) l).find? (·.name == n) =
      if m = n then some (((l.find? (·.name == m)).getD new).write w act f) else l.find? (·.name == n) := by
  rw [find?_insReg]
  have : (((l.find? (·.name == m)).getD new).write w act f).name = m := by
    cases hf : l.find? (·.name == m) with
    | none => exact hn
    | some r => exact show r.name = m from find?_name hf
  rw [this]

theorem Crew.writeName_zero (c : Crew) (nm : Name) (f : Nat → Word) : c.writeName nm 0#64 f = c := by
  simp [Crew.writeName]

theorem Crew.val_v_writeName (c : Crew) (nm : Name) (act : LaneMask) (f : Nat → Word) (n lane : Nat)
    (h : lane < c.width) (h64 : lane < 64) :
    (c.writeName nm act f).val (.v n) lane =
      if nm = .v n ∧ has act lane = true then some (f lane) else c.val (.v n) lane := by
  by_cases ha : act = 0
  · subst ha; simp [Crew.writeName_zero, has_zero]
  · unfold Crew.writeName
    rw [if_neg (by simpa using ha)]
    cases nm with
    | v m =>
      rw [Crew.val_v, Crew.val_v]
      simp only [Name.v.injEq]
      rw [find?_write c.regs m n c.width (Reg.new m c.width) rfl act f]
      by_cases hm : m = n
      · subst hm
        simp only [if_true, Option.bind_some, Reg.val_write _ _ _ _ _ h, true_and]
        cases hf : c.regs.find? (·.name == m) with
        | some r => simp
        | none => simp [Reg.val_new m c.width h64]
      · simp [hm]
    | s m => cases hl : lowest act <;> simp [Crew.val_v]
    | _ => simp [Crew.val_v]

theorem Crew.val_h_writeName (c : Crew) (nm : Name) (act : LaneMask) (f : Nat → Word) (n lane : Nat)
    (h : lane < c.width) :
    (c.writeName nm act f).val (.h n) lane =
      if nm = .h n ∧ has act lane = true then some (f lane) else c.val (.h n) lane := by
  by_cases ha : act = 0
  · subst ha; simp [Crew.writeName_zero, has_zero]
  · unfold Crew.writeName
    rw [if_neg (by simpa using ha)]
    cases nm with
    | h m =>
      rw [Crew.val_h, Crew.val_h]
      simp only [Name.h.injEq]
      rw [find?_write c.hregs m n c.width ⟨m, (List.range c.width).map fun _ => 0, 0⟩ rfl act f]
      by_cases hm : m = n
      · subst hm
        simp only [if_true, Option.map_some, Option.getD_some, Reg.val_write _ _ _ _ _ h, true_and]
        cases hf : c.hregs.find? (·.name == m) with
        | some r => simp
        | none => simp only [Option.map_none, Option.getD_none, Reg.val, nth_map_range h]; simp [has_zero]
      · simp [hm]
    | s m => cases hl : lowest act <;> simp [Crew.val_h]
    | _ => simp [Crew.val_h]

theorem Crew.val_s_writeName (c : Crew) (nm : Name) (act : LaneMask) (f : Nat → Word) (n lane : Nat) :
    (c.writeName nm act f).val (.s n) lane =
      match lowest act with
      | some l => if nm = .s n ∧ act ≠ 0 ∧ n < c.scal.length then some (f l) else c.val (.s n) lane
      | none => c.val (.s n) lane := by
  by_cases ha : act = 0
  · subst ha
    cases lowest 0 <;> simp [Crew.writeName_zero]
  · unfold Crew.writeName
    rw [if_neg (by simpa using ha)]
    cases nm with
    | s m =>
      cases hl : lowest act with
      | none => simp
      | some l =>
        simp only [Crew.val_s, setNth, List.getElem?_set, Name.s.injEq]
        by_cases hm : m = n
        · subst hm
          have ha' : act ≠ 0#64 := ha
          by_cases hlt : m < c.scal.length <;> simp [hlt, ha']
        · simp [hm]
    | _ => cases lowest act <;> simp [Crew.val_s]

/-- What a write leaves of a crew. -/
theorem Crew.writeName_rest (c : Crew) (nm : Name) (act : LaneMask) (f : Nat → Word) :
    ∃ r sc h, c.writeName nm act f = { c with regs := r, scal := sc, hregs := h } ∧ sc.length = c.scal.length := by
  unfold Crew.writeName
  split
  · exact ⟨_, _, _, rfl, rfl⟩
  · cases nm with
    | s m => cases hl : lowest act <;> exact ⟨_, _, _, rfl, by simp [setNth]⟩
    | _ => exact ⟨_, _, _, rfl, rfl⟩

/-! ## Groups -/

theorem Crew.writeGroup_succ (c : Crew) (nm : Name) (w : Nat) (act : LaneMask) (f : Nat → Nat → Word) :
    c.writeGroup nm (w + 1) act f = (c.writeGroup nm w act f).writeName (nm.plus w) act fun l => f l w := by
  simp [Crew.writeGroup, List.range_succ]

theorem Crew.writeGroup_rest (c : Crew) (nm : Name) (w : Nat) (act : LaneMask) (f : Nat → Nat → Word) :
    ∃ r sc h, c.writeGroup nm w act f = { c with regs := r, scal := sc, hregs := h } ∧ sc.length = c.scal.length := by
  induction w with
  | zero => exact ⟨_, _, _, rfl, rfl⟩
  | succ w ih =>
    obtain ⟨r, sc, h, he, hs⟩ := ih
    obtain ⟨r', sc', h', he', hs'⟩ := (c.writeGroup nm w act f).writeName_rest (nm.plus w) act fun l => f l w
    exact ⟨r', sc', h', by rw [Crew.writeGroup_succ, he', he], by rw [hs', he, hs]⟩

theorem Crew.writeGroup_width (c : Crew) (nm : Name) (w : Nat) (act : LaneMask) (f : Nat → Nat → Word) :
    (c.writeGroup nm w act f).width = c.width := by
  obtain ⟨r, sc, h, he, _⟩ := c.writeGroup_rest nm w act f
  rw [he]

theorem Crew.val_v_writeGroup (c : Crew) (nm : Name) (w : Nat) (act : LaneMask) (f : Nat → Nat → Word) (n lane : Nat)
    (h : lane < c.width) (h64 : lane < 64) :
    (c.writeGroup nm w act f).val (.v n) lane =
      match nm with
      | .v m => if m ≤ n ∧ n < m + w ∧ has act lane = true then some (f lane (n - m)) else c.val (.v n) lane
      | _ => c.val (.v n) lane := by
  induction w with
  | zero => cases nm <;> simp [Crew.writeGroup]; omega
  | succ w ih =>
    rw [Crew.writeGroup_succ, Crew.val_v_writeName _ _ _ _ _ _ (by rw [Crew.writeGroup_width]; exact h) h64, ih]
    cases nm with
    | v m =>
      simp only [Name.plus, Name.v.injEq]
      by_cases ha : has act lane = true
      · simp only [ha, and_true]
        by_cases h1 : m + w = n
        · subst h1; simp
        · simp only [h1, if_false]
          by_cases h2 : m ≤ n ∧ n < m + w
          · rw [if_pos h2, if_pos ⟨h2.1, by omega⟩]
          · rw [if_neg h2, if_neg (by omega)]
      · simp [ha]
    | _ => simp [Name.plus]

theorem Crew.val_h_writeGroup (c : Crew) (nm : Name) (w : Nat) (act : LaneMask) (f : Nat → Nat → Word) (n lane : Nat)
    (h : lane < c.width) :
    (c.writeGroup nm w act f).val (.h n) lane =
      match nm with
      | .h m => if m ≤ n ∧ n < m + w ∧ has act lane = true then some (f lane (n - m)) else c.val (.h n) lane
      | _ => c.val (.h n) lane := by
  induction w with
  | zero => cases nm <;> simp [Crew.writeGroup]; omega
  | succ w ih =>
    rw [Crew.writeGroup_succ, Crew.val_h_writeName _ _ _ _ _ _ (by rw [Crew.writeGroup_width]; exact h), ih]
    cases nm with
    | h m =>
      simp only [Name.plus, Name.h.injEq]
      by_cases ha : has act lane = true
      · simp only [ha, and_true]
        by_cases h1 : m + w = n
        · subst h1; simp
        · simp only [h1, if_false]
          by_cases h2 : m ≤ n ∧ n < m + w
          · rw [if_pos h2, if_pos ⟨h2.1, by omega⟩]
          · rw [if_neg h2, if_neg (by omega)]
      · simp [ha]
    | _ => simp [Name.plus]

theorem Crew.val_s_writeGroup (c : Crew) (nm : Name) (w : Nat) (act : LaneMask) (f : Nat → Nat → Word) (n lane : Nat) :
    (c.writeGroup nm w act f).val (.s n) lane =
      match nm, lowest act with
      | .s m, some l =>
        if m ≤ n ∧ n < m + w ∧ act ≠ 0 ∧ n < c.scal.length then some (f l (n - m)) else c.val (.s n) lane
      | _, _ => c.val (.s n) lane := by
  induction w with
  | zero =>
    cases nm <;> cases lowest act <;> simp [Crew.writeGroup]
    omega
  | succ w ih =>
    have hs : (c.writeGroup nm w act f).scal.length = c.scal.length := by
      obtain ⟨r, sc, h, he, hl⟩ := c.writeGroup_rest nm w act f
      rw [he]; exact hl
    rw [Crew.writeGroup_succ, Crew.val_s_writeName, ih, hs]
    cases hl : lowest act with
    | none => cases nm <;> rfl
    | some l =>
      cases nm with
      | s m =>
        simp only [Name.plus, Name.s.injEq]
        by_cases ha : act ≠ 0 ∧ n < c.scal.length
        · simp only [ha, and_true, ne_eq, not_false_eq_true]
          by_cases h1 : m + w = n
          · subst h1; simp
          · simp only [h1, if_false]
            by_cases h2 : m ≤ n ∧ n < m + w
            · rw [if_pos h2, if_pos ⟨h2.1, by omega⟩]
            · rw [if_neg h2, if_neg (by omega)]
        · rw [if_neg (fun h => ha h.2), if_neg (fun h => ha h.2.2), if_neg (fun h => ha h.2.2)]
      | _ => simp [Name.plus]

/-! ## Frees -/

theorem Crew.val_v_free (c : Crew) (ns : List Nat) (n lane : Nat) :
    (c.free ns).val (.v n) lane = if n ∈ ns then none else c.val (.v n) lane := by
  simp only [Crew.val_v, Crew.free, find?_filter_names]
  split <;> rfl

/-! ## After an issue -/

theorem Crew.advance_lane (c : Crew) (i : Issue) (e : Entry) (n : Nat) :
    (c.advance i e).lane n = (c.lane n).map fun l =>
      if i.entry.isNone && has i.s n then
        { l with pc := i.pc + 4 * i.raw.len, run := (i.grd.orElse fun _ => l.run).bind Run.next, unres := [],
                 faultOn := none }
      else l := by
  unfold Crew.advance
  cases he : i.entry with
  | some e =>
    show c.lane n = _
    cases c.lane n <;> simp
  | none =>
    show ((c.mapLanes i.s _).tick i.s).lane n = _
    simp

/-- Advancing changes lanes, choice and pipeline alone. -/
theorem Crew.advance_rest (c : Crew) (i : Issue) (e : Entry) :
    ∃ lanes sel pipe, c.advance i e = { c with lanes := lanes, sel := sel, pipe := pipe } := by
  unfold Crew.advance
  cases i.entry <;> exact ⟨_, _, _, rfl⟩

theorem Crew.advance_sel (c : Crew) (i : Issue) (e : Entry) :
    (c.advance i e).sel = if i.entry.isSome then c.sel else c.sel.after i.yl i.elig i.chosen := by
  unfold Crew.advance
  cases i.entry <;> rfl

/-- Going past an issue ticks the windows, takes a re-injected entry off the queue, and resets what the issue had begun. -/
theorem Crew.advance_pipe (c : Crew) (i : Issue) (e : Entry) :
    (c.advance i e).pipe = { c.pipe with
      inflight := if i.entry.isSome then c.pipe.inflight else (c.tick i.s).pipe.inflight,
      reinj := if i.entry.isSome then c.pipe.reinj.drop 1 else c.pipe.reinj,
      issued := (c.advance i e).pipe.issued, park := (c.advance i e).pipe.park, serial := (c.advance i e).pipe.serial,
      stage := 0, desc := [] } := by
  unfold Crew.advance
  cases i.entry <;> rfl

theorem Crew.val_advance (c : Crew) (i : Issue) (e : Entry) (nm : Name) (lane : Nat) :
    (c.advance i e).val nm lane = c.val nm lane := by
  obtain ⟨l, se, p, h⟩ := c.advance_rest i e
  rw [h]; cases nm <;> rfl

end Sys2Proof.Machine
end

