-- ==== Sys2Proof/Laws/Wrote.lean ====
section
/-! SUPPORT. An issue that computes its destination leaves its crew as `WroteGroup` says. -/

namespace Sys2Proof.Machine

theorem Crew.val_v_spent (c : Crew) (i : Issue) (sh : Shape) (k : Bool) (n lane : Nat) :
    (c.spent i sh k).val (.v n) lane = if n ∈ i.frees c sh k then none else c.val (.v n) lane := by
  unfold Crew.spent Issue.frees
  split
  · simp
  · exact Crew.val_v_free _ _ _ _

/-- Frees change mappings and the pipeline's count of held registers alone. -/
theorem Crew.spent_rest (c : Crew) (i : Issue) (sh : Shape) (k : Bool) :
    ∃ regs held, c.spent i sh k = { c with regs := regs, pipe := { c.pipe with held := held } } := by
  unfold Crew.spent
  split
  · exact ⟨c.regs, c.pipe.held, rfl⟩
  · exact ⟨_, _, rfl⟩

theorem Crew.depthAt_congr {c d : Crew} (h : d.lanes = c.lanes) (m : LaneMask) : d.depthAt m = c.depthAt m := by
  have hl : d.lane = c.lane := by funext n; simp only [Crew.lane, h]
  simp only [Crew.depthAt, Crew.depth, hl, h]

theorem lowest_isSome {m : LaneMask} (h : m ≠ 0) : ∃ l, lowest m = some l := by
  cases hl : lowest m with
  | some l => exact ⟨l, rfl⟩
  | none =>
    exfalso
    refine h (mask_eq_zero fun n _ => ?_)
    cases hh : has m n with
    | false => rfl
    | true =>
      have := mem_lanesOf.mpr hh
      rw [lowest, List.head?_eq_none_iff] at hl
      rw [hl] at this
      cases this

theorem lowest_zero : lowest 0#64 = none := by
  rw [lowest, List.head?_eq_none_iff, List.eq_nil_iff_forall_not_mem]
  intro n h
  have := mem_lanesOf.mp h
  rw [has_zero] at this
  cases this

theorem mem_vNames_v {m w n : Nat} : n ∈ vNames (.v m) w ↔ m ≤ n ∧ n < m + w := by
  simp only [vNames, List.mem_map, List.mem_range]
  constructor
  · rintro ⟨k, hk, rfl⟩; omega
  · rintro ⟨h1, h2⟩; exact ⟨n - m, by omega, by omega⟩

theorem mem_keys {b w n : Nat} : n ∈ (List.range w).map (b + ·) ↔ b ≤ n ∧ n < b + w := by
  simp only [List.mem_map, List.mem_range]
  constructor
  · rintro ⟨k, hk, rfl⟩; omega
  · rintro ⟨h1, h2⟩; exact ⟨n - b, by omega, by omega⟩

/-- A crew whose registers come from the writes of one group after the frees, and whose lanes differ in predicates alone,
stands as `Wrote` says once it has moved on. -/
theorem wrote_of {c d0 : Crew} {i : Issue} {sh : Shape} {x : Writes} (e : Entry) (g : Nat → Lane → Lane)
    (hrest : d0 = { (c.spent i sh).writeGroup x.nm x.w i.act (fun l k => wordOf (x.value l) k) with
      lanes := d0.lanes, fpcr := x.fpcr })
    (hlane : ∀ n, d0.lane n = (c.lane n).map fun l => if has i.act n then g n l else l)
    (hg : ∀ n l, ∃ p, g n l = { l with preds := p })
    (hp : ∀ n l q, q < 48 → (g n l).pred q = x.pred n l q) :
    Wrote c (d0.advance i e) i sh x := by
  obtain ⟨regs, held, hsp⟩ := c.spent_rest i sh false
  have hw : (c.spent i sh).width = c.width := by rw [hsp]
  have hh : (c.spent i sh).hregs = c.hregs := by rw [hsp]
  have hs : (c.spent i sh).scal = c.scal := by rw [hsp]
  obtain ⟨r, sc, hr, hwr, hsc⟩ := (c.spent i sh).writeGroup_rest x.nm x.w i.act fun l k => wordOf (x.value l) k
  have hregs : d0.regs = ((c.spent i sh).writeGroup x.nm x.w i.act fun l k => wordOf (x.value l) k).regs := by rw [hrest]
  have hscal : d0.scal = ((c.spent i sh).writeGroup x.nm x.w i.act fun l k => wordOf (x.value l) k).scal := by rw [hrest]
  have hhreg : d0.hregs = ((c.spent i sh).writeGroup x.nm x.w i.act fun l k => wordOf (x.value l) k).hregs := by rw [hrest]
  have hrest' : d0 = { c with
      lanes := d0.lanes, regs := d0.regs, scal := d0.scal, hregs := d0.hregs, fpcr := x.fpcr,
      pipe := (c.spent i sh).pipe } := by
    rw [hrest, hwr, hsp]
  have hpipe := d0.advance_pipe i e
  have hsel := d0.advance_sel i e
  obtain ⟨ln, se, pi, had⟩ := d0.advance_rest i e
  have hv : ∀ n lane, (d0.advance i e).val (.v n) lane =
      ((c.spent i sh).writeGroup x.nm x.w i.act fun l k => wordOf (x.value l) k).val (.v n) lane := by
    intro n lane; rw [Crew.val_advance, Crew.val_v, Crew.val_v, hregs]
  have hhv : ∀ n lane, (d0.advance i e).val (.h n) lane =
      ((c.spent i sh).writeGroup x.nm x.w i.act fun l k => wordOf (x.value l) k).val (.h n) lane := by
    intro n lane; rw [Crew.val_advance, Crew.val_h, Crew.val_h, hhreg]
  have hsv : ∀ n lane, (d0.advance i e).val (.s n) lane =
      ((c.spent i sh).writeGroup x.nm x.w i.act fun l k => wordOf (x.value l) k).val (.s n) lane := by
    intro n lane; rw [Crew.val_advance, Crew.val_s, Crew.val_s, hscal]
  have hscl : (d0.advance i e).scal.length = (c.spent i sh).scal.length := by rw [had]; simp only [hscal, hwr, hsc]
  have hwid : (d0.advance i e).width = (c.spent i sh).width := by rw [had, hw, hrest']
  have hlane' : ∀ n, (d0.advance i e).lane n = (c.lane n).map fun l =>
      let l1 := if has i.act n then g n l else l
      if i.entry.isNone && has i.s n then
        { l1 with pc := i.pc + 4 * i.raw.len, run := (i.grd.orElse fun _ => l1.run).bind Run.next, unres := [],
                  faultOn := none }
      else l1 := by
    intro n; rw [Crew.advance_lane, hlane, Option.map_map]; rfl
  have hspp : (c.spent i sh).pipe = { c.pipe with held := (c.spent i sh).pipe.held } := by rw [hsp]
  generalize d0.advance i e = d1 at *
  obtain ⟨nm, w, f, pr, fp⟩ := x
  constructor
  · intro k hk lane hl ha
    replace hk : k < w := hk
    rw [hwid] at hl
    cases nm with
    | v n =>
      simp only [hv, Crew.val_v_writeGroup _ _ _ _ _ _ _ hl (has_lt ha)]
      rw [if_pos ⟨by omega, by omega, ha⟩]; congr 2 <;> omega
    | h n =>
      simp only [hhv, Crew.val_h_writeGroup _ _ _ _ _ _ _ hl]
      rw [if_pos ⟨by omega, by omega, ha⟩]; congr 2 <;> omega
    | s n =>
      intro hlt hlow
      rw [hscl] at hlt
      simp only [hsv, Crew.val_s_writeGroup, hlow]
      have h0 : i.act ≠ 0 := fun h0 => by rw [h0] at ha; exact absurd ha (by simp [has])
      rw [if_pos ⟨by omega, by omega, h0, hlt⟩]
      congr 2 <;> omega
    | _ => trivial
  · intro n lane hl h64 hn hk
    rw [hv, Crew.val_v_writeGroup _ _ _ _ _ _ _ (by rw [hw]; exact hl) h64, Crew.val_v_spent, if_neg hn]
    cases nm with
    | v m =>
      simp only
      rw [if_neg]
      rintro ⟨h1, h2, h3⟩
      obtain hk | hk := hk
      · exact hk (mem_vNames_v.mpr ⟨h1, h2⟩)
      · rw [h3] at hk; cases hk
    | _ => rfl
  · intro n lane hl h64 hn hk
    rw [hv, Crew.val_v_writeGroup _ _ _ _ _ _ _ (by rw [hw]; exact hl) h64, Crew.val_v_spent, if_pos hn]
    cases nm with
    | v m =>
      simp only
      rw [if_neg]
      rintro ⟨h1, h2, h3⟩
      obtain hk | hk := hk
      · exact hk (mem_vNames_v.mpr ⟨h1, h2⟩)
      · rw [h3] at hk; cases hk
    | _ => rfl
  · intro n lane hl hk
    rw [hhv, Crew.val_h_writeGroup _ _ _ _ _ _ _ (by rw [hw]; exact hl)]
    have hc : (c.spent i sh).val (.h n) lane = c.val (.h n) lane := by simp only [Crew.val_h, hh]
    cases nm with
    | h m =>
      simp only [hc]
      rw [if_neg]
      rintro ⟨h1, h2, h3⟩
      obtain hk | hk := hk
      · exact hk (show _ ∈ (List.range w).map (_ + ·) from mem_keys.mpr ⟨by omega, by omega⟩)
      · rw [h3] at hk; cases hk
    | _ => exact hc
  · intro n lane hk
    rw [hsv, Crew.val_s_writeGroup]
    have hc : (c.spent i sh).val (.s n) lane = c.val (.s n) lane := by simp only [Crew.val_s, hs]
    cases nm with
    | s m =>
      cases hl : lowest i.act with
      | none => exact hc
      | some l =>
        simp only [hc]
        rw [if_neg]
        rintro ⟨h1, h2, h3, _⟩
        obtain hk | hk := hk
        · exact hk (show _ ∈ (List.range w).map (_ + ·) from mem_keys.mpr ⟨by omega, by omega⟩)
        · exact h3 hk
    | _ => cases lowest i.act <;> exact hc
  · intro n l hn
    refine ⟨_, by rw [hlane', hn]; rfl, fun q hq => ?_⟩
    by_cases ha : has i.act n = true <;> by_cases hb : (i.entry.isNone && has i.s n) = true <;>
      simp only [ha, hb, if_true, Bool.false_eq_true, if_false] <;> first | exact hp n l q hq | rfl
  · rw [had, hrest']
  · intro n
    rw [hlane']
    cases c.lane n with
    | none => rfl
    | some l =>
      obtain ⟨p, hgp⟩ := hg n l
      by_cases ha : has i.act n = true <;> by_cases hb : (i.entry.isNone && has i.s n) = true <;> simp [ha, hb, hgp]
  · intro n l l' hl hd
    rw [hlane', hl] at hd
    obtain ⟨p, hgp⟩ := hg n l
    cases Option.some.inj hd
    by_cases ha : has i.act n = true <;> by_cases hb : (i.entry.isNone && has i.s n) = true <;> simp [ha, hb, hgp]
  · rw [had, hrest']
  · rw [hsel, hrest']
  · rw [hpipe, hrest']
    simp only [Crew.tick]
    rw [hspp]
  · rw [hpipe, hrest', hspp]
    exact id

end Sys2Proof.Machine
end

