-- ==== Sys2Proof/Laws/Computes.lean ====
section
/-! SUPPORT. Instructions that compute registers, predicates and flags from their operands compute as `Computes` says. -/

namespace Sys2Proof.Machine

@[simp] theorem Crew.lane_spent (c : Crew) (i : Issue) (sh : Shape) (k : Bool) (n : Nat) :
    (c.spent i sh k).lane n = c.lane n := by
  obtain ⟨r, h, he⟩ := c.spent_rest i sh k
  rw [he]; rfl

@[simp] theorem Crew.lane_writeGroup (c : Crew) (nm : Name) (w : Nat) (act : LaneMask) (f : Nat → Nat → Word) (n : Nat) :
    (c.writeGroup nm w act f).lane n = c.lane n := by
  obtain ⟨r, sc, h, he, _⟩ := c.writeGroup_rest nm w act f
  rw [he]; rfl

theorem Crew.depthAt_spent (c : Crew) (i : Issue) (sh : Shape) (k : Bool) (m : LaneMask) :
    (c.spent i sh k).depthAt m = c.depthAt m := by
  obtain ⟨r, h, he⟩ := c.spent_rest i sh k
  rw [he]; rfl

/-- Writing the destination is writing the group that `toReg` names. -/
theorem writeDst_spent (c : Crew) (i : Issue) (sh : Shape) (f : Nat → DWord) :
    (c.spent i sh).writeDst i sh f =
      (c.spent i sh).writeGroup (toReg sh c i f).nm (toReg sh c i f).w i.act fun l k => wordOf (f l) k := by
  obtain ⟨r, h, he⟩ := c.spent_rest i sh false
  have hwb : (c.spent i sh).wb = c.wb := by rw [he]
  unfold Crew.writeDst toReg Issue.inHandler
  cases sh.dst with
  | none => simp [Crew.writeGroup]
  | some d => simp [Crew.depthAt_spent, hwb]

theorem setPred_pred (l : Lane) (p q : Nat) (b : Bool) (hq : q < 48) : (l.setPred p b).pred q = setOne p b l q := by
  unfold Lane.setPred setOne Lane.pred
  by_cases hp : p = 47
  · subst hp; simp
  · by_cases hqp : q = p
    · subst hqp
      cases b <;> simp [hp, hq]
    · have h3 : (!decide (q < p) && decide (q - p = 0)) = false := by
        by_cases h : q < p
        · simp [h]
        · simp [h, show q - p ≠ 0 by omega]
      cases b
      · have h2 : (decide (q < p) || !decide (q - p = 0)) = true := by
          by_cases h : q < p
          · simp [h]
          · simp [h, show q - p ≠ 0 by omega]
        simp [hp, hqp, hq]
        rw [h2, Bool.and_true]
      · simp [hp, hqp, hq, h3]

/-- An instruction that checks, computes and writes computes what it writes. `w` gives the crew that it makes. -/
theorem computes_of {ins : Instr} {sh : Shape} {bad : State → Crew → Issue → Bool} (w : Opn → Crew → Issue → Crew)
    (x : Crew → Issue → Opn → Writes) (g : Crew → Issue → Opn → Nat → Lane → Lane)
    (hx : ∀ s, exec ins s = Act.run (do let o ← begin' sh bad false false; finish sh o (w o)) s)
    (hw : ∀ (c : Crew) (i : Issue) (o : Opn), ∃ ls,
      w o (c.spent i sh) i =
        { (c.spent i sh).writeGroup (x c i o).nm (x c i o).w i.act (fun l k => wordOf ((x c i o).value l) k) with
          lanes := ls, fpcr := (x c i o).fpcr })
    (hl : ∀ (c : Crew) (i : Issue) (o : Opn) n, (w o (c.spent i sh) i).lane n =
      (c.lane n).map fun l => if has i.act n then g c i o n l else l)
    (hg : ∀ (c : Crew) (i : Issue) (o : Opn) n l, ∃ p, g c i o n l = { l with preds := p })
    (hp : ∀ (c : Crew) (i : Issue) (o : Opn) n l q, q < 48 → (g c i o n l).pred q = (x c i o).pred n l q) :
    Computes ins sh x bad := by
  intro s i c h
  refine ⟨_, by rw [hx, begin_finish_next h, State.retired], ?_⟩
  obtain ⟨ls, hls⟩ := hw c i (i.opn c sh)
  exact wrote_of _ (g c i (i.opn c sh)) (by rw [hls]) (hl c i _) (hg c i _) (hp c i _)

theorem fpcr_writeGroup_spent (c : Crew) (i : Issue) (sh : Shape) (nm : Name) (w : Nat) (act : LaneMask)
    (f : Nat → Nat → Word) : ((c.spent i sh).writeGroup nm w act f).fpcr = c.fpcr := by
  obtain ⟨r, sc, h, he, _⟩ := (c.spent i sh).writeGroup_rest nm w act f
  obtain ⟨rs, hd, hsp⟩ := c.spent_rest i sh false
  rw [he, hsp]

/-- A destination alone. -/
theorem computes_dst {ins : Instr} {sh : Shape} {bad : State → Crew → Issue → Bool}
    (f : Crew → Issue → Opn → Nat → DWord)
    (hx : ∀ s, exec ins s =
      Act.run (do let o ← begin' sh bad false false; finish sh o fun c i => c.writeDst i sh (f c i o)) s)
    (hf : ∀ c i o, f (c.spent i sh) i o = f c i o) :
    Computes ins sh (fun c i o => toReg sh c i (f c i o)) bad := by
  refine computes_of (fun o c i => c.writeDst i sh (f c i o)) _ (fun _ _ _ _ l => l) hx ?_ ?_ ?_ ?_
  · intro c i o
    refine ⟨((c.spent i sh).writeDst i sh (f (c.spent i sh) i o)).lanes, ?_⟩
    rw [hf, writeDst_spent]
    have : (toReg sh c i (f c i o)).fpcr = c.fpcr := rfl
    rw [this, ← fpcr_writeGroup_spent]
    rfl
  · intro c i o n
    rw [hf, writeDst_spent]
    simp
  · intro c i o n l; exact ⟨l.preds, rfl⟩
  · intro c i o n l q _; rfl

theorem fpcr_spent (c : Crew) (i : Issue) (sh : Shape) (k : Bool) : (c.spent i sh k).fpcr = c.fpcr := by
  obtain ⟨rs, hd, hsp⟩ := c.spent_rest i sh k
  rw [hsp]

/-- A destination and flags, each from the crew and all operands. -/
theorem computes_flags {ins : Instr} {sh : Shape} {bad : State → Crew → Issue → Bool}
    (f : Crew → Issue → Opn → Nat → DWord) (fl : Crew → Issue → Opn → Nat → Flags)
    (hx : ∀ s, exec ins s =
      Act.run (do
        let o ← begin' sh bad false false
        finish sh o fun c i => (c.writeDst i sh (f c i o)).mergeFlags i.act (fl c i o)) s)
    (hf : ∀ c i o, f (c.spent i sh) i o = f c i o) (hfl : ∀ c i o, fl (c.spent i sh) i o = fl c i o) :
    Computes ins sh (fun c i o => { toReg sh c i (f c i o) with fpcr := mergedFpcr c i (fl c i o) }) bad := by
  refine computes_of (fun o c i => (c.writeDst i sh (f c i o)).mergeFlags i.act (fl c i o)) _ (fun _ _ _ _ l => l) hx
    ?_ ?_ ?_ ?_
  · intro c i o
    refine ⟨((c.spent i sh).writeDst i sh (f c i o)).lanes, ?_⟩
    simp only [hf, hfl, writeDst_spent, Crew.mergeFlags, fpcr_writeGroup_spent]
    rfl
  · intro c i o n
    simp only [hf, hfl, writeDst_spent]
    show ((c.spent i sh).writeGroup _ _ _ _).lane n = _
    simp
  · intro c i o n l; exact ⟨l.preds, rfl⟩
  · intro c i o n l q _; rfl

/-- A lane-by-lane floating-point instruction. -/
theorem computes_fp {ins : Instr} {sh : Shape} {rm : Rm} {f : FpEnv → Opn → Nat → DWord × Flags}
    (hx : ∀ s, exec ins s = Act.run (fpLanes sh rm f) s) : GivesFp ins sh rm f :=
  computes_flags (fun c _ o l => (f (envOf c.fpcr rm) o l).1) (fun c _ o l => (f (envOf c.fpcr rm) o l).2) hx
    (fun c i o => by simp only [fpcr_spent]) (fun c i o => by simp only [fpcr_spent])

/-- Predicates alone. -/
theorem computes_preds {ins : Instr} {sh : Shape} {bad : State → Crew → Issue → Bool}
    (g : Crew → Issue → Opn → Nat → Lane → Lane) (pr : Crew → Issue → Opn → Nat → Lane → Nat → Bool)
    (hx : ∀ s, exec ins s =
      Act.run (do
        let o ← begin' sh bad false false
        finish sh o fun c i => c.mapLanes i.act (g c i o)) s)
    (hgc : ∀ c i o, g (c.spent i sh) i o = g c i o)
    (hg : ∀ (c : Crew) (i : Issue) (o : Opn) n l, ∃ p, g c i o n l = { l with preds := p })
    (hp : ∀ (c : Crew) (i : Issue) (o : Opn) n l q, q < 48 → (g c i o n l).pred q = pr c i o n l q) :
    Computes ins sh (fun c i o => ⟨.zr, 0, fun _ => 0, pr c i o, c.fpcr⟩) bad := by
  refine computes_of (fun o c i => c.mapLanes i.act (g c i o)) _ g hx ?_ ?_ hg hp
  · intro c i o
    refine ⟨((c.spent i sh).mapLanes i.act (g c i o)).lanes, ?_⟩
    simp only [hgc, ← fpcr_spent c i sh false]
    rfl
  · intro c i o n
    simp only [hgc]
    simp

theorem setPred_form (l : Lane) (p : Nat) (b : Bool) : ∃ q, l.setPred p b = { l with preds := q } := by
  unfold Lane.setPred
  split
  · exact ⟨l.preds, rfl⟩
  · exact ⟨_, rfl⟩

/-- One predicate alone. -/
theorem computes_pred {ins : Instr} {sh : Shape} {bad : State → Crew → Issue → Bool} (p : Nat)
    (f : Crew → Issue → Opn → Nat → Lane → Bool)
    (hx : ∀ s, exec ins s =
      Act.run (do let o ← begin' sh bad false false; finish sh o fun c i => c.writePred i p (f c i o)) s)
    (hf : ∀ c i o, f (c.spent i sh) i o = f c i o) :
    Computes ins sh (fun c i o => toPred c p (f c i o)) bad :=
  computes_preds (fun c i o n l => l.setPred p (f c i o n l)) (fun c i o n l q => setOne p (f c i o n l) l q) hx
    (fun c i o => by simp only [hf]) (fun _ _ _ _ _ => setPred_form _ _ _) (fun _ _ _ _ _ _ hq => setPred_pred _ _ _ _ hq)

/-- A destination and one predicate. -/
theorem computes_dst_pred {ins : Instr} {sh : Shape} {bad : State → Crew → Issue → Bool} (p : Nat)
    (f : Crew → Issue → Opn → Nat → DWord) (g : Crew → Issue → Opn → Nat → Lane → Bool)
    (hx : ∀ s, exec ins s =
      Act.run (do
        let o ← begin' sh bad false false
        finish sh o fun c i => (c.writeDst i sh (f c i o)).writePred i p (g c i o)) s)
    (hf : ∀ c i o, f (c.spent i sh) i o = f c i o) (hg : ∀ c i o, g (c.spent i sh) i o = g c i o) :
    Computes ins sh (fun c i o =>
      { toReg sh c i (f c i o) with pred := fun n l q => setOne p (g c i o n l) l q }) bad := by
  refine computes_of (fun o c i => (c.writeDst i sh (f c i o)).writePred i p (g c i o)) _
    (fun c i o n l => l.setPred p (g c i o n l)) hx ?_ ?_ (fun _ _ _ _ _ => setPred_form _ _ _)
    (fun _ _ _ _ _ _ hq => setPred_pred _ _ _ _ hq)
  · intro c i o
    refine ⟨(((c.spent i sh).writeDst i sh (f c i o)).writePred i p (g c i o)).lanes, ?_⟩
    have : (toReg sh c i (f c i o)).fpcr = c.fpcr := rfl
    simp only [hf, hg, writeDst_spent, this, ← fpcr_writeGroup_spent c i sh (toReg sh c i (f c i o)).nm
      (toReg sh c i (f c i o)).w i.act fun l k => wordOf (f c i o l) k]
    rfl
  · intro c i o n
    simp only [hf, hg, writeDst_spent]
    show (((c.spent i sh).writeGroup _ _ _ _).mapLanes i.act _).lane n = _
    simp

end Sys2Proof.Machine
end

