-- ==== Sys2Proof/Laws/Mem.lean ====
section
/-! SUPPORT. The laws of memory: reads after writes, the canonical form and what keeps it, and numbers as bytes. -/

namespace Sys2Proof.Machine

/-! ## Reads after writes -/

theorem Mem.get_cons (p : Host.Cell) (m : Mem) (a : Nat) : Mem.get (p :: m) a = if p.1 = a then p.2 else Mem.get m a := rfl

theorem Mem.get_filter (q : Nat → Bool) (m : Mem) (a : Nat) :
    Mem.get (m.filter fun p => q p.1) a = if q a then Mem.get m a else 0 := by
  induction m with
  | nil => simp [Mem.get]
  | cons p m ih =>
    by_cases h : p.1 = a
    · cases hq : q a <;> simp [Mem.get_cons, h, hq, ih]
    · cases hq : q p.1 <;> simp [Mem.get_cons, h, hq, ih]

theorem Mem.get_put (m : Mem) (k : Nat) (b : Byte) (a : Nat) (hk : ∀ p ∈ m, p.1 ≠ k) :
    (m.put k b).get a = if k = a then b else m.get a := by
  induction m with
  | nil => rfl
  | cons p m ih =>
    obtain ⟨x, y⟩ := p
    have hx : x ≠ k := hk _ (List.mem_cons_self ..)
    unfold Mem.put
    split
    · rfl
    · rw [Mem.get_cons, ih fun q hq => hk q (List.mem_cons_of_mem _ hq), Mem.get_cons]
      by_cases h : x = a
      · simp [h, show k ≠ a from fun e => hx (h.trans e.symm)]
      · simp [h]

/-- A read after a write: the byte written, and elsewhere what was there. -/
@[simp] theorem Mem.get_set (m : Mem) (k : Nat) (b : Byte) (a : Nat) : (m.set k b).get a = if k = a then b else m.get a := by
  have hf : Mem.get (m.filter fun p => p.1 != k) a = if (a != k) = true then m.get a else 0 := Mem.get_filter (fun x => x != k) m a
  unfold Mem.set
  split
  · rename_i hb
    by_cases h : k = a
    · simp [h, hb]
      simpa [h] using hf
    · simpa [h, Ne.symm h] using hf
  · rw [Mem.get_put _ _ _ _ (by simp), hf]
    by_cases h : k = a
    · simp [h]
    · simp [h, Ne.symm h]

theorem Mem.setAll_nil (m : Mem) : m.setAll [] = m := rfl
theorem Mem.setAll_cons (m : Mem) (p : Nat × Byte) (bs : List (Nat × Byte)) : m.setAll (p :: bs) = (m.set p.1 p.2).setAll bs := rfl
theorem Mem.setAll_append (m : Mem) (bs cs : List (Nat × Byte)) : m.setAll (bs ++ cs) = (m.setAll bs).setAll cs :=
  List.foldl_append ..

/-- A read after writes: the last byte written there, and elsewhere what was there. -/
theorem Mem.get_setAll (m : Mem) (bs : List (Nat × Byte)) (a : Nat) :
    (m.setAll bs).get a = match (bs.filter fun p => p.1 == a).getLast? with
      | some p => p.2
      | none => m.get a := by
  induction bs generalizing m with
  | nil => rfl
  | cons p bs ih =>
    rw [Mem.setAll_cons, ih, Mem.get_set, List.filter_cons]
    by_cases h : p.1 = a
    · rw [if_pos h, if_pos (by simpa using h), List.getLast?_cons]
      cases (bs.filter fun p => p.1 == a).getLast? <;> rfl
    · rw [if_neg h, if_neg (by simpa using h)]

theorem Mem.get_setAll_other (m : Mem) (bs : List (Nat × Byte)) (a : Nat) (h : ∀ p ∈ bs, p.1 ≠ a) : (m.setAll bs).get a = m.get a := by
  rw [Mem.get_setAll, List.filter_eq_nil_iff.mpr fun p hp => by simpa using h p hp]
  rfl

theorem mem_place {a : Nat} {bs : List Byte} {p : Nat × Byte} : p ∈ place a bs ↔ ∃ i, bs[i]? = some p.2 ∧ p.1 = a + i := by
  obtain ⟨x, y⟩ := p
  simp only [place, List.mem_mapIdx, Prod.mk.injEq]
  constructor
  · rintro ⟨i, hi, h1, h2⟩
    exact ⟨i, by simp [hi, h2], h1.symm⟩
  · rintro ⟨i, h1, h2⟩
    obtain ⟨hi, h3⟩ := List.getElem?_eq_some_iff.mp h1
    exact ⟨i, hi, h2.symm, h3⟩

theorem Mem.get_setAll_place (m : Mem) (a : Nat) (bs : List Byte) (x : Nat) :
    (m.setAll (place a bs)).get x = if a ≤ x ∧ x < a + bs.length then bs.getD (x - a) 0 else m.get x := by
  induction bs generalizing m a with
  | nil => rw [if_neg (by simp)]; rfl
  | cons b bs ih =>
    have hp : place a (b :: bs) = (a, b) :: place (a + 1) bs := by
      simp only [place, List.mapIdx_cons, Nat.add_zero]
      congr 1
      congr 1
      funext i c
      rw [Nat.add_assoc, Nat.add_comm 1 i]
    rw [hp, Mem.setAll_cons, ih, Mem.get_set, List.length_cons]
    by_cases h : a = x
    · rw [if_neg (by omega), if_pos h, if_pos (by omega), h, Nat.sub_self]; rfl
    · by_cases h2 : a + 1 ≤ x ∧ x < a + 1 + bs.length
      · rw [if_pos h2, if_pos (by omega), show x - a = (x - (a + 1)) + 1 by omega]; rfl
      · rw [if_neg h2, if_neg h, if_neg (by omega)]

/-- Bytes are read back where they were placed. -/
theorem Mem.read_setAll_place (m : Mem) (a : Nat) (bs : List Byte) : (m.setAll (place a bs)).read a bs.length = bs := by
  apply List.ext_getElem
  · simp [Mem.read]
  · intro i h1 h2
    simp only [Mem.read, List.getElem_map, List.getElem_range, Mem.get_setAll_place]
    rw [if_pos (by omega), Nat.add_sub_cancel_left]
    simp [List.getD, h2]

/-! ## Numbers as bytes (R4) -/

@[simp] theorem leBytes_length (n v : Nat) : (leBytes n v).length = n := by
  induction n generalizing v with
  | zero => rfl
  | succ n ih => simp [leBytes, ih]

theorem leNat_leBytes (n v : Nat) : leNat (leBytes n v) = v % 256 ^ n := by
  induction n generalizing v with
  | zero => simp [leBytes, leNat, Nat.mod_one]
  | succ n ih =>
    simp only [leBytes, leNat, ih, BitVec.toNat_ofNat]
    show v % 256 + 256 * (v / 256 % 256 ^ n) = v % 256 ^ (n + 1)
    rw [Nat.add_comm n 1, Nat.pow_add, Nat.pow_one, Nat.mod_mul]

theorem leNat_lt (bs : List Byte) : leNat bs < 256 ^ bs.length := by
  induction bs with
  | nil => exact Nat.one_pos
  | cons b bs ih =>
    have := b.isLt
    simp only [leNat, List.length_cons, Nat.pow_succ]
    omega

/-! ## The canonical form -/

theorem Mem.wf_iff (m : Mem) : m.wf = true ↔ (m.Pairwise fun p q => p.1 < q.1) ∧ ∀ p ∈ m, p.2 ≠ 0 := by
  induction m with
  | nil => simp [Mem.wf]
  | cons p m ih =>
    obtain ⟨a, b⟩ := p
    cases m with
    | nil => simp [Mem.wf]
    | cons q m =>
      obtain ⟨a', b'⟩ := q
      simp only [Mem.wf, Bool.and_eq_true, bne_iff_ne, decide_eq_true_iff, ih, List.pairwise_cons, List.mem_cons, forall_eq_or_imp]
      constructor
      · rintro ⟨⟨h1, h2⟩, ⟨h3, h4⟩, h5, h6⟩
        exact ⟨⟨⟨h2, fun x hx => Nat.lt_trans h2 (h3 x hx)⟩, h3, h4⟩, h1, h5, h6⟩
      · rintro ⟨⟨⟨h2, -⟩, h3, h4⟩, h1, h5, h6⟩
        exact ⟨⟨h1, h2⟩, ⟨h3, h4⟩, h5, h6⟩

theorem Mem.wf_filter (m : Mem) (q : Host.Cell → Bool) (h : m.wf = true) : Mem.wf (m.filter q) = true := by
  rw [Mem.wf_iff] at h ⊢
  exact ⟨h.1.filter _, fun p hp => h.2 p (List.mem_filter.mp hp).1⟩

theorem Mem.mem_put (m : Mem) (k : Nat) (b : Byte) (p : Host.Cell) : p ∈ m.put k b ↔ p = (k, b) ∨ p ∈ m := by
  induction m with
  | nil => simp [Mem.put]
  | cons q m ih =>
    unfold Mem.put
    split
    · simp
    · simp only [List.mem_cons, ih]
      constructor
      · rintro (h | h | h)
        · exact .inr (.inl h)
        · exact .inl h
        · exact .inr (.inr h)
      · rintro (h | h | h)
        · exact .inr (.inl h)
        · exact .inl h
        · exact .inr (.inr h)

theorem Mem.wf_put (m : Mem) (k : Nat) (b : Byte) (h : m.wf = true) (hb : b ≠ 0) (hk : ∀ p ∈ m, p.1 ≠ k) : (m.put k b).wf = true := by
  rw [Mem.wf_iff] at h ⊢
  refine ⟨?_, fun p hp => ?_⟩
  · have hs := h.1
    clear h
    induction m with
    | nil => exact List.pairwise_singleton ..
    | cons q m ih =>
      obtain ⟨a, x⟩ := q
      have ha : a ≠ k := hk _ (List.mem_cons_self ..)
      rw [List.pairwise_cons] at hs
      unfold Mem.put
      split
      · rename_i hka
        refine List.pairwise_cons.mpr ⟨fun p hp => ?_, List.pairwise_cons.mpr hs⟩
        rcases List.mem_cons.mp hp with rfl | hp
        · exact hka
        · exact Nat.lt_trans hka (hs.1 p hp)
      · rename_i hka
        refine List.pairwise_cons.mpr ⟨fun p hp => ?_, ih (fun p hp => hk p (List.mem_cons_of_mem _ hp)) hs.2⟩
        rcases (Mem.mem_put m k b p).mp hp with rfl | hp
        · exact Nat.lt_of_le_of_ne (Nat.le_of_not_lt hka) ha
        · exact hs.1 p hp
  · rcases (Mem.mem_put m k b p).mp hp with rfl | hp
    · exact hb
    · exact h.2 p hp

/-- Every write keeps the canonical form. -/
theorem Mem.wf_set (m : Mem) (k : Nat) (b : Byte) (h : m.wf = true) : (m.set k b).wf = true := by
  unfold Mem.set
  split
  · exact Mem.wf_filter m _ h
  · exact Mem.wf_put _ _ _ (Mem.wf_filter m _ h) ‹_› (by simp)

theorem Mem.wf_setAll (m : Mem) (bs : List (Nat × Byte)) (h : m.wf = true) : (m.setAll bs).wf = true := by
  induction bs generalizing m with
  | nil => exact h
  | cons p bs ih => exact ih _ (Mem.wf_set m _ _ h)

/-- A memory in canonical form lists exactly the addresses whose byte is not 0. -/
theorem Mem.mem_iff_get (m : Mem) (h : m.wf = true) (a : Nat) (b : Byte) : (a, b) ∈ m ↔ m.get a = b ∧ b ≠ 0 := by
  rw [Mem.wf_iff] at h
  induction m with
  | nil => simp only [List.not_mem_nil, Mem.get, false_iff]; rintro ⟨rfl, h⟩; exact h rfl
  | cons p m ih =>
    obtain ⟨x, y⟩ := p
    have hs := List.pairwise_cons.mp h.1
    have ih := ih ⟨hs.2, fun p hp => h.2 p (List.mem_cons_of_mem _ hp)⟩
    have hy : y ≠ 0 := h.2 _ (List.mem_cons_self ..)
    rw [List.mem_cons, Mem.get_cons, ih, Prod.mk.injEq]
    by_cases hx : x = a
    · subst hx
      simp only [true_and, if_true]
      constructor
      · rintro (rfl | ⟨h1, h2⟩)
        · exact ⟨rfl, hy⟩
        · exact absurd (hs.1 (x, b) (ih.mpr ⟨h1, h2⟩)) (Nat.lt_irrefl x)
      · rintro ⟨rfl, -⟩
        exact .inl rfl
    · simp [hx, Ne.symm hx]

/-- Memories in canonical form that read alike are equal. -/
theorem Mem.ext (m n : Mem) (hm : m.wf = true) (hn : n.wf = true) (h : ∀ a, m.get a = n.get a) : m = n := by
  have key : ∀ p, p ∈ m ↔ p ∈ n := fun ⟨a, b⟩ => by rw [Mem.mem_iff_get m hm, Mem.mem_iff_get n hn, h]
  have h1 := (Mem.wf_iff m).mp hm
  have h2 := (Mem.wf_iff n).mp hn
  have nodup (l : Mem) (hl : l.Pairwise fun p q => p.1 < q.1) : l.Nodup :=
    hl.imp fun h e => absurd (congrArg Prod.fst e ▸ h) (Nat.lt_irrefl _)
  exact ((List.perm_ext_iff_of_nodup (nodup m h1.1) (nodup n h2.1)).mpr key).eq_of_pairwise
    (fun _ _ _ _ h h' => absurd (Nat.lt_trans h h') (Nat.lt_irrefl _)) h1.1 h2.1

theorem reset_mem_wf : State.reset.mem.cells.wf = true := rfl

end Sys2Proof.Machine
end

