-- ==== Sys2Proof/Laws/PerInstr.lean ====
section
/-! SUPPORT. One lemma per instruction: its encoding is at most three words long, literal included (R48, R51, R54). -/

namespace Sys2Proof.Laws.EncodedLen

/-- The encoding of an instruction is at most three words long. -/
def Statement (i : Instr) : Prop := (encode i).length ≤ 3

theorem litWords_le (rs : List Rn) : (litWords rs).length ≤ 1 := by
  induction rs with
  | nil => exact Nat.zero_le 1
  | cons r rs ih =>
    unfold litWords
    split
    · exact Nat.le_refl 1
    · exact ih

theorem one_le {w : Nat} (rs : List Rn) : (w :: litWords rs).length ≤ 3 := Nat.succ_le_succ (Nat.le_succ_of_le (litWords_le rs))

theorem two_le {w x : Nat} (rs : List Rn) : ([w, x] ++ litWords rs).length ≤ 3 := Nat.succ_le_succ (Nat.succ_le_succ (litWords_le rs))

theorem encPosLen_le (op d : Nat) (a b : Src) (s : Nat) (p : PosLen) : (encPosLen op d a b s p).length ≤ 3 := by
  cases p with
  | reg c => exact two_le _
  | imm _ _ => exact two_le _

theorem nop : Statement .nop := Nat.le_add_left 1 2
theorem mov (x0 x1) : Statement (.mov x0 x1) := one_le _
theorem movi (x0 x1) : Statement (.movi x0 x1) := Nat.le_add_left 1 2
theorem sel (x0 x1 x2 x3 x4) : Statement (.sel x0 x1 x2 x3 x4) := two_le _
theorem iadd (x0 x1 x2) : Statement (.iadd x0 x1 x2) := one_le _
theorem isub (x0 x1 x2) : Statement (.isub x0 x1 x2) := one_le _
theorem iaddi (x0 x1 x2 x3) : Statement (.iaddi x0 x1 x2 x3) := one_le _
theorem imul (x0 x1 x2) : Statement (.imul x0 x1 x2) := one_le _
theorem imulh (x0 x1 x2 x3) : Statement (.imulh x0 x1 x2 x3) := two_le _
theorem imad (x0 x1 x2 x3) : Statement (.imad x0 x1 x2 x3) := two_le _
theorem imadw (x0 x1 x2 x3 x4) : Statement (.imadw x0 x1 x2 x3 x4) := two_le _
theorem idiv (x0 x1 x2 x3 x4 x5 x6) : Statement (.idiv x0 x1 x2 x3 x4 x5 x6) := two_le _
theorem imin (x0 x1 x2 x3 x4) : Statement (.imin x0 x1 x2 x3 x4) := two_le _
theorem imax (x0 x1 x2 x3 x4) : Statement (.imax x0 x1 x2 x3 x4) := two_le _
theorem abs (x0 x1) : Statement (.abs x0 x1) := one_le _
theorem neg (x0 x1) : Statement (.neg x0 x1) := one_le _
theorem popc (x0 x1) : Statement (.popc x0 x1) := one_le _
theorem clz (x0 x1) : Statement (.clz x0 x1) := one_le _
theorem ctz (x0 x1) : Statement (.ctz x0 x1) := one_le _
theorem brev (x0 x1) : Statement (.brev x0 x1) := one_le _
theorem not (x0 x1) : Statement (.not x0 x1) := one_le _
theorem sx8 (x0 x1) : Statement (.sx8 x0 x1) := one_le _
theorem sx16 (x0 x1) : Statement (.sx16 x0 x1) := one_le _
theorem zx8 (x0 x1) : Statement (.zx8 x0 x1) := one_le _
theorem zx16 (x0 x1) : Statement (.zx16 x0 x1) := one_le _
theorem sx32 (x0 x1) : Statement (.sx32 x0 x1) := one_le _
theorem abs64 (x0 x1) : Statement (.abs64 x0 x1) := one_le _
theorem neg64 (x0 x1) : Statement (.neg64 x0 x1) := one_le _
theorem popc64 (x0 x1) : Statement (.popc64 x0 x1) := one_le _
theorem clz64 (x0 x1) : Statement (.clz64 x0 x1) := one_le _
theorem ctz64 (x0 x1) : Statement (.ctz64 x0 x1) := one_le _
theorem brev64 (x0 x1) : Statement (.brev64 x0 x1) := one_le _
theorem not64 (x0 x1) : Statement (.not64 x0 x1) := one_le _
theorem icmp (x0 x1 x2 x3 x4 x5 x6) : Statement (.icmp x0 x1 x2 x3 x4 x5 x6) := two_le _
theorem iset (x0 x1 x2 x3 x4 x5 x6) : Statement (.iset x0 x1 x2 x3 x4 x5 x6) := two_le _
theorem and (x0 x1 x2) : Statement (.and x0 x1 x2) := one_le _
theorem or (x0 x1 x2) : Statement (.or x0 x1 x2) := one_le _
theorem xor (x0 x1 x2) : Statement (.xor x0 x1 x2) := one_le _
theorem andn (x0 x1 x2) : Statement (.andn x0 x1 x2) := one_le _
theorem lut3 (x0 x1 x2 x3 x4) : Statement (.lut3 x0 x1 x2 x3 x4) := two_le _
theorem shl (x0 x1 x2) : Statement (.shl x0 x1 x2) := one_le _
theorem shr (x0 x1 x2) : Statement (.shr x0 x1 x2) := one_le _
theorem sar (x0 x1 x2) : Statement (.sar x0 x1 x2) := one_le _
theorem rot (x0 x1 x2) : Statement (.rot x0 x1 x2) := one_le _
theorem fsh (x0 x1 x2 x3 x4 x5) : Statement (.fsh x0 x1 x2 x3 x4 x5) := by cases x3 <;> first | exact two_le _ | exact Nat.le_succ 2
theorem bfx (x0 x1 x2 x3) : Statement (.bfx x0 x1 x2 x3) := encPosLen_le ..
theorem bfi (x0 x1 x2 x3) : Statement (.bfi x0 x1 x2 x3) := encPosLen_le ..
theorem lea (x0 x1 x2 x3 x4 x5) : Statement (.lea x0 x1 x2 x3 x4 x5) := two_le _
theorem idot4 (x0 x1 x2 x3 x4 x5 x6) : Statement (.idot4 x0 x1 x2 x3 x4 x5 x6) := two_le _
theorem plog (x0 x1 x2 x3 x4) : Statement (.plog x0 x1 x2 x3 x4) := Nat.le_succ 2
theorem pmovGet0 (x0) : Statement (.pmovGet0 x0) := Nat.le_add_left 1 2
theorem pmovGet1 (x0) : Statement (.pmovGet1 x0) := Nat.le_add_left 1 2
theorem pmovSet0 (x0) : Statement (.pmovSet0 x0) := one_le _
theorem pmovSet1 (x0) : Statement (.pmovSet1 x0) := one_le _
theorem pmovPredToReg (x0 x1) : Statement (.pmovPredToReg x0 x1) := Nat.le_add_left 1 2
theorem pmovRegToPred (x0 x1) : Statement (.pmovRegToPred x0 x1) := one_le _
theorem fadd (x0 x1 x2) : Statement (.fadd x0 x1 x2) := one_le _
theorem fsub (x0 x1 x2) : Statement (.fsub x0 x1 x2) := one_le _
theorem fmul (x0 x1 x2) : Statement (.fmul x0 x1 x2) := one_le _
theorem ffma (x0 x1 x2 x3 x4 x5 x6) : Statement (.ffma x0 x1 x2 x3 x4 x5 x6) := two_le _
theorem fmin (x0 x1 x2) : Statement (.fmin x0 x1 x2) := one_le _
theorem fmax (x0 x1 x2) : Statement (.fmax x0 x1 x2) := one_le _
theorem fcmp (x0 x1 x2 x3 x4 x5) : Statement (.fcmp x0 x1 x2 x3 x4 x5) := two_le _
theorem fabs (x0 x1) : Statement (.fabs x0 x1) := one_le _
theorem fneg (x0 x1) : Statement (.fneg x0 x1) := one_le _
theorem fsat (x0 x1) : Statement (.fsat x0 x1) := one_le _
theorem fclass (x0 x1) : Statement (.fclass x0 x1) := one_le _
theorem frintRne (x0 x1) : Statement (.frintRne x0 x1) := one_le _
theorem frintRz (x0 x1) : Statement (.frintRz x0 x1) := one_le _
theorem frintRd (x0 x1) : Statement (.frintRd x0 x1) := one_le _
theorem frintRu (x0 x1) : Statement (.frintRu x0 x1) := one_le _
theorem frint (x0 x1) : Statement (.frint x0 x1) := one_le _
theorem fspec (x0 x1 x2 x3 x4) : Statement (.fspec x0 x1 x2 x3 x4) := two_le _
theorem fdiv (x0 x1 x2 x3 x4) : Statement (.fdiv x0 x1 x2 x3 x4) := two_le _
theorem cvt (x0 x1 x2 x3 x4 x5 x6 x7 x8) : Statement (.cvt x0 x1 x2 x3 x4 x5 x6 x7 x8) := two_le _
theorem pkadd (x0 x1 x2 x3 x4 x5) : Statement (.pkadd x0 x1 x2 x3 x4 x5) := two_le _
theorem pkmul (x0 x1 x2 x3 x4 x5) : Statement (.pkmul x0 x1 x2 x3 x4 x5) := two_le _
theorem pkfma (x0 x1 x2 x3 x4 x5 x6) : Statement (.pkfma x0 x1 x2 x3 x4 x5 x6) := two_le _
theorem fdot4 (x0 x1 x2 x3 x4 x5 x6) : Statement (.fdot4 x0 x1 x2 x3 x4 x5 x6) := two_le _
theorem fdot8 (x0 x1 x2 x3 x4) : Statement (.fdot8 x0 x1 x2 x3 x4) := two_le _
theorem mxscl (x0 x1 x2 x3 x4) : Statement (.mxscl x0 x1 x2 x3 x4) := two_le _
theorem dadd (x0 x1 x2 x3) : Statement (.dadd x0 x1 x2 x3) := two_le _
theorem dmul (x0 x1 x2 x3) : Statement (.dmul x0 x1 x2 x3) := two_le _
theorem dfma (x0 x1 x2 x3 x4 x5 x6) : Statement (.dfma x0 x1 x2 x3 x4 x5 x6) := two_le _
theorem dcmp (x0 x1 x2 x3 x4 x5) : Statement (.dcmp x0 x1 x2 x3 x4 x5) := two_le _
theorem dmin (x0 x1 x2) : Statement (.dmin x0 x1 x2) := two_le _
theorem dmax (x0 x1 x2) : Statement (.dmax x0 x1 x2) := two_le _
theorem nbr (x0 x1 x2 x3 x4) : Statement (.nbr x0 x1 x2 x3 x4) := two_le _
theorem nbrChain (x0 x1 x2 x3) : Statement (.nbrChain x0 x1 x2 x3) := two_le _
theorem shfl (x0 x1 x2 x3 x4 x5) : Statement (.shfl x0 x1 x2 x3 x4 x5) := by cases x2 <;> first | exact two_le _ | exact Nat.le_succ 2
theorem pjoin (x0 x1 x2 x3) : Statement (.pjoin x0 x1 x2 x3) := Nat.le_succ 2
theorem lmaskLo (x0 x1) : Statement (.lmaskLo x0 x1) := Nat.le_add_left 1 2
theorem lmaskHi (x0 x1) : Statement (.lmaskHi x0 x1) := Nat.le_add_left 1 2
theorem lmask64 (x0 x1) : Statement (.lmask64 x0 x1) := Nat.le_add_left 1 2
theorem accum (x0 x1 x2 x3 x4) : Statement (.accum x0 x1 x2 x3 x4) := two_le _
theorem fold (x0 x1 x2 x3) : Statement (.fold x0 x1 x2 x3) := two_le _
theorem matchv (x0 x1 x2 x3 x4 x5) : Statement (.matchv x0 x1 x2 x3 x4 x5) := two_le _
theorem lead (x0) : Statement (.lead x0) := Nat.le_add_left 1 2
theorem leadLast (x0) : Statement (.leadLast x0) := Nat.le_add_left 1 2
theorem prank (x0 x1 x2 x3) : Statement (.prank x0 x1 x2 x3) := Nat.le_succ 2
theorem ld1 (x0 x1 x2 x3) : Statement (.ld1 x0 x1 x2 x3) := one_le _
theorem ld2 (x0 x1 x2 x3) : Statement (.ld2 x0 x1 x2 x3) := one_le _
theorem ld4 (x0 x1 x2 x3) : Statement (.ld4 x0 x1 x2 x3) := one_le _
theorem ld8 (x0 x1 x2 x3) : Statement (.ld8 x0 x1 x2 x3) := one_le _
theorem ld16 (x0 x1 x2 x3) : Statement (.ld16 x0 x1 x2 x3) := one_le _
theorem st1 (x0 x1 x2 x3) : Statement (.st1 x0 x1 x2 x3) := one_le _
theorem st2 (x0 x1 x2 x3) : Statement (.st2 x0 x1 x2 x3) := one_le _
theorem st4 (x0 x1 x2 x3) : Statement (.st4 x0 x1 x2 x3) := one_le _
theorem st8 (x0 x1 x2 x3) : Statement (.st8 x0 x1 x2 x3) := one_le _
theorem st16 (x0 x1 x2 x3) : Statement (.st16 x0 x1 x2 x3) := one_le _
theorem atom (x0 x1 x2 x3 x4 x5 x6) : Statement (.atom x0 x1 x2 x3 x4 x5 x6) := by cases x3 <;> first | exact two_le _ | exact Nat.le_succ 2
theorem red (x0 x1 x2 x3 x4) : Statement (.red x0 x1 x2 x3 x4) := two_le _
theorem cpy (x0 x1 x2 x3 x4 x5 x6 x7 x8) : Statement (.cpy x0 x1 x2 x3 x4 x5 x6 x7 x8) := two_le _
theorem ldwp (x0 x1) : Statement (.ldwp x0 x1) := Nat.le_add_left 1 2
theorem fenceAcq (x0) : Statement (.fenceAcq x0) := Nat.le_succ 2
theorem fenceRel (x0) : Statement (.fenceRel x0) := Nat.le_succ 2
theorem fenceAcqrel (x0) : Statement (.fenceAcqrel x0) := Nat.le_succ 2
theorem fenceX (x0 x1 x2) : Statement (.fenceX x0 x1 x2) := Nat.le_succ 2
theorem phaseCommit : Statement .phaseCommit := Nat.le_add_left 1 2
theorem phaseAdvance : Statement .phaseAdvance := Nat.le_add_left 1 2
theorem tcfg (x0 x1 x2 x3) : Statement (.tcfg x0 x1 x2 x3) := Nat.le_succ 2
theorem tzero (x0) : Statement (.tzero x0) := Nat.le_add_left 1 2
theorem twr (x0 x1 x2 x3) : Statement (.twr x0 x1 x2 x3) := by cases x3 <;> first | exact two_le _ | exact Nat.le_succ 2
theorem trd (x0 x1 x2 x3) : Statement (.trd x0 x1 x2 x3) := by cases x3 <;> first | exact two_le _ | exact Nat.le_succ 2
theorem tld (x0 x1 x2 x3 x4) : Statement (.tld x0 x1 x2 x3 x4) := two_le _
theorem tst (x0 x1 x2 x3 x4) : Statement (.tst x0 x1 x2 x3 x4) := two_le _
theorem trel (x0) : Statement (.trel x0) := Nat.le_add_left 1 2
theorem tstat (x0 x1) : Statement (.tstat x0 x1) := Nat.le_add_left 1 2
theorem mma (x0 x1 x2 x3 x4 x5) : Statement (.mma x0 x1 x2 x3 x4 x5) := two_le _
theorem mmab (x0 x1 x2 x3 x4 x5) : Statement (.mmab x0 x1 x2 x3 x4 x5) := two_le _
theorem tdrain (x0 x1 x2 x3) : Statement (.tdrain x0 x1 x2 x3) := two_le _
theorem pushq (x0 x1) : Statement (.pushq x0 x1) := two_le _
theorem popq (x0 x1) : Statement (.popq x0 x1) := Nat.le_succ 2
theorem loopa (x0 x1) : Statement (.loopa x0 x1) := two_le _
theorem cbarArrive (x0 x1) : Statement (.cbarArrive x0 x1) := two_le _
theorem cbarWait (x0 x1 x2) : Statement (.cbarWait x0 x1 x2) := two_le _
theorem cbarSync (x0 x1) : Statement (.cbarSync x0 x1) := two_le _
theorem tbarArrive (x0 x1) : Statement (.tbarArrive x0 x1) := two_le _
theorem tbarWait (x0 x1 x2) : Statement (.tbarWait x0 x1 x2) := two_le _
theorem tbarSync (x0 x1) : Statement (.tbarSync x0 x1) := two_le _
theorem gbind (x0 x1 x2) : Statement (.gbind x0 x1 x2) := two_le _
theorem gstat (x0 x1) : Statement (.gstat x0 x1) := Nat.le_add_left 1 2
theorem merge (x0 x1) : Statement (.merge x0 x1) := two_le _
theorem contract (x0) : Statement (.contract x0) := two_le _
theorem kst (x0 x1 x2) : Statement (.kst x0 x1 x2) := two_le _
theorem kgather (x0 x1 x2 x3 x4 x5 x6) : Statement (.kgather x0 x1 x2 x3 x4 x5 x6) := by cases x4 <;> first | exact two_le _ | exact Nat.le_succ 2
theorem kreg (x0 x1) : Statement (.kreg x0 x1) := two_le _
theorem kregUnbind (x0 x1 x2) : Statement (.kregUnbind x0 x1 x2) := two_le _
theorem launch (x0) : Statement (.launch x0) := two_le _
theorem bra (x0) : Statement (.bra x0) := Nat.le_add_left 1 2
theorem call (x0) : Statement (.call x0) := Nat.le_add_left 1 2
theorem jmp (x0) : Statement (.jmp x0) := one_le _
theorem calli (x0) : Statement (.calli x0) := one_le _
theorem ret (x0) : Statement (.ret x0) := one_le _
theorem awaitTok (x0 x1) : Statement (.awaitTok x0 x1) := Nat.le_succ 2
theorem awaitWord (x0 x1 x2 x3 x4) : Statement (.awaitWord x0 x1 x2 x3 x4) := two_le _
theorem awaitCtr (x0 x1 x2) : Statement (.awaitCtr x0 x1 x2) := two_le _
theorem awaitPhase (x0 x1 x2 x3) : Statement (.awaitPhase x0 x1 x2 x3) := two_le _
theorem awaitTbar (x0 x1) : Statement (.awaitTbar x0 x1) := Nat.le_succ 2
theorem awaitCbar (x0 x1) : Statement (.awaitCbar x0 x1) := Nat.le_succ 2
theorem win (x0) : Statement (.win x0) := Nat.le_succ 2
theorem exit : Statement .exit := Nat.le_succ 2
theorem yield (x0) : Statement (.yield x0) := Nat.le_succ 2
theorem fwd (x0 x1) : Statement (.fwd x0 x1) := two_le _
theorem preoff : Statement .preoff := Nat.le_succ 2
theorem preon : Statement .preon := Nat.le_succ 2
theorem vdid (x0) : Statement (.vdid x0) := Nat.le_succ 2
theorem vdhops (x0 x1 x2) : Statement (.vdhops x0 x1 x2) := two_le _
theorem cyc (x0) : Statement (.cyc x0) := Nat.le_succ 2
theorem srr (x0 x1) : Statement (.srr x0 x1) := Nat.le_add_left 1 2
theorem srw (x0 x1) : Statement (.srw x0 x1) := one_le _
theorem trap (x0) : Statement (.trap x0) := Nat.le_add_left 1 2
theorem bkpt : Statement .bkpt := Nat.le_add_left 1 2
theorem rte : Statement .rte := Nat.le_add_left 1 2
theorem emret (x0) : Statement (.emret x0) := Nat.le_add_left 1 2
theorem rpqr (x0 x1) : Statement (.rpqr x0 x1) := one_le _
theorem rpqw (x0 x1) : Statement (.rpqw x0 x1) := one_le _
theorem tmask (x0) : Statement (.tmask x0) := one_le _
theorem hmovf (x0 x1) : Statement (.hmovf x0 x1) := Nat.le_add_left 1 2
theorem hmovt (x0 x1) : Statement (.hmovt x0 x1) := one_le _
theorem grd (x0 x1 x2) : Statement (.grd x0 x1 x2) := Nat.le_add_left 1 2
theorem kw (x0) : Statement (.kw x0) := Nat.le_add_left 1 2
theorem mem (x0) : Statement (.mem x0) := Nat.le_add_left 1 2
theorem tokenWaitPark (x0) : Statement (.tokenWaitPark x0) := Nat.zero_le 3
theorem translationComplete (x0 x1) : Statement (.translationComplete x0 x1) := Nat.zero_le 3
theorem longLatencyComplete (x0 x1) : Statement (.longLatencyComplete x0 x1) := Nat.zero_le 3
theorem recordWrite (x0 x1) : Statement (.recordWrite x0 x1) := Nat.zero_le 3
theorem boathouseSpill (x0) : Statement (.boathouseSpill x0) := Nat.zero_le 3
theorem binAgeExpiry (x0 x1) : Statement (.binAgeExpiry x0 x1) := Nat.zero_le 3
theorem binDrain (x0 x1 x2) : Statement (.binDrain x0 x1 x2) := Nat.zero_le 3
theorem activeSetChange (x0) : Statement (.activeSetChange x0) := Nat.zero_le 3
theorem teamMove (x0) : Statement (.teamMove x0) := Nat.zero_le 3
theorem peerRecordArrival (x0 x1 x2 x3 x4) : Statement (.peerRecordArrival x0 x1 x2 x3 x4) := Nat.zero_le 3
theorem binForward (x0 x1 x2) : Statement (.binForward x0 x1 x2) := Nat.zero_le 3
theorem trapDelivery (x0) : Statement (.trapDelivery x0) := Nat.zero_le 3
theorem emulationEntry (x0) : Statement (.emulationEntry x0) := Nat.zero_le 3
theorem scratchParityUpdate (x0) : Statement (.scratchParityUpdate x0) := Nat.zero_le 3
theorem scratchError (x0 x1 x2) : Statement (.scratchError x0 x1 x2) := Nat.zero_le 3
theorem llcError (x0 x1) : Statement (.llcError x0 x1) := Nat.zero_le 3
theorem eccConsumed (x0) : Statement (.eccConsumed x0) := Nat.zero_le 3
theorem teamRelaunch (x0 x1) : Statement (.teamRelaunch x0 x1) := Nat.zero_le 3
theorem copyComplete (x0) : Statement (.copyComplete x0) := Nat.zero_le 3
theorem channelDelivery (x0 x1 x2) : Statement (.channelDelivery x0 x1 x2) := Nat.zero_le 3
theorem commitComplete (x0) : Statement (.commitComplete x0) := Nat.zero_le 3
theorem phaseCopyUpdate (x0 x1 x2) : Statement (.phaseCopyUpdate x0 x1 x2) := Nat.zero_le 3
theorem teamRetire (x0) : Statement (.teamRetire x0) := Nat.zero_le 3
theorem gridComplete (x0) : Statement (.gridComplete x0) := Nat.zero_le 3
theorem matrixOpPerform (x0 x1) : Statement (.matrixOpPerform x0 x1) := Nat.zero_le 3
theorem drainApply (x0) : Statement (.drainApply x0) := Nat.zero_le 3
theorem coxFailure (x0) : Statement (.coxFailure x0) := Nat.zero_le 3
theorem mergePerform (x0) : Statement (.mergePerform x0) := Nat.zero_le 3
theorem contractPerform (x0) : Statement (.contractPerform x0) := Nat.zero_le 3
theorem kstInsert (x0) : Statement (.kstInsert x0) := Nat.zero_le 3
theorem keyUnitFailure (x0) : Statement (.keyUnitFailure x0) := Nat.zero_le 3
theorem admission (x0) : Statement (.admission x0) := Nat.zero_le 3
theorem teamPlace : Statement .teamPlace := Nat.zero_le 3
theorem preemptRequest (x0 x1 x2) : Statement (.preemptRequest x0 x1 x2) := Nat.zero_le 3
theorem graceExpiry (x0) : Statement (.graceExpiry x0) := Nat.zero_le 3
theorem preoffLimitExpiry (x0) : Statement (.preoffLimitExpiry x0) := Nat.zero_le 3
theorem maskedDeferExpiry (x0) : Statement (.maskedDeferExpiry x0) := Nat.zero_le 3
theorem coreVacant (x0) : Statement (.coreVacant x0) := Nat.zero_le 3
theorem runlistTurn : Statement .runlistTurn := Nat.zero_le 3
theorem powerGovernorStep (x0 x1) : Statement (.powerGovernorStep x0 x1) := Nat.zero_le 3
theorem umpireDecide (x0) : Statement (.umpireDecide x0) := Nat.zero_le 3
theorem iftDue (x0) : Statement (.iftDue x0) := Nat.zero_le 3
theorem iftOverdue (x0) : Statement (.iftOverdue x0) := Nat.zero_le 3
theorem iftRun (x0 x1 x2) : Statement (.iftRun x0 x1 x2) := Nat.zero_le 3
theorem ctxCreate (x0 x1) : Statement (.ctxCreate x0 x1) := Nat.zero_le 3
theorem ctxDestroy (x0) : Statement (.ctxDestroy x0) := Nat.zero_le 3
theorem ctxSuspend (x0) : Statement (.ctxSuspend x0) := Nat.zero_le 3
theorem ctxResume (x0) : Statement (.ctxResume x0) := Nat.zero_le 3
theorem queueMap (x0 x1 x2) : Statement (.queueMap x0 x1 x2) := Nat.zero_le 3
theorem pasidClose (x0) : Statement (.pasidClose x0) := Nat.zero_le 3
theorem faultDone (x0 x1) : Statement (.faultDone x0 x1) := Nat.zero_le 3
theorem drain (x0 x1) : Statement (.drain x0 x1) := Nat.zero_le 3
theorem migrate (x0 x1 x2) : Statement (.migrate x0 x1 x2) := Nat.zero_le 3
theorem tenantSet (x0 x1) : Statement (.tenantSet x0 x1) := Nat.zero_le 3
theorem svcClear : Statement .svcClear := Nat.zero_le 3
theorem bitload (x0 x1) : Statement (.bitload x0 x1) := Nat.zero_le 3
theorem queueLaunch (x0 x1) : Statement (.queueLaunch x0 x1) := Nat.zero_le 3
theorem waitctr (x0 x1 x2) : Statement (.waitctr x0 x1 x2) := Nat.zero_le 3
theorem signal (x0 x1 x2) : Statement (.signal x0 x1 x2) := Nat.zero_le 3
theorem admwptrWrite (x0) : Statement (.admwptrWrite x0) := Nat.zero_le 3
theorem queueDoorbell (x0 x1) : Statement (.queueDoorbell x0 x1) := Nat.zero_le 3
theorem admctlWrite (x0) : Statement (.admctlWrite x0) := Nat.zero_le 3
theorem fltctlWrite (x0) : Statement (.fltctlWrite x0) := Nat.zero_le 3
theorem fltrptrWrite (x0) : Statement (.fltrptrWrite x0) := Nat.zero_le 3
theorem qctlWrite (x0 x1) : Statement (.qctlWrite x0 x1) := Nat.zero_le 3
theorem devctlWarm : Statement .devctlWarm := Nat.zero_le 3
theorem devctlAge (x0) : Statement (.devctlAge x0) := Nat.zero_le 3
theorem devctlIft (x0) : Statement (.devctlIft x0) := Nat.zero_le 3
theorem devctlUmp (x0) : Statement (.devctlUmp x0) := Nat.zero_le 3
theorem devctlDrain (x0) : Statement (.devctlDrain x0) := Nat.zero_le 3
theorem registerWrite (x0 x1) : Statement (.registerWrite x0 x1) := Nat.zero_le 3
theorem faultRecordWrite : Statement .faultRecordWrite := Nat.zero_le 3
theorem atsTranslationResponse (x0 x1 x2) : Statement (.atsTranslationResponse x0 x1 x2) := Nat.zero_le 3
theorem priResponse (x0 x1 x2) : Statement (.priResponse x0 x1 x2) := Nat.zero_le 3
theorem atsInvalidation (x0 x1) : Statement (.atsInvalidation x0 x1) := Nat.zero_le 3
theorem peerFlitReceive (x0 x1 x2) : Statement (.peerFlitReceive x0 x1 x2) := Nat.zero_le 3
theorem peerRetryTimeout (x0 x1) : Statement (.peerRetryTimeout x0 x1) := Nat.zero_le 3
theorem peerPortLoss (x0) : Statement (.peerPortLoss x0) := Nat.zero_le 3
theorem hostPortDown (x0) : Statement (.hostPortDown x0) := Nat.zero_le 3
theorem coldStart (x0) : Statement (.coldStart x0) := Nat.zero_le 3
theorem hostPageWrite (x0 x1) : Statement (.hostPageWrite x0 x1) := Nat.zero_le 3

end Sys2Proof.Laws.EncodedLen
end

