-- ==== Sys2Proof/Laws/Ready.lean ====
section
/-! SUPPORT. Checks that can be evaluated for the conditions under which an issue executes: each `Bool` here implies the
proposition of `Safety` that it is named after. -/

namespace Sys2Proof.Machine

/-- Every lane of the first 64. -/
def lanes64 (p : Nat → Bool) : Bool := (List.range 64).all p

theorem lanes64_spec {p : Nat → Bool} (h : lanes64 p = true) : ∀ n, n < 64 → p n = true := fun n hn =>
  List.all_eq_true.mp h n (List.mem_range.mpr hn)

/-- `Passes`, evaluated. -/
def passesB (s : State) (i : Issue) (c : Crew) (sh : Shape) (bad : State → Crew → Issue → Bool) (sync ll kernel : Bool)
    (gs : Option (List (Rn × Nat × Nat))) : Bool :=
  !c.waitsTranslation i.s && !(sync && s.forcing c c.pipe.serial) &&
  (nameCheck c (i.inHandler c kernel) (gs.getD sh.groups)).isNone && !modeBad c i && !bad s c i &&
  !inWindowClash c i (sh.changes c (i.inHandler c kernel)) &&
  !mustWait c i (sh.names c (i.inHandler c kernel)) sync ll &&
  lanes64 fun n => !has i.s n || match c.lane n with
    | some l => toksMet i.mask l.toks && (l.errTok i.mask).isNone
    | none => true

theorem passesB_spec {s i c sh bad sync ll kernel gs} (h : passesB s i c sh bad sync ll kernel gs = true) :
    Passes s i c sh bad sync ll kernel gs := by
  simp only [passesB, Bool.and_eq_true, Bool.not_eq_true', Option.isNone_iff_eq_none] at h
  obtain ⟨⟨⟨⟨⟨⟨⟨he, hf⟩, h1⟩, h2⟩, h3⟩, h4⟩, h5⟩, h6⟩ := h
  refine ⟨he, hf, h1, h2, h3, h4, h5, fun n l hn hs hl => ?_⟩
  simpa [hs, hl] using lanes64_spec h6 n hn

/-- `Untagged`, evaluated. -/
def untaggedB (i : Issue) (c : Crew) (sh : Shape) (kernel : Bool) (who : Crew → Issue → LaneMask) : Bool :=
  i.entry.isSome || lanes64 fun n => !has i.act n || !has (who c i) n || (c.taggedField (i.inHandler c kernel) sh.srcs n).isNone

theorem untaggedB_spec {i c sh kernel who} (h : untaggedB i c sh kernel who = true) : Untagged i c sh kernel who := by
  simp only [untaggedB, Bool.or_eq_true] at h
  refine h.imp id fun h n hn ha hw => ?_
  simpa [ha, hw] using lanes64_spec h n hn

/-- `HasRoom`, evaluated. -/
def hasRoomB (s : State) (i : Issue) (c : Crew) (sh : Shape) (ll kernel mem : Bool) : Bool :=
  match sh.dst with
  | none => true
  | some (r, w) =>
    let d := if mem then c else c.free (sh.frees c (i.inHandler c kernel))
    decide (d.allocs (nameOf c.wb (i.inHandler c kernel) r) w ll ≤ (s.setCrew d).poolFree d)

theorem hasRoomB_spec {s i c sh ll kernel mem} (h : hasRoomB s i c sh ll kernel mem = true) :
    HasRoom s i c sh ll kernel mem := by
  intro r w hd _
  simpa [hasRoomB, hd] using h

/-- The issue in progress and its crew meet a check. -/
def inProgressB (s : State) (p : Issue → Crew → Bool) : Bool :=
  match s.cur with
  | none => false
  | some i => match s.crew? i.crew with
    | none => false
    | some c => p i c

theorem inProgressB_spec {s p} (h : inProgressB s p = true) : ∃ i c, InProgress s i c ∧ p i c = true := by
  unfold inProgressB at h
  split at h
  · cases h
  · split at h
    · cases h
    · exact ⟨_, _, ⟨‹_›, ‹_›⟩, h⟩

/-- `Checked` with a further check. -/
theorem checked_of {s sh bad sync ll kernel gs} {p : Issue → Crew → Bool}
    (h : inProgressB s (fun i c => passesB s i c sh bad sync ll kernel gs && p i c) = true) :
    ∃ i c, Checked s i c sh bad sync ll kernel gs ∧ p i c = true := by
  obtain ⟨i, c, hi, hb⟩ := inProgressB_spec h
  rw [Bool.and_eq_true] at hb
  exact ⟨i, c, ⟨hi, .inr (passesB_spec hb.1)⟩, hb.2⟩

/-- `Ready` with a further check `p` of the issue and its crew. -/
def readyB (s : State) (sh : Shape) (bad : State → Crew → Issue → Bool := fine) (sync ll kernel : Bool := false)
    (who : Crew → Issue → LaneMask := allRead) (p : Issue → Crew → Bool := fun _ _ => true) (mem : Bool := false) : Bool :=
  inProgressB s fun i c => passesB s i c sh bad sync ll kernel none && (kernel || untaggedB i c sh kernel who) &&
    hasRoomB s i c sh ll kernel mem && p i c

theorem ready_of {s sh bad sync ll kernel who p mem} (h : readyB s sh bad sync ll kernel who p mem = true) :
    ∃ i c, Ready s i c sh bad sync ll kernel who mem ∧ p i c = true := by
  obtain ⟨i, c, hi, hb⟩ := inProgressB_spec h
  simp only [Bool.and_eq_true, Bool.or_eq_true] at hb
  obtain ⟨⟨⟨h1, h2⟩, h3⟩, h4⟩ := hb
  exact ⟨i, c, ⟨⟨hi, .inr (passesB_spec h1)⟩, h2.imp id untaggedB_spec, hasRoomB_spec h3⟩, h4⟩

end Sys2Proof.Machine
end

