-- ==== Sys2Proof/Tests/Slice0.lean ====
section
/-! SUPPORT. Tests: ill-formed terms that the check refuses, words written out in the spec, steps on a small state, and a
state that meets the hypotheses of each statement. -/

namespace Sys2Proof.Tests

open Sys2Proof.Machine

set_option Elab.async false

/-! ## A small state: the loader's one team of eight threads, with registers, and an issue in progress -/

/-- Registers `v0` to `v19`: an even register `n` of lane `l` holds `0x8000 + 64 n + 16 l`, an odd one 0, so that each pair
names an address in the loader's page. -/
def regs : List Reg :=
  (List.range 20).map fun n =>
    ⟨n, (List.range 8).map fun l => if n % 2 = 0 then BitVec.ofNat 32 (codeVa + 64 * n + 16 * l) else 0, 0⟩

/-- An issue of all eight lanes; lane 3 is not in ACTIVE. -/
def issue : Issue :=
  { crew := 2, s := 0xFF, act := 0xF7, pc := codeVa, raw := ⟨[], 0, none, none⟩, grd := none, mem := none, mask := 0,
    entry := none, chosen := 0xFF, yl := 0, elig := 0xFF }

/-- The state, with changes to the crew and to the issue. -/
def st (f : Crew → Crew := id) (g : Issue → Issue := id) : State :=
  let s := State.reset.withProgram
  { s with
    crews := s.crews.map fun c => f { c with regs := regs }
    sched := { s.sched with teams := s.sched.teams.map fun t => { t with res := { t.res with rows := 32 } } }
    cur := some (g issue) }

/-- A change to every context's descriptor. -/
def withDesc (s : State) (f : CtxDesc → CtxDesc) : State := { s with ctxs := s.ctxs.map fun x => { x with d := f x.d } }

/-- Its crew. -/
def crewOf (s : State) : Crew := s.crews.head?.getD default

def r (n : Nat) : Src := ⟨.win n, false, false⟩
def z : Src := ⟨.zr, false, false⟩
def lit (w : Word) : Src := ⟨.lit w, false, false⟩
def v (n : Nat) : Rn := .win n

/-- An issue of the shape executes in some state. -/
def Can (sh : Shape) (bad : State → Crew → Issue → Bool := fine) (sync ll kernel : Bool := false)
    (who : Crew → Issue → LaneMask := allRead) : Prop :=
  ∃ (s : State) (i : Issue) (c : Crew), Ready s i c sh bad sync ll kernel who ∧ i.act ≠ 0

theorem can {s : State} {sh bad sync ll kernel who}
    (h : readyB s sh bad sync ll kernel who (fun i _ => i.act != 0) = true) : Can sh bad sync ll kernel who := by
  obtain ⟨i, c, h, hp⟩ := ready_of h
  exact ⟨s, i, c, h, by simpa using hp⟩

/-- As `Can`, with more to hold of the state, the issue and its operands. -/
def CanWith (sh : Shape) (P : State → Issue → Crew → Opn → Prop) (bad : State → Crew → Issue → Bool := fine)
    (sync ll kernel : Bool := false) (who : Crew → Issue → LaneMask := allRead) : Prop :=
  ∃ (s : State) (i : Issue) (c : Crew), Ready s i c sh bad sync ll kernel who ∧ i.act ≠ 0 ∧ P s i c (i.opn c sh kernel)

theorem canWith {s : State} {sh : Shape} {P : State → Issue → Crew → Opn → Prop} {bad sync ll kernel who}
    (p : Issue → Crew → Opn → Bool) (hP : ∀ i c o, p i c o = true → P s i c o)
    (h : readyB s sh bad sync ll kernel who (fun i c => i.act != 0 && p i c (i.opn c sh kernel)) = true) :
    CanWith sh P bad sync ll kernel who := by
  obtain ⟨i, c, h, hp⟩ := ready_of h
  rw [Bool.and_eq_true] at hp
  exact ⟨s, i, c, h, by simpa using hp.1, hP _ _ _ hp.2⟩

/-- A property of every lane of a set, from a check of the first 64. -/
theorem all_lanes {m : LaneMask} {P : Nat → Prop} {p : Nat → Bool} (h : lanes64 (fun n => !has m n || p n) = true)
    (hp : ∀ n, p n = true → P n) : ∀ n, has m n = true → P n := by
  intro n hn
  by_cases h64 : n < 64
  · exact hp n (by simpa [hn] using lanes64_spec h n h64)
  · exact absurd hn (by simp [has, BitVec.getLsbD_of_ge _ _ (Nat.le_of_not_lt h64)])

theorem any_some {α : Type} {x : Option α} {p : α → Bool} (h : x.any p = true) : ∃ a, x = some a ∧ p a = true := by
  cases x with
  | none => cases h
  | some a => exact ⟨a, rfl, h⟩

/-- `Crew.quiet` and `Crew.mayTrap`, evaluated. -/
def quietB (c : Crew) : Bool :=
  c.pipe.inflight.isEmpty && (c.pipe.traps.isEmpty && (c.pipe.issued.isEmpty && c.pipe.reinj.isEmpty))

theorem quietB_spec {c} (h : quietB c = true) : c.quiet := by
  simp only [quietB, Bool.and_eq_true, List.isEmpty_iff] at h
  obtain ⟨h1, h2, h3, h4⟩ := h
  exact ⟨by simp [h1], h2, h3, h4⟩

def mayTrapB (c : Crew) (cx : Ctx) (m : LaneMask) : Bool :=
  decide (c.depthAt m < 2) && (decide (c.depthAt m = 0) || !c.lv.cur.masked) && cx.d.trapvec != 0

theorem mayTrapB_spec {c cx m} (h : mayTrapB c cx m = true) : c.mayTrap cx m := by
  simp only [mayTrapB, Bool.and_eq_true, Bool.or_eq_true, decide_eq_true_iff, Bool.not_eq_true', bne_iff_ne] at h
  exact ⟨h.1.1, fun h0 => h.1.2.resolve_left (Nat.ne_of_gt h0), h.2⟩

/-- An issue of the shape executes and may trap in some state. -/
def CanTrap (sh : Shape) (on : State → Issue → Crew → Opn → Prop) (bad : State → Crew → Issue → Bool := fine)
    (sync : Bool := false) (who : Crew → Issue → LaneMask := allRead) : Prop :=
  ∃ (s : State) (i : Issue) (c : Crew) (cx : Ctx), Ready s i c sh bad sync false false who ∧ i.entry = none ∧
    on s i c (i.opn c sh) ∧ c.quiet ∧ s.ctx? c.ctx = some cx ∧ c.mayTrap cx i.s

theorem canTrap {s : State} {sh : Shape} {on : State → Issue → Crew → Opn → Prop} {bad sync who}
    (p : Issue → Crew → Opn → Bool) (hP : ∀ i c o, p i c o = true → on s i c o)
    (h : readyB s sh bad sync false false who (fun i c => i.entry.isNone && (quietB c &&
      ((s.ctx? c.ctx).any (fun cx => mayTrapB c cx i.s) && p i c (i.opn c sh)))) = true) : CanTrap sh on bad sync who := by
  obtain ⟨i, c, h, hp⟩ := ready_of h
  simp only [Bool.and_eq_true, Option.isNone_iff_eq_none] at hp
  obtain ⟨h1, h2, h3, h4⟩ := hp
  obtain ⟨cx, hx, h3⟩ := any_some h3
  exact ⟨s, i, c, cx, h, h1, hP _ _ _ h4, quietB_spec h2, hx, mayTrapB_spec h3⟩

/-- An issue of the shape executes in no lane in some state. -/
def CanIdle (sh : Shape) (bad : State → Crew → Issue → Bool := fine) (sync ll kernel : Bool := false)
    (who : Crew → Issue → LaneMask := allRead) (mem : Bool := false) : Prop :=
  ∃ (s : State) (i : Issue) (c : Crew), Ready s i c sh bad sync ll kernel who mem ∧ i.act = 0

theorem canIdle {s : State} {sh bad sync ll kernel who mem}
    (h : readyB s sh bad sync ll kernel who (fun i _ => i.act == 0) mem = true) : CanIdle sh bad sync ll kernel who mem := by
  obtain ⟨i, c, h, hp⟩ := ready_of h
  exact ⟨s, i, c, h, by simpa using hp⟩

/-- An issue whose guard is false in every lane. -/
def idle (i : Issue) : Issue := { i with act := 0 }

/-- The state with a trap handler. -/
def armed (f : Crew → Crew := id) (g : Issue → Issue := id) : State :=
  withDesc (st f g) fun d => { d with trapvec := codeVa, emuvec := codeVa }

/-! ## Witnesses: the integer, predicate and floating-point statements -/

theorem witness_IntegerResults : Can (shapeA (v 22) (r 0)) ∧ Can ⟨some (v 22, 1), []⟩ ∧ Can (shapeAB (v 22) (r 0) (lit 5)) ∧
    Can (shapeABC (.sc 1) (r 0) ⟨.win 1, true, false⟩ ⟨.lid, false, false⟩) ∧
    Can ⟨some (v 22, 2), [useA (r 0), useB (r 1), useC (r 2) 2]⟩ :=
  ⟨can (s := st) (by decide +kernel), can (s := st) (by decide +kernel), can (s := st) (by decide +kernel),
    can (s := st) (by decide +kernel), can (s := st) (by decide +kernel)⟩

theorem witness_UnaryResults : Can (shapeA (v 111) (r 0)) ∧ Can (shapeA (v 22) (r 0) 2 1) ∧ Can (shapeA (v 22) (r 0) 2 2) ∧
    Can (shapeA .zr (r 0) 1 2) :=
  ⟨can (s := st) (by decide +kernel), can (s := st) (by decide +kernel), can (s := st) (by decide +kernel),
    can (s := st) (by decide +kernel)⟩

theorem witness_SelectAndDotResults : Can (shapeAB (v 22) (r 0) (r 2) 2) ∧ Can (shapeAB (v 22) (r 0) (r 2) 1) ∧
    Can ⟨some (v 0, 1), [useA (r 0) 2, useB (r 2) 2]⟩ ∧ Can (shapeABC (v 0) (r 0) (r 1) (r 2)) ∧
    Can ⟨some (v 22, 2), [useA (r 0) 2, useB (r 1)]⟩ :=
  ⟨can (s := st) (by decide +kernel), can (s := st) (by decide +kernel), can (s := st) (by decide +kernel),
    can (s := st) (by decide +kernel), can (s := st) (by decide +kernel)⟩

theorem witness_PredicateResults : Can (shapeAB (v 22) (r 0) (r 2) 2) ∧ Can ⟨none, [useA (r 0) 2, useB z 2]⟩ ∧
    Can ⟨none, []⟩ ∧ Can ⟨none, [useA (r 0)]⟩ ∧ Can ⟨some (v 22, 1), []⟩ :=
  ⟨can (s := st) (by decide +kernel), can (s := st) (by decide +kernel), can (s := st) (by decide +kernel),
    can (s := st) (by decide +kernel), can (s := st) (by decide +kernel)⟩

theorem witness_BitFieldResults : Can ⟨none, []⟩ ∧ Can (shapeABC (v 22) (r 0) (r 1) (r 2)) ∧
    Can ⟨some (v 22, 1), [useA (r 0), useB (r 1)] ++ fshUses (.reg (r 2))⟩ ∧
    Can ⟨some (v 22, 1), useA (r 0) :: posLenUses (.imm 31 63)⟩ ∧
    Can ⟨some (v 22, 1), [useA (r 0), useB (r 1)] ++ posLenUses (.reg (r 2))⟩ :=
  ⟨can (s := st) (by decide +kernel), can (s := st) (by decide +kernel), can (s := st) (by decide +kernel),
    can (s := st) (by decide +kernel), can (s := st) (by decide +kernel)⟩

theorem witness_FloatResults : Can (shapeAB (v 22) (r 0) (r 1)) ∧ Can (shapeABC (v 22) (r 0) (r 1) (r 2)) ∧
    Can (shapeA (v 22) (r 0)) :=
  ⟨can (s := st) (by decide +kernel), can (s := st) (by decide +kernel), can (s := st) (by decide +kernel)⟩

theorem witness_ConvertAndDoubleResults : Can ⟨some (v 22, 2), [useA (r 0) 2 true, useB (r 2) 2 true]⟩ ∧
    Can ⟨some (v 22, 2), [useA (r 0) 2 true, useB (r 2) 2 true, useC (lit 0x3FF00000) 2 true]⟩ ∧
    Can (shapeAB (v 22) (r 0) (r 1)) ∧ Can (shapeABC (v 22) (r 0) (r 1) (r 2)) ∧
    Can ⟨some (v 22, 1), [useA (r 0) 2 true, useB (r 2)]⟩ ∧ Can ⟨none, [useA (r 0), useB (r 1)]⟩ ∧
    Can ⟨none, [useA (r 0) 2 true, useB (r 2) 2 true]⟩ :=
  ⟨can (s := st) (by decide +kernel), can (s := st) (by decide +kernel), can (s := st) (by decide +kernel),
    can (s := st) (by decide +kernel), can (s := st) (by decide +kernel), can (s := st) (by decide +kernel),
    can (s := st) (by decide +kernel)⟩

/-- Half way between two multiples; a subnormal under FTZ; infinities that cancel; a number beside a NaN; a result that is
tiny, one beyond the format, and one within it; three finite operands. -/
theorem witness_RoundingAndSpecialValues :
    (∀ e ∈ [(-200 : Int), -150, 0, 104, 200], let qu : Int := e + ((1 : Nat).log2 : Int) + 1 - fp32.p
      let q : Int := max qu fp32.qmin
      (e < -149 → qu < fp32.qmin ∧ (toQuantum .rne false 1 e qu).1 < 2 ^ (fp32.qmin + fp32.p - 1 - qu).toNat) ∧
      ((∀ b k g, decodeF fp32 fp32.maxB = .fin b k g →
        k * 2 ^ (g - fp32.qmin).toNat < (toQuantum .rne false 1 e q).1 * 2 ^ (q - fp32.qmin).toNat) ↔ e = 200)) ∧
    (∃ a j e, read32 ⟨.rne, false, false⟩ 0xC0400000 = .fin a j e) ∧
    (2 * (3 % 2 ^ 1) = 2 ^ 1 ∧ (toQuantum .rne false 3 0 1).1 = 2) ∧
    ((⟨.rne, true, false⟩ : FpEnv).ftz = true ∧ (1 : Word).toNat / 2 ^ 23 % 256 = 0) ∧
    ((decodeF fp32 (add32 ⟨.rne, false, false⟩ 0x7F800000 0xFF800000).1.toNat).isNan = true) ∧
    ((read32 ⟨.rne, true, false⟩ 0x3F800000).isNan = false ∧ (0x3F800000 : Word).toNat / 2 ^ 23 % 256 ≠ 0) := by
  have hm : decodeF fp32 fp32.maxB = .fin false 16777215 104 := by decide +kernel
  refine ⟨?_, ⟨true, 12582912, -22, by decide +kernel⟩, by decide +kernel, by decide +kernel, by decide +kernel, by decide +kernel⟩
  rw [hm]
  intro e he
  have key (P : Nat → Int → Prop) : (∀ b k g, Val.fin false 16777215 104 = .fin b k g → P k g) ↔ P 16777215 104 :=
    ⟨fun h => h _ _ _ rfl, fun h b k g e => by cases e; exact h⟩
  simp only [List.mem_cons, List.not_mem_nil, or_false] at he
  rcases he with rfl | rfl | rfl | rfl | rfl <;> exact ⟨by decide +kernel, (key _).trans (by decide +kernel)⟩

/-! ## Witnesses: the lane network -/

theorem witness_NeighbourAndShuffleResults : Can (shapeA (v 22) (r 0)) (wideFor .w8) ∧
    Can ⟨some (v 22, 1), [useA (r 0), useB (r 1)]⟩ (wideFor .w4) ∧ Can ⟨some (v 22, 1), [useA (r 0)]⟩ (wideFor .w2) :=
  ⟨can (s := st) (by decide +kernel), can (s := st) (by decide +kernel), can (s := st) (by decide +kernel)⟩

theorem witness_VoteResults : Can ⟨none, []⟩ (wideFor .w8) ∧ Can ⟨some (v 22, 1), []⟩ (wideFor .w8) ∧
    Can ⟨some (v 22, 2), []⟩ ∧ Can ⟨none, []⟩ :=
  ⟨can (s := st) (by decide +kernel), can (s := st) (by decide +kernel), can (s := st) (by decide +kernel),
    can (s := st) (by decide +kernel)⟩

theorem witness_ScanAndMatchResults : Can (shapeA (v 22) (r 0)) (wideFor .w8) ∧ Can (shapeA (v 22) (r 0) 2 2) (wideFor .w4) ∧
    (read32 ⟨.rne, false, false⟩ 0x3F800000).isNan = false :=
  ⟨can (s := st) (by decide +kernel), can (s := st) (by decide +kernel), by decide +kernel⟩

/-! ## Witnesses: control -/

/-- Every lane of ACTIVE holds an address that branches may take. -/
theorem witness_BranchResults : Can ⟨none, []⟩ ∧ Can ⟨some (v 110, 2), []⟩ ∧
    CanWith ⟨none, [useA (r 4) 2]⟩ (fun _ i _ o => ∀ n, has i.act n = true → (o.fa n).toNat % 4 = 0 ∧ (o.fa n).toNat < 2 ^ 56) ∧
    CanWith ⟨some (v 110, 2), [useA (r 4) 2]⟩
      (fun _ i _ o => ∀ n, has i.act n = true → (o.fa n).toNat % 4 = 0 ∧ (o.fa n).toNat < 2 ^ 56) :=
  ⟨can (s := st) (by decide +kernel), can (s := st) (by decide +kernel),
    canWith (s := st) (fun i _ o => lanes64 fun n => !has i.act n || (decide ((o.fa n).toNat % 4 = 0 ∧ (o.fa n).toNat < 2 ^ 56)))
      (fun _ _ _ h => all_lanes h fun _ hn => of_decide_eq_true hn) (by decide +kernel),
    canWith (s := st) (fun i _ o => lanes64 fun n => !has i.act n || (decide ((o.fa n).toNat % 4 = 0 ∧ (o.fa n).toNat < 2 ^ 56)))
      (fun _ _ _ h => all_lanes h fun _ hn => of_decide_eq_true hn) (by decide +kernel)⟩

/-- Does an address translate for reads? -/
def reads (s : State) (c : Crew) (va : Nat) : Bool :=
  match s.ctx? c.ctx with
  | some cx => match s.translate cx va Need.read with
    | .ok _ => true
    | _ => false
  | none => false

theorem reads_spec {s c va} (h : reads s c va = true) :
    ∃ cx, s.ctx? c.ctx = some cx ∧ ∃ pa, s.translate cx va Need.read = .ok pa := by
  unfold reads at h
  split at h
  · split at h
    · exact ⟨_, ‹_›, _, ‹_›⟩
    · cases h
  · cases h

theorem witness_SegmentEnds : Can ⟨none, []⟩ fine true ∧
    CanWith ⟨none, [useA (r 4) 2, useB (r 1)]⟩ (fun s i c o => ∀ l, has i.act l = true →
      (o.fa l).toNat % 4 = 0 ∧ (o.fa l).toNat < 2 ^ 56 ∧
      ∃ cx, s.ctx? c.ctx = some cx ∧ ∃ pa, s.translate cx (o.fa l).toNat Need.read = .ok pa) fine true ∧
    CanWith ⟨none, [useA (lit 0xFFFFFFFF), useB (r 1)]⟩ (fun s i c o => ∀ l, has i.act l = true →
      o.wa l = 0xFFFFFFFF ∨ ∃ cx p, s.ctx? c.ctx = some cx ∧ cx.d.vdie (o.wa l).toNat = some p) fine true ∧
    CanWith ⟨none, [useA z, useB (r 1)]⟩ (fun s i c o => ∀ l, has i.act l = true →
      o.wa l = 0xFFFFFFFF ∨ ∃ cx p, s.ctx? c.ctx = some cx ∧ cx.d.vdie (o.wa l).toNat = some p) fine true := by
  refine ⟨can (s := st) (by decide +kernel), ?_, ?_, ?_⟩
  · exact canWith (s := st) (fun i c o => lanes64 fun n => !has i.act n || (decide ((o.fa n).toNat % 4 = 0 ∧ (o.fa n).toNat < 2 ^ 56)
        && reads (st) c (o.fa n).toNat))
      (fun _ _ _ h => all_lanes h fun _ hn => by
        rw [Bool.and_eq_true, decide_eq_true_iff] at hn; exact ⟨hn.1.1, hn.1.2, reads_spec hn.2⟩) (by decide +kernel)
  · exact canWith (s := st) (fun i _ o => lanes64 fun n => !has i.act n || o.wa n == 0xFFFFFFFF)
      (fun _ _ _ h => all_lanes h fun _ hn => .inl (by simpa using hn)) (by decide +kernel)
  · exact canWith (s := st) (fun i c o => lanes64 fun n => !has i.act n ||
        ((st).ctx? c.ctx).any fun cx => (cx.d.vdie (o.wa n).toNat).isSome)
      (fun _ _ _ h => all_lanes h fun _ hn => by
        obtain ⟨cx, h1, h2⟩ := any_some hn
        obtain ⟨p, hp⟩ := Option.isSome_iff_exists.mp h2
        exact .inr ⟨cx, p, h1, hp⟩) (by decide +kernel)

/-- A forwarding word that is met by the state. -/
def fwdOk (s : State) (i : Issue) (c : Crew) (o : Opn) (tl : Bool) : Prop :=
  ∃ n cx, lowest i.act = some n ∧ s.ctx? c.ctx = some cx ∧
    let w := (o.wa n).toNat
    w / 2 ^ 28 < 4 ∧ w / 2 ^ 8 % 2 ^ 16 = 0 ∧ w / 2 ^ 24 % 16 < 12 ∧
    (w / 2 ^ 28 ≠ 3 → (cx.d.vdie (w / 2 ^ 5 % 8)).isSome) ∧ (w / 2 ^ 28 = 3 → cx.d.peers ≠ 0) ∧
    (tl = true → ∀ l t g, has i.act l = true → s.team? (c.teamOf l) = some t → s.grid? t.grid = some g → g.setOf t.index = none)

/-- The same, evaluated. -/
def fwdB (s : State) (i : Issue) (c : Crew) (o : Opn) : Bool :=
  (lowest i.act).any fun n => (s.ctx? c.ctx).any fun cx =>
    let w := (o.wa n).toNat
    decide (w / 2 ^ 28 < 4 ∧ w / 2 ^ 8 % 2 ^ 16 = 0 ∧ w / 2 ^ 24 % 16 < 12 ∧
      (w / 2 ^ 28 ≠ 3 → (cx.d.vdie (w / 2 ^ 5 % 8)).isSome = true) ∧ (w / 2 ^ 28 = 3 → cx.d.peers ≠ 0)) &&
    s.sched.grids.all fun g => s.sched.teams.all fun t => (g.setOf t.index).isNone

theorem fwd_of {s i c o} (h : fwdB s i c o = true) : fwdOk s i c o true := by
  obtain ⟨n, h1, h2⟩ := any_some h
  obtain ⟨cx, h3, h4⟩ := any_some h2
  simp only [Bool.and_eq_true, decide_eq_true_iff, List.all_eq_true] at h4
  obtain ⟨⟨a, b, c', d, e⟩, f⟩ := h4
  refine ⟨n, cx, h1, h3, a, b, c', d, e, fun _ l t g _ ht hg => ?_⟩
  simpa using f g (List.mem_of_find?_eq_some hg) t (List.mem_of_find?_eq_some ht)

/-- A forwarding word that is not. -/
def fwdBad (s : State) (i : Issue) (c : Crew) (o : Opn) : Prop :=
  ∃ n cx, lowest i.act = some n ∧ s.ctx? c.ctx = some cx ∧
    let w := (o.wa n).toNat
    4 ≤ w / 2 ^ 28 ∨ w / 2 ^ 8 % 2 ^ 16 ≠ 0 ∨ 12 ≤ w / 2 ^ 24 % 16 ∨
    (w / 2 ^ 28 ≠ 3 ∧ cx.d.vdie (w / 2 ^ 5 % 8) = none) ∨ (w / 2 ^ 28 = 3 ∧ cx.d.peers = 0)

def fwdBadB (s : State) (i : Issue) (c : Crew) (o : Opn) : Bool :=
  (lowest i.act).any fun n => (s.ctx? c.ctx).any fun cx =>
    let w := (o.wa n).toNat
    decide (4 ≤ w / 2 ^ 28 ∨ w / 2 ^ 8 % 2 ^ 16 ≠ 0 ∨ 12 ≤ w / 2 ^ 24 % 16 ∨
      (w / 2 ^ 28 ≠ 3 ∧ cx.d.vdie (w / 2 ^ 5 % 8) = none) ∨ (w / 2 ^ 28 = 3 ∧ cx.d.peers = 0))

theorem fwdBad_of {s i c o} (h : fwdBadB s i c o = true) : fwdBad s i c o := by
  obtain ⟨n, h1, h2⟩ := any_some h
  obtain ⟨cx, h3, h4⟩ := any_some h2
  exact ⟨n, cx, h1, h3, of_decide_eq_true h4⟩

/-- Kind 0 with virtual die 0, and kind 3 in a context with peers; each way a word is bad. -/
theorem witness_ForwardingTargets :
    CanWith ⟨none, [useA z]⟩ (fun s i c o => fwdOk s i c o true) fine true false false lowRead ∧
    CanWith ⟨none, [useA (lit 0x30000000)]⟩ (fun s i c o => fwdOk s i c o true) fine true false false lowRead ∧
    ∀ w ∈ [0x40000000, 0x100, 0x0C000000, 0xE0, 0x30000000], CanTrap ⟨none, [useA (lit w)]⟩ fwdBad fine true lowRead := by
  refine ⟨canWith (s := st) (fwdB st) (fun _ _ _ h => fwd_of h) (by decide +kernel),
    canWith (s := withDesc st fun d => { d with peers := 1 }) (fwdB _) (fun _ _ _ h => fwd_of h) (by decide +kernel), fun w hw => ?_⟩
  simp only [List.mem_cons, List.not_mem_nil, or_false] at hw
  rcases hw with rfl | rfl | rfl | rfl | rfl <;>
    exact canTrap (s := armed) (fwdBadB armed) (fun _ _ _ h => fwdBad_of h) (by decide +kernel)

theorem witness_ControlResults : Can ⟨none, []⟩ ∧
    CanWith ⟨none, []⟩ (fun _ i _ _ => i.s = i.elig ∧ i.act = i.s) ∧ CanTrap ⟨none, []⟩ (fun _ i _ _ => i.act ≠ 0 ∧ (i.s ≠ i.elig ∨ i.act ≠ i.s)) ∧
    CanWith ⟨some (v 22, 1), []⟩ (fun s _ c _ => ∃ cx v, s.ctx? c.ctx = some cx ∧ cx.d.vdie v = some (dieOf c.core) ∧
      ∀ u, u < v → cx.d.vdie u ≠ some (dieOf c.core)) ∧
    CanWith ⟨some (v 22, 1), [useA (r 0), useB (r 1)]⟩ (fun s _ c _ => (s.ctx? c.ctx).isSome = true) ∧
    Can ⟨some (v 22, 2), []⟩ := by
  refine ⟨can (s := st) (by decide +kernel), canWith (s := st id fun i => { i with act := 0xFF }) (fun i _ _ => decide (i.s = i.elig ∧ i.act = i.s))
      (fun _ _ _ h => of_decide_eq_true h) (by decide +kernel),
    canTrap (s := armed) (fun i _ _ => decide (i.act ≠ 0 ∧ (i.s ≠ i.elig ∨ i.act ≠ i.s))) (fun _ _ _ h => of_decide_eq_true h) (by decide +kernel),
    canWith (s := st) (fun _ c _ => (st.ctx? c.ctx).any fun cx => cx.d.vdie 0 == some (dieOf c.core))
      (fun _ c _ h => ?_) (by decide +kernel),
    canWith (s := st) (fun _ c _ => (st.ctx? c.ctx).isSome) (fun _ _ _ h => h) (by decide +kernel),
    can (s := st) (by decide +kernel)⟩
  obtain ⟨cx, h1, h2⟩ := any_some h
  exact ⟨cx, 0, h1, by simpa using h2, fun u hu => absurd hu (Nat.not_lt_zero u)⟩

theorem witness_SpecialRegisters : Can ⟨some (v 22, 1), []⟩ ∧ Can ⟨some (v 22, 2), []⟩ ∧
    CanWith ⟨some (v 22, 1), []⟩ (fun _ _ c _ => c.fpBusy = false) ∧
    (∀ k ∈ [0x15, 0x16], Can ⟨none, [useA (r 0)]⟩ (fun _ _ _ => !srwOk k) false false false lowRead) ∧
    Can ⟨none, [useA (r 0)]⟩ (fun _ _ _ => !srwOk 0x17) true false false lowRead ∧
    (∀ k ∈ [0x20, 0x21], Can ⟨none, [useA (r 0)]⟩ (fun _ _ _ => !srwOk k)) ∧
    ∃ t g l, (crewOf st).cox = none ∧ (crewOf st).lane 7 = some l ∧ st.team? l.team = some t ∧ st.grid? t.grid = some g ∧
      l.idx < g.lr.threads ∧ g.lr.threads < 2 ^ 32 ∧ t.index < g.lr.teams ∧ g.lr.teams < 2 ^ 32 ∧ g.lr.gx < 2 ^ 32 := by
  refine ⟨can (s := st) (by decide +kernel), can (s := st) (by decide +kernel),
    canWith (s := st) (fun _ c _ => !c.fpBusy) (fun _ _ _ h => by simpa using h) (by decide +kernel), ?_,
    can (s := st) (by decide +kernel), ?_, ?_⟩
  · intro k hk
    simp only [List.mem_cons, List.not_mem_nil, or_false] at hk
    rcases hk with rfl | rfl
    · exact can (s := st) (by decide +kernel)
    · exact can (s := st) (by decide +kernel)
  · intro k hk
    simp only [List.mem_cons, List.not_mem_nil, or_false] at hk
    rcases hk with rfl | rfl
    · exact can (s := st) (by decide +kernel)
    · exact can (s := st) (by decide +kernel)
  · refine ⟨(st.team? 1).getD default, (st.grid? 0).getD default, ((crewOf st).lane 7).getD default, ?_⟩
    decide +kernel

theorem witness_PrefixResults : ∃ i c, InProgress st i c := by
  obtain ⟨i, c, h, _⟩ := inProgressB_spec (s := st) (p := fun _ _ => true) (by decide +kernel)
  exact ⟨i, c, h⟩

/-! ## Witnesses: operands, traps and emulation -/

/-- The crew with one piece of long-latency work. -/
def withOp (o : LongOp) (f : Crew → Crew := id) : State :=
  st fun c => f { c with pipe := { c.pipe with inflight := [o], serial := 1 } }

/-- A piece of long-latency work of the crew's lanes but lane 3, of operands A and B the same in every lane. -/
def op (ins : Instr) (a b : DWord) (g : LongOp → LongOp := id) : LongOp :=
  g { instr := ins, entry := entryOf (crewOf st) issue ⟨List.replicate 8 a, List.replicate 8 b, List.replicate 8 0⟩,
      attr := (crewOf st).attr issue, left := List.replicate 8 0, group := [], prev := [], mem := true, after := [],
      dst := [], src := [], translated := true, done := false, replay := false, asked := false, ckpt := (crewOf st).ckpt }

/-- Register `v1` with poison in lanes 4 and 5. -/
def poisoned (c : Crew) : Crew :=
  { c with regs := c.regs.map fun x => if x.name = 1 then { x with tags := 0x30 } else x }

theorem crew_id {s : State} {k c} (h : s.crew? k = some c) : c.id = k := by
  have := List.find?_some h
  simpa using this

/-- The first crew of a state with its context. -/
def crewCx (s : State) (p : Crew → Ctx → Bool) : Bool := (s.crew? 2).any fun c => (s.ctx? c.ctx).any fun cx => p c cx

theorem crewCx_spec {s p} (h : crewCx s p = true) : ∃ c cx, s.crew? c.id = some c ∧ s.ctx? c.ctx = some cx ∧ p c cx = true := by
  obtain ⟨c, hc, h⟩ := any_some h
  obtain ⟨cx, hx, h⟩ := any_some h
  exact ⟨c, cx, by rw [crew_id hc]; exact hc, hx, h⟩

/-- `Ready` with the context of the crew. -/
def readyCx (s : State) (sh : Shape) (sync : Bool) (p : Issue → Crew → Ctx → Bool) : Bool :=
  readyB s sh fine sync false false allRead fun i c => (s.ctx? c.ctx).any fun cx => p i c cx

theorem readyCx_spec {s sh sync p} (h : readyCx s sh sync p = true) :
    ∃ i c cx, Ready s i c sh fine sync ∧ s.ctx? c.ctx = some cx ∧ p i c cx = true := by
  obtain ⟨i, c, h, hp⟩ := ready_of h
  obtain ⟨cx, hx, hp⟩ := any_some hp
  exact ⟨i, c, cx, h, hx, hp⟩

/-- The tagged reads of IADD `v22, v0, v1`. -/
def tagged01 (i : Issue) (c : Crew) (n : Nat) : Option Nat :=
  if has i.act n then c.taggedField (i.inHandler c) (shapeAB (v 22) (r 0) (r 1)).srcs n else none

theorem witness_OperandReads :
    (∃ c : Crew, 5 < c.width ∧ has issue.act 5 = true ∧ ∀ o ∈ c.pipe.inflight, o.done = false) ∧
    (∃ (c : Crew) (o : LongOp), c.pipe.inflight = [o] ∧ o.group = [2] ∧ o.prev = [none] ∧ o.done = true ∧
      nameOf c.wb false (r 2).r = .v 2 ∧ 5 < c.width ∧ 0 < nth o.left 5 0) ∧
    (∃ (s : State) (i : Issue) (c : Crew), Checked s i c (shapeAB (v 22) (r 0) (r 1)) ∧ i.entry = none ∧
      HasRoom s i c (shapeAB (v 22) (r 0) (r 1)) false ∧ c.poisonEn = false ∧ tagged01 i c 4 = some 1) ∧
    ∃ (s : State) (i : Issue) (c : Crew) (cx : Ctx) (l : Lane), Checked s i c (shapeAB (v 22) (r 0) (r 1)) ∧ i.entry = none ∧
      c.poisonEn = true ∧ c.quiet ∧ s.ctx? c.ctx = some cx ∧ c.mayTrap cx i.s ∧ c.lane 4 = some l ∧ l.poison.st = false ∧
      lowest (maskOf fun n => (tagged01 i c n).isSome) = some 4 := by
  refine ⟨⟨crewOf st, by decide +kernel⟩, ⟨crewOf (withOp (op .nop 0 0 fun o => { o with
    done := true, group := [2], prev := [none], left := List.replicate 8 1 })), _, rfl, rfl, rfl, rfl, by decide +kernel⟩, ?_, ?_⟩
  · obtain ⟨i, c, h, hp⟩ := checked_of (s := st poisoned) (sh := shapeAB (v 22) (r 0) (r 1)) (bad := fine) (sync := false)
      (ll := false) (kernel := false) (gs := none) (p := fun i c => i.entry.isNone && hasRoomB (st poisoned) i c
        (shapeAB (v 22) (r 0) (r 1)) false false false && (!c.poisonEn && tagged01 i c 4 == some 1)) (by decide +kernel)
    simp only [Bool.and_eq_true, Bool.not_eq_true', Option.isNone_iff_eq_none, beq_iff_eq] at hp
    exact ⟨_, i, c, h, hp.1.1, hasRoomB_spec hp.1.2, hp.2.1, hp.2.2⟩
  · let s := withDesc (st fun c => poisoned { c with poisonEn := true }) fun d => { d with trapvec := codeVa }
    obtain ⟨i, c, h, hp⟩ := checked_of (s := s) (sh := shapeAB (v 22) (r 0) (r 1)) (bad := fine) (sync := false)
      (ll := false) (kernel := false) (gs := none) (p := fun i c => i.entry.isNone && (c.poisonEn && (quietB c &&
        ((s.ctx? c.ctx).any (fun cx => mayTrapB c cx i.s) && ((c.lane 4).any (fun l => !l.poison.st) &&
        lowest (maskOf fun n => (tagged01 i c n).isSome) == some 4))))) (by decide +kernel)
    simp only [Bool.and_eq_true, Option.isNone_iff_eq_none, beq_iff_eq] at hp
    obtain ⟨h1, h2, h3, h4, h5, h6⟩ := hp
    obtain ⟨cx, hx, h4⟩ := any_some h4
    obtain ⟨l, hl, h5⟩ := any_some h5
    exact ⟨s, i, c, cx, l, h, h1, h2, quietB_spec h3, hx, mayTrapB_spec h4, hl, by simpa using h5, h6⟩

/-- A trap of the issue. -/
def trap (emul : Bool) : Trap :=
  { serial := 0, emul := emul, code := 7, arg := 127, emask := 0xF7, s := 0xFF, pc := codeVa, len := 1,
    entry := some (entryOf (crewOf st) issue ⟨[], [], []⟩), ckpt := (crewOf st).ckpt, tok := none, eop := 0, efields := 0,
    eimm := 0, epfx := 0, grade := 2, query := [] }

/-- The crew with a trap raised, in a context whose handler is at an address. -/
def trapped (emul : Bool) (vec : Nat) (f : Crew → Crew := id) : State :=
  withDesc (st fun c => f { c with pipe := { c.pipe with traps := [trap emul] } }) fun d => { d with trapvec := vec, emuvec := vec }

/-- The crew in a handler of one level, whose queue holds one entry. -/
def inHandler (emul : Bool) (c : Crew) : Crew :=
  { c with
    lanes := c.lanes.map (Option.map fun l => { l with depth := 1, saves := [⟨none, codeVa⟩] })
    lv := { c.lv with
      k1 := emul
      cur := { c.lv.cur with
        masked := true, efields := 0x16000000, emask := 0xF0, epc := codeVa, elen := 1
        rpq := [entryOf (crewOf st) issue ⟨List.replicate 8 1, List.replicate 8 2, List.replicate 8 3⟩] } } }

/-- A trap due in a crew, with its context. -/
def dueB (s : State) (p : Crew → Trap → Ctx → Bool) : Bool := crewCx s fun c cx => c.trapDue.any fun t => p c t cx

theorem dueB_spec {s p} (h : dueB s p = true) :
    ∃ c t cx, s.crew? c.id = some c ∧ c.trapDue = some t ∧ s.ctx? c.ctx = some cx ∧ p c t cx = true := by
  obtain ⟨c, cx, hc, hx, h⟩ := crewCx_spec h
  obtain ⟨t, ht, h⟩ := any_some h
  exact ⟨c, t, cx, hc, ht, hx, h⟩

/-- A trap is due; TRAP issues behind an operation that is not done. -/
theorem witness_TrapEntry : (∃ (s : State) (c : Crew) (t : Trap) (cx : Ctx), s.crew? c.id = some c ∧ c.trapDue = some t ∧
    s.ctx? c.ctx = some cx ∧ t.emul = false ∧ c.mayTrap cx t.s ∧ t.arg = 127 ∧ t.code < 64) ∧
    CanWith ⟨none, []⟩ (fun _ i c _ => i.entry = none ∧ c.pipe.traps = [] ∧
      ∃ o ∈ c.pipe.inflight, o.entry.serial < c.pipe.serial ∧ o.done = false) fine true := by
  refine ⟨?_, canWith (s := withOp (op .nop 0 0)) (fun i c _ => i.entry.isNone && (c.pipe.traps.isEmpty &&
      c.pipe.inflight.any fun o => decide (o.entry.serial < c.pipe.serial) && !o.done)) (fun i c _ h => ?_) (by decide +kernel)⟩
  rotate_left
  · simp only [Bool.and_eq_true, Option.isNone_iff_eq_none, List.isEmpty_iff, List.any_eq_true, decide_eq_true_iff,
      Bool.not_eq_true'] at h
    exact h
  obtain ⟨c, t, cx, h1, h2, h3, h⟩ := dueB_spec (s := trapped false codeVa)
    (p := fun c t cx => !t.emul && mayTrapB c cx t.s && decide (t.arg = 127 ∧ t.code < 64)) (by decide +kernel)
  simp only [Bool.and_eq_true, Bool.not_eq_true', decide_eq_true_iff] at h
  exact ⟨_, c, t, cx, h1, h2, h3, h.1.1, mayTrapB_spec h.1.2, h.2⟩

theorem witness_TrapInstructions :
    (∃ (s : State) (c : Crew) (t : Trap) (cx : Ctx) (g : Grid), s.crew? c.id = some c ∧ c.trapDue = some t ∧
      s.ctx? c.ctx = some cx ∧ s.grid? c.grid = some g ∧ t.emul = false ∧ g.fin.isNone = true ∧ g.shadow.isNone = true ∧ c.depthAt t.s = 0 ∧
      cx.d.trapvec = 0 ∧ t.arg = 127 ∧ t.code < 64) ∧
    (∃ (s : State) (c : Crew) (t : Trap) (cx : Ctx) (g : Grid), s.crew? c.id = some c ∧ c.trapDue = some t ∧
      s.ctx? c.ctx = some cx ∧ s.grid? c.grid = some g ∧ t.emul = false ∧ g.fin.isNone = true ∧ g.shadow.isNone = true ∧
      0 < c.depthAt t.s ∧ c.lv.cur.masked = true) ∧
    (∃ (s : State) (i : Issue) (c : Crew) (cx : Ctx), Ready s i c ⟨none, []⟩ fine true ∧ s.ctx? c.ctx = some cx ∧ i.act = 0) ∧
    ∃ (s : State) (i : Issue) (c : Crew) (cx : Ctx), Ready s i c ⟨none, []⟩ fine true ∧ s.ctx? c.ctx = some cx ∧
      i.entry = none ∧ i.act ≠ 0 ∧ c.bkpten = true ∧ c.quiet ∧ c.mayTrap cx i.s := by
  refine ⟨?_, ?_, ?_, ?_⟩
  · obtain ⟨c, t, cx, h1, h2, h3, h⟩ := dueB_spec (s := trapped false 0) (p := fun c t cx =>
      ((trapped false 0).grid? c.grid).any fun (g : Grid) => decide (t.emul = false ∧ g.fin.isNone = true ∧ g.shadow.isNone = true ∧ c.depthAt t.s = 0 ∧
        cx.d.trapvec = 0 ∧ t.arg = 127 ∧ t.code < 64)) (by decide +kernel)
    obtain ⟨g, hg, h⟩ := any_some h
    exact ⟨_, c, t, cx, g, h1, h2, h3, hg, of_decide_eq_true h⟩
  · obtain ⟨c, t, cx, h1, h2, h3, h⟩ := dueB_spec (s := trapped false 0 (inHandler false)) (p := fun c t cx =>
      ((trapped false 0 (inHandler false)).grid? c.grid).any fun (g : Grid) => decide (t.emul = false ∧ g.fin.isNone = true ∧ g.shadow.isNone = true ∧
        0 < c.depthAt t.s ∧ c.lv.cur.masked = true)) (by decide +kernel)
    obtain ⟨g, hg, h⟩ := any_some h
    exact ⟨_, c, t, cx, g, h1, h2, h3, hg, of_decide_eq_true h⟩
  · obtain ⟨i, c, cx, h, hx, hp⟩ := readyCx_spec (s := st id fun i => { i with act := 0 }) (sh := ⟨none, []⟩) (sync := true)
      (p := fun i _ _ => i.act == 0) (by decide +kernel)
    exact ⟨_, i, c, cx, h, hx, by simpa using hp⟩
  · obtain ⟨i, c, cx, h, hx, hp⟩ := readyCx_spec
      (s := withDesc (st fun c => { c with bkpten := true }) fun d => { d with trapvec := codeVa }) (sh := ⟨none, []⟩)
      (sync := true) (p := fun i c cx => i.entry.isNone && (i.act != 0 && (c.bkpten && (quietB c && mayTrapB c cx i.s))))
      (by decide +kernel)
    simp only [Bool.and_eq_true, Option.isNone_iff_eq_none, bne_iff_ne] at hp
    exact ⟨_, i, c, cx, h, hx, hp.1, hp.2.1, hp.2.2.1, quietB_spec hp.2.2.2.1, mayTrapB_spec hp.2.2.2.2⟩

theorem witness_EmulationEntry : ∃ (s : State) (c : Crew) (t : Trap) (cx : Ctx), s.crew? c.id = some c ∧ c.trapDue = some t ∧
    s.ctx? c.ctx = some cx ∧ t.emul = true ∧ c.depthAt t.s = 0 ∧ (∃ e, t.entry = some e ∧ e.w1 = none) := by
  obtain ⟨c, t, cx, h1, h2, h3, h⟩ := dueB_spec (s := trapped true codeVa)
    (p := fun c t _ => t.emul && (decide (c.depthAt t.s = 0) && t.entry.any fun e => e.w1.isNone)) (by decide +kernel)
  simp only [Bool.and_eq_true, decide_eq_true_iff] at h
  obtain ⟨e, he, hw⟩ := any_some h.2.2
  exact ⟨_, c, t, cx, h1, h2, h3, h.1, h.2.1, e, he, by simpa using hw⟩

/-- RTE and EMRET of two registers into `v88` at level 1. -/
theorem witness_HandlerReturns :
    CanWith ⟨none, []⟩ (fun _ i c _ => i.entry = none ∧ (∀ o ∈ c.pipe.inflight, o.done = true) ∧ c.depthAt i.s = 1 ∧
      ∃ l w vs, c.lane 7 = some l ∧ l.saves = w :: vs) (fun _ c i => levelBad false c i) true ∧
    ∃ (s : State) (i : Issue) (c : Crew), destName (c.lv.cur.efields.toNat / 2 ^ 24 % 2 ^ 7) = some (v 22) ∧
      Checked s i c ⟨some (v 22, 2), []⟩ (fun _ c i => levelBad true c i) true false true (some [(v 22, 2, 2)]) ∧
      levelBad true c i = false ∧ HasRoom s i c ⟨some (v 22, 2), []⟩ false true ∧ i.entry = none ∧ i.act ≠ 0 ∧
      (∀ o ∈ c.pipe.inflight, o.done = true) ∧ c.depthAt i.s = 1 := by
  refine ⟨?_, ?_⟩
  · exact canWith (s := st (inHandler false)) (fun i c _ => i.entry.isNone && (c.pipe.inflight.isEmpty && (c.depthAt i.s == 1 &&
        (c.lane 7).any fun l => !l.saves.isEmpty)))
      (fun i c _ h => by
        simp only [Bool.and_eq_true, Option.isNone_iff_eq_none, List.isEmpty_iff, beq_iff_eq] at h
        obtain ⟨h1, h2, h3, h4⟩ := h
        obtain ⟨l, hl, hs⟩ := any_some h4
        refine ⟨h1, by simp [h2], h3, l, ?_⟩
        cases hv : l.saves with
        | nil => simp [hv] at hs
        | cons w vs => exact ⟨w, vs, hl, rfl⟩) (by decide +kernel)
  · obtain ⟨i, c, h, hp⟩ := checked_of (s := st (inHandler true)) (sh := ⟨some (v 22, 2), []⟩)
      (bad := fun _ c i => levelBad true c i) (sync := true) (ll := false) (kernel := true) (gs := some [(v 22, 2, 2)])
      (p := fun i c => decide (destName (c.lv.cur.efields.toNat / 2 ^ 24 % 2 ^ 7) = some (v 22)) && (!levelBad true c i &&
        (hasRoomB (st (inHandler true)) i c ⟨some (v 22, 2), []⟩ false true false && (i.entry.isNone && (i.act != 0 &&
        (c.pipe.inflight.isEmpty && decide (c.depthAt i.s = 1))))))) (by decide +kernel)
    simp only [Bool.and_eq_true, Bool.not_eq_true', Option.isNone_iff_eq_none, bne_iff_ne, decide_eq_true_iff,
      List.isEmpty_iff] at hp
    obtain ⟨h1, h2, h3, h4, h5, h6, h7⟩ := hp
    exact ⟨_, i, c, h1, h, h2, hasRoomB_spec h3, h4, h5, by simp [h6], h7⟩

theorem witness_HandlerAccess :
    CanWith ⟨some (v 22, 1), [useA z]⟩ (fun _ i c o => ∀ n, has i.act n = true →
      (o.wa n).toNat < 256 ∧ 0 ≤ (o.wa n).toNat / 16 ∧ (o.wa n).toNat / 16 < 12 ∧ (o.wa n).toNat % 16 < c.lv.cur.rpq.length)
      needHandler ∧
    (∀ w ∈ [0x50, 0xB0], CanWith ⟨none, [useA (lit w), ⟨3, .lit w, 1, false, false⟩]⟩ (fun _ i c _ => ∀ n, has i.act n = true →
      (c.lane n).isSome ∧ w.toNat < 256 ∧ 5 ≤ w.toNat / 16 ∧ w.toNat / 16 < 12 ∧ w.toNat % 16 < c.lv.cur.rpq.length)
      needHandler true) ∧
    CanWith ⟨none, [useA z, ⟨3, .zr, 1, false, false⟩]⟩ (fun _ i c o => ∃ x, c.lv.cur.rpq[0]? = some x ∧
      (x.setWord 0 0).present = x.present ∧ ∀ n, has i.act n = true → (c.lane n).isSome ∧ o.wa n = 0) needHandler true ∧
    CanWith ⟨none, [useA (r 0)]⟩ (fun _ _ _ _ => True) (fun _ c i => c.depthAt i.s == 0 || i.s != i.elig) true false false lowRead ∧
    Can ⟨some (v 22, 1), []⟩ needHandler false false true ∧ Can ⟨none, [useA (r 0)]⟩ needHandler false false true := by
  have key (w : Word) (hb : readyB (st (inHandler false)) ⟨none, [useA (lit w), ⟨3, .lit w, 1, false, false⟩]⟩ needHandler true
      false false allRead (fun i c => i.act != 0 && lanes64 fun n => !has i.act n || ((c.lane n).isSome &&
        decide (w.toNat < 256 ∧ 5 ≤ w.toNat / 16 ∧ w.toNat / 16 < 12 ∧ w.toNat % 16 < c.lv.cur.rpq.length))) = true) :
      CanWith ⟨none, [useA (lit w), ⟨3, .lit w, 1, false, false⟩]⟩ (fun _ i c _ => ∀ n, has i.act n = true →
      (c.lane n).isSome ∧ w.toNat < 256 ∧ 5 ≤ w.toNat / 16 ∧ w.toNat / 16 < 12 ∧ w.toNat % 16 < c.lv.cur.rpq.length)
      needHandler true :=
    canWith (fun i c _ => lanes64 fun n => !has i.act n || ((c.lane n).isSome &&
        decide (w.toNat < 256 ∧ 5 ≤ w.toNat / 16 ∧ w.toNat / 16 < 12 ∧ w.toNat % 16 < c.lv.cur.rpq.length)))
      (fun _ _ _ h => all_lanes h fun _ hn => by rw [Bool.and_eq_true, decide_eq_true_iff] at hn; exact ⟨hn.1, hn.2⟩) hb
  refine ⟨?_, ?_, ?_, ?_, can (s := st (inHandler false)) (by decide +kernel), can (s := st (inHandler true)) (by decide +kernel)⟩
  · exact canWith (s := st (inHandler false)) (fun i c o => lanes64 fun n => !has i.act n || decide ((o.wa n).toNat < 256 ∧
        0 ≤ (o.wa n).toNat / 16 ∧ (o.wa n).toNat / 16 < 12 ∧ (o.wa n).toNat % 16 < c.lv.cur.rpq.length))
      (fun _ _ _ h => all_lanes h fun _ hn => of_decide_eq_true hn) (by decide +kernel)
  · intro w hw
    simp only [List.mem_cons, List.not_mem_nil, or_false] at hw
    rcases hw with rfl | rfl
    · exact key _ (by decide +kernel)
    · exact key _ (by decide +kernel)
  · exact canWith (s := st (inHandler false)) (fun i c o => (c.lv.cur.rpq[0]?).any fun x =>
        decide ((x.setWord 0 0).present = x.present) && lanes64 fun n => !has i.act n || ((c.lane n).isSome && o.wa n == 0))
      (fun _ c _ h => by
        obtain ⟨x, hx, h⟩ := any_some h
        rw [Bool.and_eq_true, decide_eq_true_iff] at h
        exact ⟨x, hx, h.1, all_lanes h.2 fun _ hn => by simpa using hn⟩) (by decide +kernel)
  · exact canWith (s := st (inHandler false)) (fun _ _ _ => true) (fun _ _ _ _ => trivial) (by decide +kernel)

/-! ## Witnesses: long-latency instructions -/

/-- A long-latency instruction issues in some state. -/
def CanLong (sh : Issue → MemAttr → Shape) (bad : MemAttr → State → Crew → Issue → Bool) (who : Crew → Issue → LaneMask := allRead)
    (P : State → Issue → Crew → Prop := fun _ _ _ => True) (mem : Bool := true) : Prop :=
  ∃ s i c, Ready s i c (sh i (c.attr i)) (bad (c.attr i)) false true false who mem ∧ i.act ≠ 0 ∧ P s i c

theorem canLong {s : State} {sh : Issue → MemAttr → Shape} {bad who} {P : State → Issue → Crew → Prop} {mem} (p : Issue → Crew → Bool)
    (hP : ∀ i c, p i c = true → P s i c)
    (h : inProgressB s (fun i c => passesB s i c (sh i (c.attr i)) (bad (c.attr i)) false true false none &&
      (untaggedB i c (sh i (c.attr i)) false who && (hasRoomB s i c (sh i (c.attr i)) true false mem && (i.act != 0 && p i c)))) = true) :
    CanLong sh bad who P mem := by
  obtain ⟨i, c, hi, hb⟩ := inProgressB_spec h
  simp only [Bool.and_eq_true, bne_iff_ne] at hb
  obtain ⟨h1, h2, h3, h4, h5⟩ := hb
  exact ⟨s, i, c, ⟨⟨hi, .inr (passesB_spec h1)⟩, .inr (untaggedB_spec h2), hasRoomB_spec h3⟩, h4, hP i c h5⟩

/-- A MEM prefix with a space, on an issue. -/
def memIn (sp : Space) (i : Issue) : Issue :=
  { i with mem := some ⟨.relaxed, .team, sp, 0, 0, true, true, 0⟩ }

/-- A tile of 16 by 16 elements in the team. -/
def tile0 : Tile := ⟨0, 1, .f32, 16, 16, List.replicate 256 7, 0⟩
def withTeam (s : State) (f : Team → Team) : State := { s with sched := { s.sched with teams := s.sched.teams.map f } }
def tiled (s : State) : State := withTeam s fun t => { t with tiles := [tile0] }

theorem witness_LongLatencyIssue :
    CanLong (fun _ _ => shapeAB (v 22) (r 0) (r 2) 2) (fun _ => fine) allRead (fun _ _ _ => True) false ∧
    CanLong (fun i m => ⟨some (v 24, dataW 16), [baseUse i m.space (v 4) false]⟩) (fun m _ c _ => spaceBad c ldSpaces m.space) ∧
    CanLong (fun i m => ⟨none, [baseUse i m.space (v 4) false, ⟨1, v 8, dataW 16, i.dlu, false⟩]⟩)
      (fun m _ c _ => spaceBad c stSpaces m.space) ∧
    CanLong (fun i m => ⟨some (v 22, 2), [baseUse i m.space (v 4) false, ⟨1, v 8, 2, i.dlu, false⟩] ++
      casUse (.cas (r 10)) true⟩) (fun m _ c _ => spaceBad c atomSpaces m.space) ∧
    CanLong (fun i _ => ⟨none, [baseUse i .global (v 4) false, ⟨1, v 8, baseW .scratch, i.dlu, false⟩]⟩)
      (fun _ _ c _ => cpyBad c .none .global .scratch) allRead
      (fun _ i c => ∀ n l, has i.act n = true → c.lane n = some l → (nth l.toks 7 ⟨0, false⟩).count < 64) ∧
    CanLong (fun i m => ⟨none, [baseUse i m.space (v 4) false, ⟨1, v 8, 1, i.dlu, false⟩]⟩)
      (fun m s c i => tileBad 0 s c i || spaceBad c tldSpaces m.space) lowRead (fun s _ c => tileBusy s c 0 = false) := by
  refine ⟨canLong (s := st) (fun _ _ => true) (fun _ _ _ => trivial) (by decide +kernel),
    canLong (s := st) (fun _ _ => true) (fun _ _ _ => trivial) (by decide +kernel),
    canLong (s := st id (memIn .scratch)) (fun _ _ => true) (fun _ _ _ => trivial) (by decide +kernel),
    canLong (s := st id (memIn .global)) (fun _ _ => true) (fun _ _ _ => trivial) (by decide +kernel),
    canLong (s := st) (fun i c => lanes64 fun n => !has i.act n || (c.lane n).all fun l => decide ((nth l.toks 7 ⟨0, false⟩).count < 64))
      (fun i c h n l hn hl => ?_) (by decide +kernel),
    canLong (s := tiled st) (fun _ c => !tileBusy (tiled st) c 0) (fun _ _ h => by simpa using h) (by decide +kernel)⟩
  have := all_lanes h (P := fun n => (c.lane n).all (fun l => decide ((nth l.toks 7 ⟨0, false⟩).count < 64)) = true) (fun _ h => h) n hn
  simpa [hl] using this

/-- An operation in flight in the crew. -/
def opB (s : State) (p : Crew → LongOp → Bool) : Bool :=
  (s.crew? 2).any fun c => c.pipe.inflight.head?.any fun (o : LongOp) => p c o

theorem opB_spec {s p} (h : opB s p = true) : ∃ c o, s.crew? c.id = some c ∧
    c.pipe.inflight.find? (·.entry.serial == o.entry.serial) = some o ∧ p c o = true := by
  obtain ⟨c, hc, h⟩ := any_some h
  obtain ⟨o, ho, h⟩ := any_some h
  refine ⟨c, o, by rw [crew_id hc]; exact hc, ?_, h⟩
  cases hl : c.pipe.inflight with
  | nil => simp [hl] at ho
  | cons a t => simp [hl] at ho; subst ho; simp

/-- One that can be performed. -/
def performB (s : State) (p : Crew → LongOp → Bool) : Bool :=
  opB s fun c o => s.canPerform c o && (!o.atPeer && ((o.src.all fun p => !o.poisoned s (c.teamOf p.1) (p.2.filterMap id)) && p c o))

theorem performB_spec {s p} (h : performB s p = true) : ∃ c o, Performable s c o ∧ p c o = true := by
  obtain ⟨c, o, hc, ho, h⟩ := opB_spec h
  simp only [Bool.and_eq_true, Bool.not_eq_true', List.all_eq_true] at h
  exact ⟨c, o, ⟨hc, ho, h.1, h.2.1, h.2.2.1⟩, h.2.2.2⟩

/-- An operation of every lane that awaits translation, on addresses A and B, in a context with a trap handler. -/
def accessing (ins : Instr) (a b : DWord) (sp : Space) (f : State → State := id) : State :=
  f (withDesc (withOp (op ins a b fun o => { o with
    translated := false, group := [22], prev := [none], attr := { o.attr with space := sp } })) fun d => { d with trapvec := codeVa })

/-- The crew's operation, and its context. -/
def theOp (s : State) : LongOp := ((crewOf s).pipe.inflight.head?).getD (op .nop 0 0)
def theCx (s : State) : Ctx := s.ctxs.head?.getD default

/-- The operation is the next to be translated, in lanes of team 1. -/
structure Translates (s : State) (c : Crew) (o : LongOp) : Prop where
  crew : s.crew? c.id = some c
  next : s.toTranslate c = some o
  open_ : o.done = false
  some_ : o.entry.part ≠ 0
  lanes : ∀ n, has o.entry.part n = true → (c.lane n).isSome

/-- A trap of it can be taken at once. -/
structure MayTrapAt (s : State) (c : Crew) (o : LongOp) : Prop where
  ctx : s.ctx? c.ctx = some (theCx s)
  earlier : ∀ p ∈ c.pipe.inflight, p.entry.serial < o.entry.serial → p.done = true
  none_ : c.pipe.traps = []
  may : c.mayTrap (theCx s) o.entry.s

def translatesB (s : State) : Bool :=
  decide (s.crew? (crewOf s).id = some (crewOf s)) && (decide (s.toTranslate (crewOf s) = some (theOp s)) && (!(theOp s).done &&
    ((theOp s).entry.part != 0 && lanes64 fun n => !has (theOp s).entry.part n || ((crewOf s).lane n).isSome)))

theorem translatesB_spec {s} (h : translatesB s = true) : Translates s (crewOf s) (theOp s) := by
  simp only [translatesB, Bool.and_eq_true, decide_eq_true_iff, Bool.not_eq_true', bne_iff_ne] at h
  exact ⟨h.1, h.2.1, h.2.2.1, h.2.2.2.1, all_lanes h.2.2.2.2 fun _ h => h⟩

def mayTrapAtB (s : State) : Bool :=
  decide (s.ctx? (crewOf s).ctx = some (theCx s)) && ((crewOf s).pipe.traps.isEmpty && (mayTrapB (crewOf s) (theCx s) (theOp s).entry.s &&
    (crewOf s).pipe.inflight.all fun p => decide ((theOp s).entry.serial ≤ p.entry.serial)))

theorem mayTrapAtB_spec {s} (h : mayTrapAtB s = true) : MayTrapAt s (crewOf s) (theOp s) := by
  simp only [mayTrapAtB, Bool.and_eq_true, decide_eq_true_iff, List.isEmpty_iff, List.all_eq_true] at h
  exact ⟨h.1, fun p hp hs => absurd hs (Nat.not_lt.mpr (h.2.2.2 p hp)), h.2.1, mayTrapB_spec h.2.2.1⟩

/-- A property of the address of every lane of the operation. -/
theorem every_lane {s : State} {P : Nat → Prop} (p : Nat → Bool)
    (h : lanes64 (fun n => !has (theOp s).entry.part n || p n) = true) (hp : ∀ n, p n = true → P n) :
    ∀ l, has (theOp s).entry.part l = true → P l := all_lanes h hp

theorem lies_global {s : State} {c : Crew} {l ea n nd b ps cx pa} (h1 : s.ctx? c.ctx = some cx) (h2 : s.translate cx ea nd = .ok pa)
    (h3 : ps = (List.range n).map fun i => some (.mem (pa + i))) : Lies s c l .global ea n nd b ps := ⟨cx, pa, h1, h2, h3⟩

theorem lies_scratch {s : State} {c : Crew} {l ea n nd b ps t} (h1 : s.team? (c.teamOf l) = some t) (h2 : b = true → ea + n ≤ t.res.ssize)
    (h3 : ps = (List.range n).map fun i => if ea + i < t.res.ssize then some (.scr (c.teamOf l) (ea + i)) else none) :
    Lies s c l .scratch ea n nd b ps := ⟨t, h1, h2, h3⟩

theorem forbidden_global {s : State} {c : Crew} {l ea n nd cx} (h1 : s.ctx? c.ctx = some cx) (h2 : s.translate cx ea nd = .prot) :
    Forbidden s c l .global ea n nd := ⟨cx, h1, h2⟩

theorem forbidden_scratch {s : State} {c : Crew} {l ea n nd t} (h1 : s.team? (c.teamOf l) = some t) (h2 : t.res.ssize < ea + n) :
    Forbidden s c l .scratch ea n nd := ⟨t, h1, h2⟩

/-- A load of four bytes; each lane's address is aligned and its bytes have places, is misaligned, or is past the address space
or the scratchpad. -/
theorem witness_AccessAddresses :
    (∃ s c o, Translates s c o ∧ o.instr = .ld4 (v 22) (v 4) 0 0 ∧ ∀ l, has o.entry.part l = true →
      (nth o.entry.a l 0).toNat = codeVa ∧ Placed s c l o.attr.space codeVa 4 Need.read ((List.range 4).map fun i => .mem (codePa + i))) ∧
    (∃ s c o, Translates s c o ∧ MayTrapAt s c o ∧ o.instr = .ld4 (v 22) (v 4) 0 0 ∧ ∀ l, has o.entry.part l = true →
      (nth o.entry.a l 0).toNat = codeVa + 1) ∧
    (∃ s c o, Translates s c o ∧ MayTrapAt s c o ∧ o.instr = .ld4 (v 22) (v 4) 0 0 ∧ ∀ l, has o.entry.part l = true →
      (nth o.entry.a l 0).toNat = 2 ^ 56 ∧ Forbidden s c l o.attr.space (2 ^ 56) 4 Need.read) ∧
    ∃ s c o, Translates s c o ∧ MayTrapAt s c o ∧ o.instr = .st4 (v 22) (v 4) 0 0 ∧ ∀ l, has o.entry.part l = true →
      (nth o.entry.a l 0).toNat = 4096 ∧ Forbidden s c l o.attr.space 4096 4 Need.write := by
  refine ⟨⟨accessing (.ld4 (v 22) (v 4) 0 0) 0x8000 0 .global, _, _, translatesB_spec (by decide +kernel), by decide +kernel,
      every_lane (fun n => decide ((nth (theOp (accessing (.ld4 (v 22) (v 4) 0 0) 0x8000 0 .global)).entry.a n 0).toNat = codeVa))
        (by decide +kernel) fun n hn => ⟨of_decide_eq_true hn, ?_⟩⟩,
    ⟨accessing (.ld4 (v 22) (v 4) 0 0) 0x8001 0 .global, _, _, translatesB_spec (by decide +kernel), mayTrapAtB_spec (by decide +kernel),
      by decide +kernel, every_lane (fun n => decide ((nth (theOp (accessing (.ld4 (v 22) (v 4) 0 0) 0x8001 0 .global)).entry.a n 0).toNat = codeVa + 1))
        (by decide +kernel) fun n hn => of_decide_eq_true hn⟩,
    ⟨accessing (.ld4 (v 22) (v 4) 0 0) 0x100000000000000 0 .global, _, _, translatesB_spec (by decide +kernel), mayTrapAtB_spec (by decide +kernel),
      by decide +kernel, every_lane (fun n => decide ((nth (theOp (accessing (.ld4 (v 22) (v 4) 0 0) 0x100000000000000 0 .global)).entry.a n 0).toNat = 2 ^ 56))
        (by decide +kernel) fun n hn => ⟨of_decide_eq_true hn, ?_⟩⟩,
    ⟨accessing (.st4 (v 22) (v 4) 0 0) 4096 0 .scratch, _, _, translatesB_spec (by decide +kernel), mayTrapAtB_spec (by decide +kernel),
      by decide +kernel, every_lane (fun n => decide ((nth (theOp (accessing (.st4 (v 22) (v 4) 0 0) 4096 0 .scratch)).entry.a n 0).toNat = 4096)
        && (crewOf (accessing (.st4 (v 22) (v 4) 0 0) 4096 0 .scratch)).teamOf n == 1)
        (by decide +kernel) fun n hn => ?_⟩⟩
  · exact lies_global (cx := theCx (accessing (.ld4 (v 22) (v 4) 0 0) 0x8000 0 .global)) (by decide +kernel) (by decide +kernel) rfl
  · exact forbidden_global (cx := theCx (accessing (.ld4 (v 22) (v 4) 0 0) 0x100000000000000 0 .global)) (by decide +kernel)
      (by decide +kernel)
  · rw [Bool.and_eq_true, decide_eq_true_iff, beq_iff_eq] at hn
    refine ⟨hn.1, forbidden_scratch (t := ((accessing (.st4 (v 22) (v 4) 0 0) 4096 0 .scratch).team? 1).getD default) ?_
      (by decide +kernel)⟩
    rw [hn.2]; decide +kernel

/-- A window of 16 words over the page, whose indexes are all 0: in range or not. -/
def window (policy tlen : Nat) : Window := ⟨codeVa, codeVa + 0x1000, 16, 4, 0, policy, tlen, true, false, 0⟩

def windowed (policy tlen : Nat) : State :=
  accessing (.ld4 (v 22) (v 4) 0 0) 0 0 .gwin fun s => withTeam s fun t => { t with windows := some (window policy tlen) :: t.windows.drop 1 }

/-- A load through a window: its index is in range, or not under either policy. -/
theorem witness_AccessAddresses_gather : ∀ p ∈ [(0, 1), (0, 0), (1, 0)], ∃ (s : State) (c : Crew) (o : LongOp) (places : List Place),
    Translates s c o ∧ MayTrapAt s c o ∧ o.instr = .ld4 (v 22) (v 4) 0 0 ∧ o.attr.space = .gwin ∧
    ∀ l, has o.entry.part l = true → (nth o.entry.a l 0).toNat = 0 ∧
      Gathers s c l 0 4 Need.read (window p.1 p.2) (fun _ => if p.2 = 0 then none else some 0) places := by
  have key (pol tl : Nat) (places : List Place) (h1 : translatesB (windowed pol tl) = true) (h2 : mayTrapAtB (windowed pol tl) = true)
      (h3 : lanes64 (fun n => !has (theOp (windowed pol tl)).entry.part n || (decide ((nth (theOp (windowed pol tl)).entry.a n 0).toNat = 0) &&
        (crewOf (windowed pol tl)).teamOf n == 1)) = true)
      (h4 : (theOp (windowed pol tl)).instr = .ld4 (v 22) (v 4) 0 0 ∧ (theOp (windowed pol tl)).attr.space = .gwin)
      (h5 : (windowed pol tl).ctx? (crewOf (windowed pol tl)).ctx = some (theCx (windowed pol tl)) ∧
        (windowed pol tl).translate (theCx (windowed pol tl)) (codeVa + 0x1000) Need.read = .ok (codePa + 0x1000) ∧
        ((windowed pol tl).team? 1).bind (fun t => (t.windows[0]?).join) = some (window pol tl) ∧
        (windowed pol tl).readsPoison 1 ((List.range 4).map fun k => .mem (codePa + 0x1000 + k)) = false ∧
        leNat ((List.range 4).map fun k => (windowed pol tl).view 1 (codePa + 0x1000 + k)) = 0)
      (h6 : places.length = 4 ∧ ∀ i, i < 4 → ∀ q, places[i]? = some q → if tl = 0 then q = .void else
        (windowed pol tl).translate (theCx (windowed pol tl)) (codeVa + i) Need.read = .ok (codePa + i) ∧ q = .mem (codePa + i)) :
      ∃ (s : State) (c : Crew) (o : LongOp) (places : List Place), Translates s c o ∧ MayTrapAt s c o ∧ o.instr = .ld4 (v 22) (v 4) 0 0 ∧
        o.attr.space = .gwin ∧ ∀ l, has o.entry.part l = true → (nth o.entry.a l 0).toNat = 0 ∧
          Gathers s c l 0 4 Need.read (window pol tl) (fun _ => if tl = 0 then none else some 0) places := by
    refine ⟨_, _, _, places, translatesB_spec h1, mayTrapAtB_spec h2, h4.1, h4.2, every_lane _ h3 fun n hn => ?_⟩
    rw [Bool.and_eq_true, decide_eq_true_iff, beq_iff_eq] at hn
    obtain ⟨tm, ht, hw⟩ := Option.bind_eq_some_iff.mp h5.2.2.1
    refine ⟨hn.1, by decide, ⟨tm, by rw [hn.2]; exact ht, hw⟩, ⟨by decide, (by decide : 0 < 4), (by decide : 0 % 2 ^ 32 + 4 ≤ 16 * 4)⟩,
      (fun h => by cases h), fun p hp hq => ?_, ⟨h6.1, fun i q hi => ?_⟩⟩
    · have hp0 : p ≤ (0 % 2 ^ 32 + 4 - 1) / 4 := hq
      replace hp0 : p = 0 := by omega
      subst hp0
      refine ⟨_, codePa + 0x1000, h5.1, h5.2.1, by rw [hn.2]; exact h5.2.2.2.1, ?_⟩
      rw [hn.2]
      have e := h5.2.2.2.2
      cases tl with
      | zero => exact (if_pos (.inr (Nat.zero_le _))).symm
      | succ n =>
        refine (congrArg some e.symm).trans (if_neg ?_).symm
        rintro (⟨h | h, _⟩ | h)
        · cases h
        · cases h
        · exact Nat.not_succ_le_zero n (e ▸ (show n + 1 ≤ leNat ((List.range 4).map fun k => (windowed pol (n + 1)).view 1 (codePa + 0x1000 + k)) from h))
    · have h4i : i < 4 := by
        have := (List.getElem?_eq_some_iff.mp hi).1
        omega
      have h := h6.2 i h4i q hi
      split at h
      · rename_i h0; simp only [h0, if_true]; exact h
      · rename_i h0
        simp only [h0, if_false]
        refine ⟨_, codePa + i, h5.1, ?_, h.2⟩
        have : codeVa + 0 * 4 + (0 % 2 ^ 32 + i) % 4 = codeVa + i := by omega
        show (windowed pol tl).translate _ (codeVa + 0 * 4 + (0 % 2 ^ 32 + i) % 4) Need.read = _
        rw [this]; exact h.1
  intro p hp
  simp only [List.mem_cons, List.not_mem_nil, or_false] at hp
  rcases hp with rfl | rfl | rfl
  · exact key 0 1 ((List.range 4).map fun i => .mem (codePa + i)) (by decide +kernel) (by decide +kernel) (by decide +kernel)
      (by decide +kernel) (by decide +kernel) ⟨rfl, by decide +kernel⟩
  · exact key 0 0 (List.replicate 4 .void) (by decide +kernel) (by decide +kernel) (by decide +kernel)
      (by decide +kernel) (by decide +kernel) ⟨rfl, by decide +kernel⟩
  · exact key 1 0 (List.replicate 4 .void) (by decide +kernel) (by decide +kernel) (by decide +kernel)
      (by decide +kernel) (by decide +kernel) ⟨rfl, by decide +kernel⟩

/-- A CPY between global memory, and one to a scratchpad range past the allocation; one with a misaligned destination. -/
theorem witness_AccessAddresses_copy :
    (∃ s c o, Translates s c o ∧ o.instr = .cpy (r 4) (r 8) .b4 0 .add .i32 .global .global 0 ∧ ∀ l, has o.entry.part l = true →
      (nth o.entry.a l 0).toNat = codeVa ∧ (nth o.entry.b l 0).toNat = codeVa + 64 ∧
      Lies s c l .global codeVa 4 Need.both false ((List.range 4).map fun i => some (.mem (codePa + i))) ∧
      Lies s c l .global (codeVa + 64) 4 Need.read false ((List.range 4).map fun i => some (.mem (codePa + 64 + i)))) ∧
    (∃ s c o, Translates s c o ∧ o.instr = .cpy (r 4) (r 8) .b4 0 .none .i32 .scratch .global 0 ∧ ∀ l, has o.entry.part l = true →
      (nth o.entry.a l 0).toNat = 4096 ∧ (nth o.entry.b l 0).toNat = codeVa + 64 ∧
      Lies s c l .scratch 4096 4 Need.write false (List.replicate 4 none) ∧
      Lies s c l .global (codeVa + 64) 4 Need.read false ((List.range 4).map fun i => some (.mem (codePa + 64 + i)))) ∧
    ∃ s c o, Translates s c o ∧ MayTrapAt s c o ∧ o.instr = .cpy (r 4) (r 8) .b4 0 .none .i32 .global .global 0 ∧
      ∀ l, has o.entry.part l = true → (nth o.entry.a l 0).toNat = codeVa + 2 := by
  refine ⟨⟨accessing (.cpy (r 4) (r 8) .b4 0 .add .i32 .global .global 0) 0x8000 0x8040 .global, _, _, translatesB_spec (by decide +kernel),
      by decide +kernel, every_lane (fun n => decide ((nth (theOp (accessing (.cpy (r 4) (r 8) .b4 0 .add .i32 .global .global 0) 0x8000 0x8040 .global)).entry.a n 0).toNat = codeVa
        ∧ (nth (theOp (accessing (.cpy (r 4) (r 8) .b4 0 .add .i32 .global .global 0) 0x8000 0x8040 .global)).entry.b n 0).toNat = codeVa + 64)) (by decide +kernel) fun n hn => ?_⟩,
    ⟨accessing (.cpy (r 4) (r 8) .b4 0 .none .i32 .scratch .global 0) 4096 0x8040 .global, _, _, translatesB_spec (by decide +kernel),
      by decide +kernel, every_lane (fun n => decide ((nth (theOp (accessing (.cpy (r 4) (r 8) .b4 0 .none .i32 .scratch .global 0) 4096 0x8040 .global)).entry.a n 0).toNat = 4096
        ∧ (nth (theOp (accessing (.cpy (r 4) (r 8) .b4 0 .none .i32 .scratch .global 0) 4096 0x8040 .global)).entry.b n 0).toNat = codeVa + 64
        ∧ (crewOf (accessing (.cpy (r 4) (r 8) .b4 0 .none .i32 .scratch .global 0) 4096 0x8040 .global)).teamOf n = 1)) (by decide +kernel) fun n hn => ?_⟩,
    ⟨accessing (.cpy (r 4) (r 8) .b4 0 .none .i32 .global .global 0) 0x8002 0x8040 .global, _, _, translatesB_spec (by decide +kernel),
      mayTrapAtB_spec (by decide +kernel), by decide +kernel,
      every_lane (fun n => decide ((nth (theOp (accessing (.cpy (r 4) (r 8) .b4 0 .none .i32 .global .global 0) 0x8002 0x8040 .global)).entry.a n 0).toNat = codeVa + 2)) (by decide +kernel) fun n hn => of_decide_eq_true hn⟩⟩
  · have hn := of_decide_eq_true hn
    exact ⟨hn.1, hn.2,
      lies_global (cx := theCx (accessing (.cpy (r 4) (r 8) .b4 0 .add .i32 .global .global 0) 0x8000 0x8040 .global)) (by decide +kernel)
        (by decide +kernel) rfl,
      lies_global (cx := theCx (accessing (.cpy (r 4) (r 8) .b4 0 .add .i32 .global .global 0) 0x8000 0x8040 .global)) (by decide +kernel)
        (by decide +kernel) rfl⟩
  · have hn := of_decide_eq_true hn
    refine ⟨hn.1, hn.2.1, lies_scratch
        (t := ((accessing (.cpy (r 4) (r 8) .b4 0 .none .i32 .scratch .global 0) 4096 0x8040 .global).team? 1).getD default) ?_
        (fun h => by cases h) (by rw [hn.2.2]; decide +kernel),
      lies_global (cx := theCx (accessing (.cpy (r 4) (r 8) .b4 0 .none .i32 .scratch .global 0) 4096 0x8040 .global)) (by decide +kernel)
        (by decide +kernel) rfl⟩
    rw [hn.2.2]; decide +kernel

/-- A tile of two by two elements. -/
def smallTile : Tile := ⟨0, 1, .f32, 2, 2, List.replicate 4 7, 0⟩

def tiling (a : DWord) : State :=
  accessing (.tld 0 (r 4) (r 8) true 0) a 8 .global fun s => withTeam s fun t => { t with tiles := [smallTile] }

theorem witness_AccessAddresses_tile :
    (∃ s c o tm, Translates s c o ∧ o.instr = .tld 0 (r 4) (r 8) true 0 ∧ lowest o.entry.part = some 0 ∧
      s.team? (c.teamOf 0) = some tm ∧ tm.tile? 0 = some smallTile ∧ (nth o.entry.a 0 0).toNat = codeVa ∧ (nth o.entry.b 0 0).toNat = 8 ∧
      ∀ i j, i < 2 → j < 2 → Placed s c 0 o.attr.space (codeVa + j * 8 + i * 4) 4 Need.read
        ((List.range 4).map fun k => .mem (codePa + j * 8 + i * 4 + k))) ∧
    ∃ s c o tm, Translates s c o ∧ MayTrapAt s c o ∧ o.instr = .tld 0 (r 4) (r 8) true 0 ∧ lowest o.entry.part = some 0 ∧
      s.team? (c.teamOf 0) = some tm ∧ tm.tile? 0 = some smallTile ∧ (nth o.entry.a 0 0).toNat = codeVa + 2 := by
  refine ⟨⟨tiling 0x8000, _, _, ((tiling 0x8000).team? 1).getD default, translatesB_spec (by decide +kernel), by decide +kernel,
      by decide +kernel, by decide +kernel, by decide +kernel, by decide +kernel, by decide +kernel, fun i j hi hj => ?_⟩,
    ⟨tiling 0x8002, _, _, ((tiling 0x8002).team? 1).getD default, translatesB_spec (by decide +kernel), mayTrapAtB_spec (by decide +kernel),
      by decide +kernel, by decide +kernel, by decide +kernel, by decide +kernel, by decide +kernel⟩⟩
  exact lies_global (cx := theCx (tiling 0x8000)) (pa := codePa + j * 8 + i * 4) (by decide +kernel)
    ((by decide +kernel : ∀ i, i < 2 → ∀ j, j < 2 → (tiling 0x8000).translate (theCx (tiling 0x8000)) (codeVa + j * 8 + i * 4) Need.read =
      .ok (codePa + j * 8 + i * 4)) i hi j hj) (by simp)

/-- Divisions by zero and of the most negative number by -1, and a reciprocal. -/
theorem witness_DivisionAndSpecialResults :
    ∀ ins ∈ [Instr.idiv (v 22) (r 0) (r 1) true false false 0, .fspec (v 22) (r 0) .rcp .fpcr 0, .fdiv (v 22) (r 0) (r 1) .rne 0],
      ∃ (s : State) (c : Crew) (o : LongOp), Performable s c o ∧ o.instr = ins ∧ o.mem = false ∧ o.src.isEmpty = true ∧
        o.writes (.v 22) 1 ∧ o.entry.part ≠ 0 := by
  have key (ins : Instr) (h : performB (withOp (op ins 0x80000000 0xFFFFFFFF fun o => { o with mem := false, group := [22], prev := [none] }))
      (fun _ o => decide (o.instr = ins) && (!o.mem && (o.src.isEmpty && (decide (o.group = [22]) && o.entry.part != 0)))) = true) :
      ∃ (s : State) (c : Crew) (o : LongOp), Performable s c o ∧ o.instr = ins ∧ o.mem = false ∧ o.src.isEmpty = true ∧
        o.writes (.v 22) 1 ∧ o.entry.part ≠ 0 := by
    obtain ⟨c, o, hp, h⟩ := performB_spec h
    simp only [Bool.and_eq_true, Bool.not_eq_true', bne_iff_ne, decide_eq_true_iff] at h
    exact ⟨_, c, o, hp, h.1, h.2.1, h.2.2.1, ⟨h.2.2.2.1, by decide⟩, h.2.2.2.2⟩
  intro ins hi
  simp only [List.mem_cons, List.not_mem_nil, or_false] at hi
  rcases hi with rfl | rfl | rfl
  · exact key _ (by decide +kernel)
  · exact key _ (by decide +kernel)
  · exact key _ (by decide +kernel)

/-- Four bytes of memory. -/
def four : List (Option Place) := (List.range 4).map fun k => some (.mem (codePa + k))

/-- Lanes with the same places. -/
def everyLane (ps : List (Option Place)) : List (Nat × List (Option Place)) := (lanesOf issue.act).map fun n => (n, ps)

theorem witness_LoadResults :
    (∃ (s : State) (c : Crew) (o : LongOp), Performable s c o ∧
      (∀ n, has o.entry.part n = true → (o.src.lookup n).isSome = true ∧ (c.lane n).isSome = true) ∧ o.instr = .ld4 (v 22) (v 4) 0 0 ∧ o.writes (.v 22) 1) ∧
    ∃ (s : State) (c : Crew) (o : LongOp) (tm : Team) (x : Tile), Performable s c o ∧
      (∀ n, has o.entry.part n = true → (o.src.lookup n).isSome = true ∧ (c.lane n).isSome = true) ∧ o.instr = .tld 0 (r 4) (r 8) true 0 ∧ o.group = [] ∧
      (o.src.map (·.1)).head? = some 0 ∧ s.team? (c.teamOf 0) = some tm ∧ tm.tile? 0 = some x ∧
      x.elems.length = x.rows * x.cols ∧ 0 < x.cols := by
  constructor
  · let s := withOp (op (.ld4 (v 22) (v 4) 0 0) 0 0 fun o => { o with group := [22], prev := [none], src := everyLane four })
    obtain ⟨c, o, hp, h⟩ := performB_spec (s := s) (p := fun c o => decide (o.instr = .ld4 (v 22) (v 4) 0 0) &&
      (decide (o.group = [22]) && lanes64 fun n => !has o.entry.part n || ((o.src.lookup n).isSome && (c.lane n).isSome))) (by decide +kernel)
    simp only [Bool.and_eq_true, decide_eq_true_iff] at h
    exact ⟨s, c, o, hp, all_lanes h.2.2 fun _ h => by simpa using h, h.1, ⟨h.2.1, by decide⟩⟩
  · let s := tiled (withOp (op (.tld 0 (r 4) (r 8) true 0) 0 0 fun o => { o with
      src := [(0, (List.range 1024).map fun k => some (.mem (codePa + k)))], entry := { o.entry with part := 1 } }))
    obtain ⟨c, o, hp, h⟩ := performB_spec (s := s) (p := fun c o => decide (o.instr = .tld 0 (r 4) (r 8) true 0) &&
      (o.group.isEmpty && (decide ((o.src.map (·.1)).head? = some 0) && (((s.team? (c.teamOf 0)).any fun (tm : Team) => (tm.tile? 0).any fun (x : Tile) =>
        decide (x.elems.length = x.rows * x.cols ∧ 0 < x.cols)) && lanes64 fun n => !has o.entry.part n || ((o.src.lookup n).isSome && (c.lane n).isSome))))) (by decide +kernel)
    simp only [Bool.and_eq_true, List.isEmpty_iff, decide_eq_true_iff] at h
    obtain ⟨h2, h3, h4, h5, h6⟩ := h
    obtain ⟨tm, ht, h5⟩ := any_some h5
    obtain ⟨x, hx, h5⟩ := any_some h5
    exact ⟨s, c, o, tm, x, hp, all_lanes h6 fun _ h => by simpa using h, h2, h3, h4, ht, hx, of_decide_eq_true h5⟩

/-- The places of four bytes of the team's scratchpad. -/
def fourS : List (Option Place) := (List.range 4).map fun k => some (.scr 1 (64 + k))

/-- The team already holds the line, so that no store needs room for a new one. -/
def holding (s : State) : State := withTeam s fun t => { t with buf := bufAdd 0 (lineOf codePa) [(codePa, 0)] t.buf }

theorem witness_StoreResults :
    ∀ ins ∈ [Instr.st4 (v 8) (v 4) 0 0, .tst 0 (r 4) (r 8) false 0], ∀ ps ∈ [four, fourS],
      ∃ (s : State) (c : Crew) (o : LongOp) (s1 : State), Performable s c o ∧ o.instr = ins ∧ o.src = [] ∧ o.group = [] ∧
        (∀ p ∈ o.dst, c.teamOf p.1 = 1) ∧ (s.team? 1).isSome = true ∧ s.storeLanes c (o.cls == some .c) c.core o.attr.pdom (s.storesOf c o) = .ok s1 ∧
        (∀ x k, .scr x k ∈ ((s.storesOf c o).flatMap (·.2)).map (·.1) → (s.team? x).isSome = true) ∧ o.dst ≠ [] := by
  have key (ins : Instr) (ps : List (Option Place)) (s : State)
      (h : performB s (fun c o => decide (o.instr = ins) && (o.src.isEmpty && (o.group.isEmpty && ((o.dst.all fun p => c.teamOf p.1 == 1) &&
        ((s.team? 1).isSome && ((match s.storeLanes c (o.cls == some .c) c.core o.attr.pdom (s.storesOf c o) with
          | .ok _ => true
          | .error _ => false) && (((((s.storesOf c o).flatMap (·.2)).map (·.1)).all fun p => match p with
            | .scr x _ => (s.team? x).isSome
            | _ => true) && !o.dst.isEmpty))))))) = true) :
      ∃ (s : State) (c : Crew) (o : LongOp) (s1 : State), Performable s c o ∧ o.instr = ins ∧ o.src = [] ∧ o.group = [] ∧
        (∀ p ∈ o.dst, c.teamOf p.1 = 1) ∧ (s.team? 1).isSome = true ∧ s.storeLanes c (o.cls == some .c) c.core o.attr.pdom (s.storesOf c o) = .ok s1 ∧
        (∀ x k, .scr x k ∈ ((s.storesOf c o).flatMap (·.2)).map (·.1) → (s.team? x).isSome = true) ∧ o.dst ≠ [] := by
    obtain ⟨c, o, hp, h⟩ := performB_spec h
    simp only [Bool.and_eq_true, List.isEmpty_iff, decide_eq_true_iff, List.all_eq_true, beq_iff_eq] at h
    obtain ⟨h1, h2, h3, h4, h5, h6, h7, h8⟩ := h
    split at h6
    · exact ⟨s, c, o, _, hp, h1, h2, h3, h4, h5, ‹_›, fun x k hm => h7 _ hm, by simpa using h8⟩
    · cases h6
  intro ins hi ps hps
  simp only [List.mem_cons, List.not_mem_nil, or_false] at hi hps
  rcases hi with rfl | rfl <;> rcases hps with rfl | rfl
  · exact key _ four (holding (withOp (op (.st4 (v 8) (v 4) 0 0) 0 0x1234 fun o => { o with dst := everyLane four }))) (by decide +kernel)
  · exact key _ fourS (withOp (op (.st4 (v 8) (v 4) 0 0) 0 0x1234 fun o => { o with dst := everyLane fourS })) (by decide +kernel)
  · exact key _ four (holding (tiled (withOp (op (.tst 0 (r 4) (r 8) false 0) 0 0 fun o => { o with dst := [(0, four)] })))) (by decide +kernel)
  · exact key _ fourS (tiled (withOp (op (.tst 0 (r 4) (r 8) false 0) 0 0 fun o => { o with dst := [(0, fourS)] }))) (by decide +kernel)

/-- The word that the atomics of the witness act on. -/
def fourP : List Place := (List.range 4).map fun k => .mem (codePa + k)

theorem witness_AtomicResults :
    ((32 = 32 ∨ 32 = 64) ∧ (0xFFFFFFFF : Nat) < 2 ^ 32) ∧
    (∃ (s : State) (c : Crew) (o : LongOp), Performable s c o ∧ o.instr = .atom (v 22) (r 4) (r 8) .add false 0 0 ∧
      o.src.map (·.1) = lanesOf o.entry.part ∧ o.src ≠ [] ∧ (∀ p ∈ o.src, c.teamOf p.1 = 1 ∧ p.2 = fourP.map some) ∧
      o.writes (.v 22) 1 ∧ s.heldLines 1 (memLines fourP) = [] ∧ (s.team? 1).isSome = true ∧ fourP.Nodup) ∧
    (∃ (s : State) (i : Issue) (c : Crew) (cx : Ctx) (pa : Nat), Ready s i c ⟨none, [baseUse i .generic (v 4) false, useB (lit 5)]⟩
        (fun _ c _ => spaceBad c atomSpaces .generic) true ∧ i.act ≠ 0 ∧ isRel (c.attr i).order = false ∧ c.attr i = (crewOf st).attr issue ∧
      s.homePoison 1 (memBytes ((List.range 4).map fun k => .mem (pa + k))) = false ∧
      (memBytes ((List.range 4).map fun k => .mem (pa + k))).any isPeerPa = false ∧
      s.ctx? c.ctx = some cx ∧ s.translate cx (codeVa + 4 * 64) Need.both = .ok pa ∧
      s.heldLines 1 (memLines ((List.range 4).map fun k => .mem (pa + k))) = [] ∧
      ∀ l, has i.act l = true → (c.lane l).isSome = true ∧ c.teamOf l = 1 ∧
        (i.opn c ⟨none, [baseUse i .generic (v 4) false, useB (lit 5)]⟩).fa l = BitVec.ofNat 64 (codeVa + 4 * 64)) := by
  refine ⟨by decide, ?_, ?_⟩
  · let s := withOp (op (.atom (v 22) (r 4) (r 8) .add false 0 0) 0 1 fun o => { o with
      group := [22], prev := [none], src := everyLane (fourP.map some), dst := everyLane (fourP.map some) })
    obtain ⟨c, o, hp, h⟩ := performB_spec (s := s) (p := fun c o => decide (o.instr = .atom (v 22) (r 4) (r 8) .add false 0 0) &&
      (decide (o.src.map (·.1) = lanesOf o.entry.part) && (!o.src.isEmpty && ((o.src.all fun p => c.teamOf p.1 == 1 && decide (p.2 = fourP.map some)) &&
      (decide (o.group = [22]) && ((s.heldLines 1 (memLines fourP)).isEmpty && (s.team? 1).isSome)))))) (by decide +kernel)
    simp only [Bool.and_eq_true, List.isEmpty_iff, decide_eq_true_iff, List.all_eq_true, beq_iff_eq] at h
    obtain ⟨h1, h2, h3, h4, h5, h6, h7⟩ := h
    exact ⟨s, c, o, hp, h1, h2, by simpa using h3, h4, ⟨h5, by decide⟩, h6, h7, by decide⟩
  · let s := st fun c => { c with regs := c.regs.map fun x => if x.name = 4 then ⟨4, List.replicate 8 (BitVec.ofNat 32 (codeVa + 4 * 64)), 0⟩ else x }
    obtain ⟨i, c, hi, hb⟩ := inProgressB_spec (s := s) (p := fun i c =>
      passesB s i c ⟨none, [baseUse i .generic (v 4) false, useB (lit 5)]⟩ (fun _ c _ => spaceBad c atomSpaces .generic) true false false none &&
      (untaggedB i c ⟨none, [baseUse i .generic (v 4) false, useB (lit 5)]⟩ false allRead && (i.act != 0 && (decide (isRel (c.attr i).order = false ∧ c.attr i = (crewOf st).attr issue) &&
      (true && ((s.ctx? c.ctx).any (fun (cx : Ctx) => match s.translate cx (codeVa + 4 * 64) Need.both with
        | .ok pa => decide (s.heldLines 1 (memLines ((List.range 4).map fun k => .mem (pa + k))) = [] ∧
            s.homePoison 1 (memBytes ((List.range 4).map fun k => .mem (pa + k))) = false ∧
            (memBytes ((List.range 4).map fun k => .mem (pa + k))).any isPeerPa = false)
        | _ => false) && lanes64 fun l => !has i.act l || ((c.lane l).isSome && (c.teamOf l == 1 &&
          (i.opn c ⟨none, [baseUse i .generic (v 4) false, useB (lit 5)]⟩).fa l == BitVec.ofNat 64 (codeVa + 4 * 64))))))))) (by decide +kernel)
    simp only [Bool.and_eq_true, decide_eq_true_iff, bne_iff_ne, true_and] at hb
    obtain ⟨h1, h2, h3, h4, h6, h7⟩ := hb
    obtain ⟨cx, hx, h6⟩ := any_some h6
    split at h6
    · have h6 := of_decide_eq_true h6
      refine ⟨s, i, c, cx, _, ⟨⟨hi, .inr (passesB_spec h1)⟩, .inr (untaggedB_spec h2), fun _ _ h => by cases h⟩, h3, h4.1, h4.2, h6.2.1,
        h6.2.2, hx, ‹_›, h6.1, all_lanes h7 fun l hl => ?_⟩
      simp only [Bool.and_eq_true, beq_iff_eq] at hl
      exact ⟨hl.1, hl.2.1, hl.2.2⟩
    · cases h6

/-! ## Witnesses: tiles, barriers and queues -/

/-- A team of the crew, found by the lowest lane of the issue. -/
def teamB (s : State) (i : Issue) (c : Crew) (p : Team → Bool) : Bool := (s.team? (c.tileTeam i)).any p

theorem witness_TileRegisters :
    CanWith ⟨none, []⟩ (fun s i c _ => tileBusy s c 0 = false ∧ ((s.team? (c.tileTeam i)).bind (·.tile? 0)).isSome = true)
      (tileBad 0) true ∧
    (∀ sh : Shape, sh = ⟨none, []⟩ ∨ sh = ⟨none, [⟨0, v 4, 2, true, false⟩]⟩ → CanIdle sh (tileBad 0) true) ∧
    CanIdle ⟨some (v 22, 2), [useB (lit 15)]⟩ (fun s c i => notVector (v 22) || tileBad 0 s c i) false false false lowRead ∧
    CanWith ⟨some (v 22, 1), []⟩ (fun s _ c _ => tileBusy s c 0 = false) (tileBad 0) ∧
    (∀ col : Bool, ∃ (s : State) (i : Issue) (c : Crew) (tm : Team) (x : Tile), s.team? (c.tileTeam i) = some tm ∧ tm.tile? 0 = some x ∧
      tileBusy s c 0 = false ∧ i.act ≠ 0 ∧ 0 < c.width ∧
      Checked s i c ⟨some (v 22, 2), [useB (lit 15)]⟩ (fun s c i => notVector (v 22) || tileBad 0 s c i) false false false
        (some [(v 22, 1, 1), (.lit 15, 1, 1)]) ∧
      Untagged i c ⟨some (v 22, 2), [useB (lit 15)]⟩ false lowRead ∧ HasRoom s i c ⟨some (v 22, 2), [useB (lit 15)]⟩ false ∧
      badGroup c (i.inHandler c) (v 22) 2 1 = false ∧ overBudget c (i.inHandler c) (v 22) 2 = false ∧
      ((i.opn c ⟨some (v 22, 2), [useB (lit 15)]⟩).wb ((lowest i.act).getD 0)).toNat < (if col then x.cols else x.rows)) ∧
    ∃ (s : State) (i : Issue) (c : Crew) (tm : Team) (x : Tile), s.team? (c.tileTeam i) = some tm ∧ tm.tile? 0 = some x ∧
      tileBusy s c 0 = false ∧ i.act ≠ 0 ∧ 0 < c.width ∧
      Checked s i c ⟨none, [⟨0, v 4, 2, true, false⟩]⟩ (fun s c i => notVector (v 4) || tileBad 0 s c i) false false false
        (some [(v 4, 1, 1)]) ∧
      badGroup c (i.inHandler c) (v 4) 2 1 = false ∧ overBudget c (i.inHandler c) (v 4) 2 = false ∧ i.entry = none ∧
      x.elems.length = x.rows * x.cols ∧
      ∀ r lane, r < 2 → lane < 8 → (c.readWord (nameOf c.wb (i.inHandler c) (v 4)) r lane false 1).2 = false := by
  refine ⟨?_, ?_, canIdle (s := tiled (st id idle)) (by decide +kernel), ?_, ?_, ?_⟩
  rotate_left
  · rintro sh (rfl | rfl)
    · exact canIdle (s := tiled (st id idle)) (by decide +kernel)
    · exact canIdle (s := tiled (st id idle)) (by decide +kernel)
  rotate_right
  · exact canWith (s := tiled st) (fun i c _ => !tileBusy (tiled st) c 0 && (((tiled st).team? (c.tileTeam i)).bind (·.tile? 0)).isSome)
      (fun _ _ _ h => by simpa using h) (by decide +kernel)
  · exact canWith (s := tiled st) (fun _ c _ => !tileBusy (tiled st) c 0) (fun _ _ _ h => by simpa using h) (by decide +kernel)
  · intro col
    let sh : Shape := ⟨some (v 22, 2), [useB (lit 15)]⟩
    obtain ⟨i, c, h, hp⟩ := checked_of (s := tiled st) (sh := sh) (bad := fun s c i => notVector (v 22) || tileBad 0 s c i)
      (sync := false) (ll := false) (kernel := false) (gs := some [(v 22, 1, 1), (.lit 15, 1, 1)])
      (p := fun i c => teamB (tiled st) i c (fun tm => (tm.tile? 0).any fun (x : Tile) =>
        decide (((i.opn c sh).wb ((lowest i.act).getD 0)).toNat < x.cols ∧ ((i.opn c sh).wb ((lowest i.act).getD 0)).toNat < x.rows)) &&
        (!tileBusy (tiled st) c 0 && (i.act != 0 && (decide (0 < c.width) && (untaggedB i c sh false lowRead &&
        (hasRoomB (tiled st) i c sh false false false && (!badGroup c (i.inHandler c) (v 22) 2 1 &&
          !overBudget c (i.inHandler c) (v 22) 2))))))) (by decide +kernel)
    simp only [Bool.and_eq_true, Bool.not_eq_true', bne_iff_ne, decide_eq_true_iff] at hp
    obtain ⟨h1, h2, h3, h4, h5, h6, h7, h8⟩ := hp
    obtain ⟨tm, ht, h1⟩ := any_some h1
    obtain ⟨x, hx, h1⟩ := any_some h1
    have h1 := of_decide_eq_true h1
    exact ⟨_, i, c, tm, x, ht, hx, h2, h3, h4, h, untaggedB_spec h5, hasRoomB_spec h6, h7, h8, by cases col <;> simp [sh] at h1 ⊢ <;> omega⟩
  · let sh : Shape := ⟨none, [⟨0, v 4, 2, true, false⟩]⟩
    obtain ⟨i, c, h, hp⟩ := checked_of (s := tiled st) (sh := sh) (bad := fun s c i => notVector (v 4) || tileBad 0 s c i)
      (sync := false) (ll := false) (kernel := false) (gs := some [(v 4, 1, 1)])
      (p := fun i c => teamB (tiled st) i c (fun tm => (tm.tile? 0).any fun (x : Tile) => decide (x.elems.length = x.rows * x.cols)) &&
        (!tileBusy (tiled st) c 0 && (i.act != 0 && (decide (0 < c.width) && (i.entry.isNone && (!badGroup c (i.inHandler c) (v 4) 2 1 &&
          (!overBudget c (i.inHandler c) (v 4) 2 && ((List.range 2).all fun r => (List.range 8).all fun lane =>
            !(c.readWord (nameOf c.wb (i.inHandler c) (v 4)) r lane false 1).2)))))))) (by decide +kernel)
    simp only [Bool.and_eq_true, Bool.not_eq_true', bne_iff_ne, Option.isNone_iff_eq_none, decide_eq_true_iff] at hp
    obtain ⟨h1, h2, h3, h0, h4, h5, h6, h7⟩ := hp
    obtain ⟨tm, ht, h1⟩ := any_some h1
    obtain ⟨x, hx, h1⟩ := any_some h1
    exact ⟨_, i, c, tm, x, ht, hx, h2, h3, h0, h, h5, h6, h4, of_decide_eq_true h1, fun r lane hr hl => by
      simpa using List.all_eq_true.mp (List.all_eq_true.mp h7 r (List.mem_range.mpr hr)) lane (List.mem_range.mpr hl)⟩

/-- A queue of one page, and the team barrier 1 with a complete generation of every lane. -/
def barred (s : State) : State :=
  withTeam s fun t => { t with
    queues := [[List.replicate 64 5], []]
    res := { t.res with nq := 2 }
    tbars := [⟨1, 3, 0, none, (List.range 8).map fun l => { team := 1, idx := some l, gen := 2, waiting := false }⟩] }

/-- No lane of the issue shares its thread with another, or has a record in a bin. -/
def OwnThreads (s : State) (i : Issue) (c : Crew) : Prop :=
  let who (l : Nat) : Option Nat := if c.cox.isSome then none else (c.lane l).map (·.idx)
  let all (p : Nat → Prop) : Prop := ∀ l, has i.act l = true → p l
  (all fun l => (c.lane l).isSome ∧ all fun m => who l = who m → l = m) ∧
  ∀ r ∈ s.recs, r.team = c.tileTeam i → all fun l => who l ≠ some r.idx

def ownThreadsB (s : State) (i : Issue) (c : Crew) : Bool :=
  let who (l : Nat) : Option Nat := if c.cox.isSome then none else (c.lane l).map (·.idx)
  s.recs.isEmpty && lanes64 fun l => !has i.act l || ((c.lane l).isSome && lanes64 fun m => !has i.act m || (who l != who m || l == m))

theorem ownThreadsB_spec {s i c} (h : ownThreadsB s i c = true) : OwnThreads s i c := by
  simp only [ownThreadsB, Bool.and_eq_true, List.isEmpty_iff] at h
  refine ⟨all_lanes h.2 fun l hl => ?_, by simp [h.1]⟩
  rw [Bool.and_eq_true] at hl
  refine ⟨hl.1, all_lanes hl.2 fun m hm he => ?_⟩
  simpa [he] using hm

/-- The first arrivals at a barrier of 16, and those that complete one of 7; waits of a generation that is over and of
one that is not; an AWAIT; a push and a pop; each of these in no lane. -/
theorem witness_BarriersAndQueues :
    (∀ A ∈ [(7 : Nat), 16], ∃ (s : State) (i : Issue) (c : Crew) (tm : Team), Ready s i c ⟨none, [useA (lit (BitVec.ofNat 32 A))]⟩ fine true ∧
      s.team? (c.tileTeam i) = some tm ∧ tm.uid = c.tileTeam i ∧ i.act ≠ 0 ∧ s.barReleased c false = true ∧
      s.barReleased c true = true ∧ ((s.bar tm false 0).count = 0 ∧ (s.bar tm false 0).exp = none ∧
      (s.bar tm true 0).count = 0 ∧ (s.bar tm true 0).exp = none) ∧ (lanesOf i.act).length = 7 ∧ OwnThreads s i c ∧
      (∀ l, has i.act l = true → ((i.opn c ⟨none, [useA (lit (BitVec.ofNat 32 A))]⟩).wa l).toNat = A ∧
        ∀ cl, ((s.bar tm cl 0).rec? (c.tileTeam i) (if c.cox.isSome then none else (c.lane l).map (·.idx))).any (·.waiting) = false)) ∧
    (∀ past : Bool, ∃ (s : State) (i : Issue) (c : Crew) (tm : Team), Ready s i c ⟨none, []⟩ fine true ∧ s.team? (c.tileTeam i) = some tm ∧
      tm.uid = c.tileTeam i ∧ i.act ≠ 0 ∧ OwnThreads s i c ∧ ∀ l, has i.act l = true →
        let b := s.bar tm false 1
        if past then 0 < (b.gen - ((b.rec? (c.tileTeam i) (if c.cox.isSome then none else (c.lane l).map (·.idx))).map (·.gen)).getD b.gen).toInt
        else (b.gen - ((b.rec? (c.tileTeam i) (if c.cox.isSome then none else (c.lane l).map (·.idx))).map (·.gen)).getD b.gen).toInt ≤ 0) ∧
    (∀ sh ∈ [⟨none, []⟩, (⟨none, [useA (lit 7)]⟩ : Shape)], CanIdle sh fine true) ∧
    CanIdle ⟨none, [useA (lit 256)]⟩ (queueBad 1) true ∧ CanIdle ⟨some (v 24, 8), []⟩ (queueBad 0) true ∧
    (∃ (s : State) (i : Issue) (c : Crew) (tm : Team), Ready s i c ⟨none, [useA (lit 256)]⟩ (queueBad 1) true ∧
      s.team? (c.tileTeam i) = some tm ∧ tm.uid = c.tileTeam i ∧ i.act ≠ 0 ∧ 1 < tm.queues.length ∧ (tm.queue 1).length < 64 ∧
      ((i.opn c ⟨none, [useA (lit 256)]⟩).wa 0).toNat % 16 = 0 ∧ ((i.opn c ⟨none, [useA (lit 256)]⟩).wa 0).toNat + 256 ≤ tm.res.ssize) ∧
    ∃ (s : State) (i : Issue) (c : Crew) (tm : Team), Checked s i c ⟨some (v 24, 8), []⟩ (queueBad 0) true false false (some [(v 24, 8, 1)]) ∧
      HasRoom s i c ⟨some (v 24, 8), []⟩ false ∧ s.team? (c.tileTeam i) = some tm ∧ tm.uid = c.tileTeam i ∧ i.act ≠ 0 ∧
      64 / max c.width 1 = 8 ∧ ∃ x rest, tm.queue 0 = x :: rest := by
  have key (A : Nat) (hr : readyB st ⟨none, [useA (lit (BitVec.ofNat 32 A))]⟩ fine true false false allRead (fun i c =>
      i.act != 0 && (st.barReleased c false && (st.barReleased c true && (decide ((lanesOf i.act).length = 7) &&
      (ownThreadsB st i c && teamB st i c fun tm => tm.uid == c.tileTeam i && (decide ((st.bar tm false 0).count = 0 ∧
        (st.bar tm false 0).exp = none ∧ (st.bar tm true 0).count = 0 ∧ (st.bar tm true 0).exp = none) &&
        lanes64 fun l => !has i.act l || (((i.opn c ⟨none, [useA (lit (BitVec.ofNat 32 A))]⟩).wa l).toNat == A &&
          [false, true].all fun cl => !((st.bar tm cl 0).rec? (c.tileTeam i)
            (if c.cox.isSome then none else (c.lane l).map (·.idx))).any (fun r => r.waiting)))))))) = true) :
      ∃ (s : State) (i : Issue) (c : Crew) (tm : Team), Ready s i c ⟨none, [useA (lit (BitVec.ofNat 32 A))]⟩ fine true ∧
      s.team? (c.tileTeam i) = some tm ∧ tm.uid = c.tileTeam i ∧ i.act ≠ 0 ∧ s.barReleased c false = true ∧
      s.barReleased c true = true ∧ ((s.bar tm false 0).count = 0 ∧ (s.bar tm false 0).exp = none ∧
      (s.bar tm true 0).count = 0 ∧ (s.bar tm true 0).exp = none) ∧ (lanesOf i.act).length = 7 ∧ OwnThreads s i c ∧
      (∀ l, has i.act l = true → ((i.opn c ⟨none, [useA (lit (BitVec.ofNat 32 A))]⟩).wa l).toNat = A ∧
        ∀ cl, ((s.bar tm cl 0).rec? (c.tileTeam i) (if c.cox.isSome then none else (c.lane l).map (·.idx))).any (·.waiting) = false) := by
    obtain ⟨i, c, h, hp⟩ := ready_of hr
    simp only [Bool.and_eq_true, bne_iff_ne, decide_eq_true_iff] at hp
    obtain ⟨h1, h2, h3, h4, h5, h6⟩ := hp
    obtain ⟨tm, ht, h6⟩ := any_some h6
    simp only [Bool.and_eq_true, beq_iff_eq, decide_eq_true_iff] at h6
    obtain ⟨h6, h7, h8⟩ := h6
    refine ⟨_, i, c, tm, h, ht, h6, h1, h2, h3, h7, h4, ownThreadsB_spec h5, all_lanes h8 fun l hl => ?_⟩
    simp only [Bool.and_eq_true, beq_iff_eq, List.all_cons, List.all_nil, Bool.not_eq_true', and_true] at hl
    exact ⟨hl.1, fun cl => by cases cl <;> [exact hl.2.1; exact hl.2.2]⟩
  have wt (s : State) (past : Bool) (hr : readyB s ⟨none, []⟩ fine true false false allRead (fun i c => i.act != 0 &&
      (ownThreadsB s i c && teamB s i c fun tm => tm.uid == c.tileTeam i && lanes64 fun l => !has i.act l ||
        let b := s.bar tm false 1
        decide (0 < (b.gen - ((b.rec? (c.tileTeam i) (if c.cox.isSome then none else (c.lane l).map (·.idx))).map (·.gen)).getD b.gen).toInt)
          == past)) = true) : ∃ (s : State) (i : Issue) (c : Crew) (tm : Team), Ready s i c ⟨none, []⟩ fine true ∧
      s.team? (c.tileTeam i) = some tm ∧ tm.uid = c.tileTeam i ∧ i.act ≠ 0 ∧ OwnThreads s i c ∧ ∀ l, has i.act l = true →
        let b := s.bar tm false 1
        if past then 0 < (b.gen - ((b.rec? (c.tileTeam i) (if c.cox.isSome then none else (c.lane l).map (·.idx))).map (·.gen)).getD b.gen).toInt
        else (b.gen - ((b.rec? (c.tileTeam i) (if c.cox.isSome then none else (c.lane l).map (·.idx))).map (·.gen)).getD b.gen).toInt ≤ 0 := by
    obtain ⟨i, c, h, hp⟩ := ready_of hr
    simp only [Bool.and_eq_true, bne_iff_ne] at hp
    obtain ⟨h1, h2, h3⟩ := hp
    obtain ⟨tm, ht, h3⟩ := any_some h3
    rw [Bool.and_eq_true, beq_iff_eq] at h3
    refine ⟨_, i, c, tm, h, ht, h3.1, h1, ownThreadsB_spec h2, all_lanes h3.2 fun l hl => ?_⟩
    cases past <;> simpa using hl
  refine ⟨?_, ?_, ?_, canIdle (s := barred (st id idle)) (by decide +kernel), canIdle (s := barred (st id idle)) (by decide +kernel), ?_, ?_⟩
  · intro A hA
    simp only [List.mem_cons, List.not_mem_nil, or_false] at hA
    rcases hA with rfl | rfl
    · exact key 7 (by decide +kernel)
    · exact key 16 (by decide +kernel)
  · intro past
    cases past
    · exact wt st false (by decide +kernel)
    · exact wt (barred st) true (by decide +kernel)
  · intro sh hs
    simp only [List.mem_cons, List.not_mem_nil, or_false] at hs
    rcases hs with rfl | rfl
    · exact canIdle (s := st id idle) (by decide +kernel)
    · exact canIdle (s := st id idle) (by decide +kernel)
  · obtain ⟨i, c, h, hp⟩ := ready_of (s := barred st) (sh := ⟨none, [useA (lit 256)]⟩) (bad := queueBad 1) (sync := true) (ll := false)
      (kernel := false) (who := allRead) (p := fun i c => i.act != 0 && teamB (barred st) i c fun tm => decide (tm.uid = c.tileTeam i ∧
        1 < tm.queues.length ∧ (tm.queue 1).length < 64 ∧ ((i.opn c ⟨none, [useA (lit 256)]⟩).wa 0).toNat % 16 = 0 ∧
        ((i.opn c ⟨none, [useA (lit 256)]⟩).wa 0).toNat + 256 ≤ tm.res.ssize)) (mem := false) (by decide +kernel)
    simp only [Bool.and_eq_true, bne_iff_ne] at hp
    obtain ⟨tm, ht, h2⟩ := any_some hp.2
    have h2 := of_decide_eq_true h2
    exact ⟨_, i, c, tm, h, ht, h2.1, hp.1, h2.2⟩
  · obtain ⟨i, c, h, hp⟩ := checked_of (s := barred st) (sh := ⟨some (v 24, 8), []⟩) (bad := queueBad 0) (sync := true) (ll := false)
      (kernel := false) (gs := some [(v 24, 8, 1)]) (p := fun i c => hasRoomB (barred st) i c ⟨some (v 24, 8), []⟩ false false false &&
        (i.act != 0 && (decide (64 / max c.width 1 = 8) && teamB (barred st) i c fun tm => tm.uid == c.tileTeam i && !(tm.queue 0).isEmpty))) (by decide +kernel)
    simp only [Bool.and_eq_true, bne_iff_ne, decide_eq_true_iff] at hp
    obtain ⟨tm, ht, h2⟩ := any_some hp.2.2.2
    rw [Bool.and_eq_true, beq_iff_eq] at h2
    refine ⟨_, i, c, tm, h, hasRoomB_spec hp.1, ht, h2.1, hp.2.1, hp.2.2.1, ?_⟩
    cases hq : tm.queue 0 with
    | nil => simp [hq] at h2
    | cons x rest => exact ⟨x, rest, rfl⟩

/-! ## Witnesses: matrix operations, loops, drains -/

/-- The team's scratchpad with words from an offset on. -/
def scratch (s : State) (off : Nat) (ws : List Word) : State :=
  withTeam s fun t => { t with scratch := t.scratch.setAll (place off (ws.flatMap fun w => leBytes 4 w.toNat)) }

/-- An operand descriptor at offset 0 (32 elements of 8 bits a row, rows 32 bytes apart, from 512 on) and scales at 32. -/
def mmaSt : State := scratch (scratch (tiled st) 0 [512, 32, 32, 0]) 32 [1024, 1, 1024, 1]

def mmaOp (ty : MmaTy) (sc : Option MmabTy) : MxOp :=
  ⟨9, 1, 2, 1, 0, ty, sc, true, [512, 32, 32, 0], [512, 32, 32, 0], if sc.isSome then [1024, 1, 1024, 1] else [], 16, 16⟩

theorem mma_none : mmaSt.eng.mxops = [] := by decide +kernel

theorem witness_MatrixOperations :
    (∃ (s : State) (i : Issue) (c : Crew) (tm : Team) (ts : List Nat), Ready s i c ⟨none, [useA z, useB z, useC z]⟩ (tileBad 0) true ∧
      i.act ≠ 0 ∧ s.team? (c.tileTeam i) = some tm ∧ tm.uid = c.tileTeam i ∧
      s.mmaChk tm ⟨0, .e4m3, none, true, s.scrWords tm.uid 0 4, s.scrWords tm.uid 0 4, [], 0⟩ false false = .ok ts ∧
      16 ≤ tm.res.ssize ∧ ts = [1] ∧ ∀ u ∈ ts, (s.eng.mxops.filter (·.target == u)).length < 16) ∧
    (∃ (s : State) (i : Issue) (c : Crew) (tm : Team) (ts : List Nat),
      Ready s i c ⟨none, [useA z, useB z, useC (lit 32)]⟩ (tileBad 0) true ∧
      i.act ≠ 0 ∧ s.team? (c.tileTeam i) = some tm ∧ tm.uid = c.tileTeam i ∧ ((i.opn c ⟨none, [useA z, useB z, useC (lit 32)]⟩).wc 0).toNat = 32 ∧
      s.mmaChk tm ⟨0, mmabTy .mx8e4, some .mx8e4, false, s.scrWords tm.uid 0 4, s.scrWords tm.uid 0 4, s.scrWords tm.uid 32 8,
        wd (s.scrWords tm.uid 32 8) 4⟩ false false = .ok ts ∧ 64 ≤ tm.res.ssize ∧ ts = [1] ∧
      ∀ u ∈ ts, (s.eng.mxops.filter (·.target == u)).length < 16) ∧
    CanIdle ⟨none, [useA z, useB z, useC z]⟩ (tileBad 0) true ∧
    ∀ (ty : MmaTy) (sc : Option MmabTy), (ty, sc) ∈ [(MmaTy.e4m3, none), (.f64, none), (mmabTy .mx8e4, some MmabTy.mx8e4)] →
      ∃ (s : State) (m : MxOp) (t : Team) (x : Tile), m.ty = ty ∧ m.scaled = sc ∧ s.eng.mxops.find? (fun q => q.target == m.target && q.id == m.id) = some m ∧
      s.mxReady m = true ∧ s.team? m.target = some t ∧ m.issuer = m.target ∧ t.tile? m.tile = some x ∧ x.rows = m.rows ∧
      x.cols = m.cols ∧ x.ty = .f32 ∧ x.elems.length = x.rows * x.cols ∧ s.opTeam t m.target (opLoc (wd m.aDesc 0)) = some 1 ∧
      s.opTeam t m.target (opLoc (wd m.bDesc 0)) = some 1 ∧ 0 < wd m.aDesc 2 % 2 ^ 16 / 32 := by
  refine ⟨?_, ?_, canIdle (s := tiled (st id idle)) (by decide +kernel), ?_⟩
  · obtain ⟨i, c, h, hp⟩ := ready_of (s := mmaSt) (sh := ⟨none, [useA z, useB z, useC z]⟩) (bad := tileBad 0) (sync := true)
      (ll := false) (kernel := false) (who := allRead) (mem := false) (p := fun i c => i.act != 0 && teamB mmaSt i c fun tm =>
        decide (tm.uid = c.tileTeam i ∧ 16 ≤ tm.res.ssize) && match mmaSt.mmaChk tm ⟨0, .e4m3, none, true, mmaSt.scrWords tm.uid 0 4,
            mmaSt.scrWords tm.uid 0 4, [], 0⟩ false false with
          | .ok ts => decide (ts = [1])
          | _ => false) (by decide +kernel)
    simp only [Bool.and_eq_true, bne_iff_ne] at hp
    obtain ⟨tm, ht, h2⟩ := any_some hp.2
    rw [Bool.and_eq_true, decide_eq_true_iff] at h2
    obtain ⟨⟨h3, h4⟩, h5⟩ := h2
    split at h5
    · have h5 := of_decide_eq_true h5
      exact ⟨_, i, c, tm, _, h, hp.1, ht, h3, ‹_›, h4, h5, fun u _ => by simp [mma_none]⟩
    · cases h5
  · obtain ⟨i, c, h, hp⟩ := ready_of (s := mmaSt) (sh := ⟨none, [useA z, useB z, useC (lit 32)]⟩) (bad := tileBad 0) (sync := true)
      (ll := false) (kernel := false) (who := allRead) (mem := false) (p := fun i c => i.act != 0 && teamB mmaSt i c fun tm =>
        decide (tm.uid = c.tileTeam i ∧ 64 ≤ tm.res.ssize ∧ ((i.opn c ⟨none, [useA z, useB z, useC (lit 32)]⟩).wc 0).toNat = 32) &&
        match mmaSt.mmaChk tm ⟨0, mmabTy .mx8e4, some .mx8e4, false, mmaSt.scrWords tm.uid 0 4, mmaSt.scrWords tm.uid 0 4,
            mmaSt.scrWords tm.uid 32 8, wd (mmaSt.scrWords tm.uid 32 8) 4⟩ false false with
          | .ok ts => decide (ts = [1])
          | _ => false) (by decide +kernel)
    simp only [Bool.and_eq_true, bne_iff_ne] at hp
    obtain ⟨tm, ht, h2⟩ := any_some hp.2
    rw [Bool.and_eq_true, decide_eq_true_iff] at h2
    obtain ⟨⟨h3, h4, h6⟩, h5⟩ := h2
    split at h5
    · have h5 := of_decide_eq_true h5
      exact ⟨_, i, c, tm, _, h, hp.1, ht, h3, h6, ‹_›, h4, h5, fun u _ => by simp [mma_none]⟩
    · cases h5
  · intro ty sc hm
    let s : State := { tiled st with eng := { (st).eng with mxops := [mmaOp ty sc] } }
    have h : (s.team? 1).any (fun t => (t.tile? 0).any fun (x : Tile) => decide (x.rows = 16 ∧ x.cols = 16 ∧ x.ty = .f32 ∧
        x.elems.length = x.rows * x.cols ∧ s.opTeam t 1 (opLoc 512) = some 1)) = true := by
      simp only [List.mem_cons, List.not_mem_nil, or_false, Prod.mk.injEq] at hm
      rcases hm with ⟨rfl, rfl⟩ | ⟨rfl, rfl⟩ | ⟨rfl, rfl⟩ <;> decide +kernel
    have hr : s.mxReady (mmaOp ty sc) = true := by
      simp only [List.mem_cons, List.not_mem_nil, or_false, Prod.mk.injEq] at hm
      rcases hm with ⟨rfl, rfl⟩ | ⟨rfl, rfl⟩ | ⟨rfl, rfl⟩ <;> decide +kernel
    obtain ⟨t, ht, h⟩ := any_some h
    obtain ⟨x, hx, h⟩ := any_some h
    obtain ⟨h1, h2, h3, h4, h5⟩ := of_decide_eq_true h
    refine ⟨s, mmaOp ty sc, t, x, rfl, rfl, ?_, hr, ht, rfl, hx, h1, h2, h3, h4, h5, h5, (by decide : 0 < wd [512, 32, 32, 0] 2 % 2 ^ 16 / 32)⟩
    simp [s, mmaOp]

/-- A loop descriptor of two iterations: an action, a length, X0, Y0, the places of two templates, and the strides. -/
def loopDesc (act len x0 y0 sx sy : Word) : List Word :=
  [act, len, x0, 0, y0, 0, 128, 128, 0, 0, 0, 0, 0, 0, 0, 0, 1, sx, sy, 0]

/-- The loop at offset 0 of the scratchpad, one of channels, pages or matrix operations. -/
def loopSt (d : List Word) : State := scratch (scratch (barred (tiled st)) 0 d) 128 [512, 32, 32, 0]

/-- The physical address of a virtual one. -/
def xlate (s : State) (c : Crew) (va : Nat) : Option Nat :=
  match s.ctx? c.ctx with
  | some cx => match s.translate cx va Need.read with
    | .ok pa => some pa
    | _ => none
  | none => none

theorem xlate_spec {s c va pa} (h : xlate s c va = some pa) :
    ∃ cx, s.ctx? c.ctx = some cx ∧ s.translate cx va Need.read = .ok pa := by
  unfold xlate at h
  split at h
  · split at h
    · cases h; exact ⟨_, ‹_›, ‹_›⟩
    · cases h
  · cases h

/-- The matrix operation of iteration `n` of the loop (R266). -/
def loopAsk (s : State) (tm : Team) (d : List Word) (n : Nat) : MmaAsk :=
  let tmpl (off y : Nat) : List Word := (s.scrWords tm.uid off 4).mapIdx fun k w =>
    if k = 0 then BitVec.ofNat 32 (w.toNat / 2 ^ 24 * 2 ^ 24 + (w.toNat + y) % 2 ^ 24) else w
  ⟨wd d 0 / 2 ^ 16 % 256, mmaTyOf (wd d 0 / 2 ^ 8 % 8), none, decide (wd d 0 / 2 ^ 11 % 2 = 1 ∨ n ≠ 0),
    tmpl (wd d 6) (loopY d 1 n), tmpl (wd d 7) (loopZ d 1 n), [], wd d 8⟩

/-- What the statement asks for each action. -/
def LoopGoes (s : State) (c : Crew) (tm : Team) (d : List Word) : Nat → Prop
  | 0 => tm.chans = [] ∧ ∃ pa : Nat → Nat → Nat, ∀ n, n < 2 → loopX d 1 n % 16 = 0 ∧ ∀ j, j < wd d 1 / 16 → ∃ cx,
      s.ctx? c.ctx = some cx ∧ s.translate cx ((loopX d 1 n + 16 * j) % 2 ^ 64) Need.read = .ok (pa n j)
  | 1 => wd d 0 / 2 ^ 4 % 8 < tm.queues.length ∧ (tm.queue (wd d 0 / 2 ^ 4 % 8)).length + 2 ≤ 64 ∧
      ∀ n, n < 2 → loopY d 1 n % 16 = 0 ∧ loopY d 1 n + 256 ≤ tm.res.ssize
  | _ => ∃ ts, (loopAsk s tm d 0).tile < tm.res.ntiles ∧ (wd d 6 % 16 = 0 ∧ wd d 7 % 16 = 0) ∧
      (wd d 6 + 16 ≤ tm.res.ssize ∧ wd d 7 + 16 ≤ tm.res.ssize) ∧
      (∀ n, n < 2 → s.mmaChk tm (loopAsk s tm d n) false false = .ok ts) ∧ ts.Nodup ∧
      ∀ u ∈ ts, (s.eng.mxops.filter (·.target == u)).length + 2 ≤ 16

def loopGoesB (s : State) (c : Crew) (tm : Team) (d : List Word) : Nat → Bool
  | 0 => tm.chans.isEmpty && (List.range 2).all fun n => decide (loopX d 1 n % 16 = 0) && (List.range (wd d 1 / 16)).all fun j =>
      (xlate s c ((loopX d 1 n + 16 * j) % 2 ^ 64)).isSome
  | 1 => decide (wd d 0 / 2 ^ 4 % 8 < tm.queues.length ∧ (tm.queue (wd d 0 / 2 ^ 4 % 8)).length + 2 ≤ 64) &&
      (List.range 2).all fun n => decide (loopY d 1 n % 16 = 0 ∧ loopY d 1 n + 256 ≤ tm.res.ssize)
  | _ => decide ((loopAsk s tm d 0).tile < tm.res.ntiles ∧ (wd d 6 % 16 = 0 ∧ wd d 7 % 16 = 0) ∧
      (wd d 6 + 16 ≤ tm.res.ssize ∧ wd d 7 + 16 ≤ tm.res.ssize)) && (s.eng.mxops.isEmpty &&
      (List.range 2).all fun n => match s.mmaChk tm (loopAsk s tm d n) false false with
        | .ok ts => ts == [1]
        | _ => false)

theorem loopGoesB_spec {s c tm d} : ∀ k, loopGoesB s c tm d k = true → LoopGoes s c tm d k
  | 0, h => by
    simp only [loopGoesB, Bool.and_eq_true, List.isEmpty_iff, List.all_eq_true, List.mem_range, decide_eq_true_iff] at h
    refine ⟨h.1, fun n j => (xlate s c ((loopX d 1 n + 16 * j) % 2 ^ 64)).getD 0, fun n hn => ⟨(h.2 n hn).1, fun j hj => ?_⟩⟩
    obtain ⟨pa, hp⟩ := Option.isSome_iff_exists.mp ((h.2 n hn).2 j hj)
    show ∃ cx, _ ∧ _ = Tr.ok ((xlate s c ((loopX d 1 n + 16 * j) % 2 ^ 64)).getD 0)
    rw [hp]
    exact xlate_spec hp
  | 1, h => by
    simp only [loopGoesB, Bool.and_eq_true, List.all_eq_true, List.mem_range, decide_eq_true_iff] at h
    exact ⟨h.1.1, h.1.2, h.2⟩
  | _ + 2, h => by
    simp only [loopGoesB, Bool.and_eq_true, List.isEmpty_iff, List.all_eq_true, List.mem_range, decide_eq_true_iff] at h
    refine ⟨[1], h.1.1, h.1.2.1, h.1.2.2, fun n hn => ?_, by decide, by simp [h.2.1]⟩
    have := h.2.2 n hn
    split at this
    · simp_all
    · cases this

theorem witness_AffineLoops :
    (∀ k ∈ [(0 : Nat), 1, 2], ∃ (s : State) (i : Issue) (c : Crew) (tm : Team) (d : List Word), Ready s i c ⟨none, [useA z]⟩ fine true ∧
      i.entry = none ∧ c.pipe.stage = 0 ∧ i.act ≠ 0 ∧ s.team? (c.tileTeam i) = some tm ∧ tm.uid = c.tileTeam i ∧
      s.loopChk tm ((i.opn c ⟨none, [useA z]⟩).wa 0).toNat 1 = .ok d ∧ loopCount d 1 = 2 ∧ wd d 0 % 16 = k ∧ LoopGoes s c tm d k) ∧
    CanIdle ⟨none, [useA z]⟩ fine true ∧
    ∀ bad : Bool, ∃ (s : State) (tm : Team) (k : Chan), s.team? tm.uid = some tm ∧ tm.chans.find? (·.num == k.num) = some k ∧ k.src ≠ [] ∧
      let from_ := k.src.flatMap fun p => (List.range p.2.2).map fun j => (p.1 + j, p.2.1 + j)
      s.readsPoison tm.uid ((from_.take 24).map fun p => .mem p.2) = bad ∧ ((from_.take 24).map (·.1)).Nodup := by
  have key (k : Nat) (D : List Word) (h : readyB (loopSt D) ⟨none, [useA z]⟩ fine true false false allRead (fun i c =>
      i.entry.isNone && (i.act != 0 && (decide (c.pipe.stage = 0) && teamB (loopSt D) i c fun tm => decide (tm.uid = c.tileTeam i) &&
        match (loopSt D).loopChk tm ((i.opn c ⟨none, [useA z]⟩).wa 0).toNat 1 with
        | .ok d => decide (loopCount d 1 = 2 ∧ wd d 0 % 16 = k) && loopGoesB (loopSt D) c tm d k
        | _ => false))) = true) :
      ∃ (s : State) (i : Issue) (c : Crew) (tm : Team) (d : List Word), Ready s i c ⟨none, [useA z]⟩ fine true ∧
      i.entry = none ∧ c.pipe.stage = 0 ∧ i.act ≠ 0 ∧ s.team? (c.tileTeam i) = some tm ∧ tm.uid = c.tileTeam i ∧
      s.loopChk tm ((i.opn c ⟨none, [useA z]⟩).wa 0).toNat 1 = .ok d ∧ loopCount d 1 = 2 ∧ wd d 0 % 16 = k ∧ LoopGoes s c tm d k := by
    obtain ⟨i, c, h, hp⟩ := ready_of h
    simp only [Bool.and_eq_true, Option.isNone_iff_eq_none, bne_iff_ne, decide_eq_true_iff] at hp
    obtain ⟨h1, h2, h3, h4⟩ := hp
    obtain ⟨tm, ht, h4⟩ := any_some h4
    rw [Bool.and_eq_true, decide_eq_true_iff] at h4
    obtain ⟨h5, h6⟩ := h4
    split at h6
    · rw [Bool.and_eq_true, decide_eq_true_iff] at h6
      exact ⟨_, i, c, tm, _, h, h1, h3, h2, ht, h5, ‹_›, h6.1.1, h6.1.2, loopGoesB_spec k h6.2⟩
    · cases h6
  refine ⟨fun k hk => ?_, canIdle (s := st id idle) (by decide +kernel), fun bad => ?_⟩
  · simp only [List.mem_cons, List.not_mem_nil, or_false] at hk
    rcases hk with rfl | rfl | rfl
    · exact key 0 (loopDesc 0 16 0x8000 0x400 16 0) (by decide +kernel)
    · exact key 1 (loopDesc 0x11 0 0 0x400 0 256) (by decide +kernel)
    · exact key 2 (loopDesc 2 0 0 0 0 0) (by decide +kernel)
  · let k : Chan := ⟨3, 64, 32, 0, [(0, codePa, 16), (16, codePa + 64, 16)]⟩
    let s0 : State := withTeam st fun t => { t with chans := [k] }
    let s (b : Bool) : State := { s0 with mem := { s0.mem with poison := if b then [(lineOf codePa, [])] else [] } }
    have h : ((s bad).team? 1).any (fun tm => decide (tm.uid = 1 ∧ tm.chans.find? (·.num == 3) = some k) &&
        (s bad).readsPoison tm.uid (((k.src.flatMap fun p => (List.range p.2.2).map fun j => (p.1 + j, p.2.1 + j)).take 24).map fun p => .mem p.2)
          == bad) = true := by cases bad <;> decide +kernel
    obtain ⟨tm, ht, h⟩ := any_some h
    rw [Bool.and_eq_true, decide_eq_true_iff, beq_iff_eq] at h
    exact ⟨s bad, tm, k, by rw [h.1.1]; exact ht, h.1.2, by simp [k], h.2, by decide⟩

/-- A drain of a 16 by 16 tile to a team of the loader's grid. -/
def drain0 (target rows : Nat) (seq : Option Word) (tile : Nat := 0) : Drain :=
  ⟨5, 1, 2, 0, none, none, target, tile, rows, 16, seq, List.replicate 256 1⟩
def drainSt (d : Drain) : State := { tiled st with eng := { (st).eng with drains := [d] } }

theorem witness_TileDrains :
    (∀ hi ∈ [(0 : Word), 0x10000000], ∃ (s : State) (i : Issue) (c : Crew) (tm : Team) (g : Grid) (l : Nat) (x : Tile),
      Ready s i c ⟨none, [useA (r 0) 2, useB (r 2)]⟩ (tileBad 0) true false false lowRead ∧ tileBusy s c 0 = false ∧ lowest i.act = some l ∧
      s.team? (c.tileTeam i) = some tm ∧ tm.uid = c.tileTeam i ∧ s.grid? tm.grid = some g ∧ tm.tile? 0 = some x ∧ x.ty = .f32 ∧
      tm.audit.replay = none ∧ ((i.opn c ⟨none, [useA (r 0) 2, useB (r 2)]⟩).fa l).toNat = 2 ^ 32 * hi.toNat ∧ 0 < g.lr.teams ∧
      s.bound c.ctx 0 = true ∧ (s.eng.drains.filter (·.issuer == tm.uid)).length < 16) ∧
    (∀ d ∈ [drain0 1 16 none, drain0 0 16 (some 0), drain0 0 16 (some 3), drain0 0 15 none, drain0 0 16 none 7], ∃ (s : State) (g : Grid),
      s.eng.drains.find? (·.id == d.id) = some d ∧ s.grid? d.grid = some g ∧ g.fin.isNone = true ∧ g.shadow.isNone = true ∧
      d.port = none ∧ g.next = 1) ∧
    CanIdle ⟨none, [useA (r 0) 2]⟩ (tileBad 0) true false false lowRead ∧
    ∃ (s : State) (tm : Team) (x : Tile), s.sched.teams.find? (fun t => t.grid == 0 && t.index == 0) = some tm ∧
      s.team? tm.uid = some tm ∧ tm.mode = .placed ∧ tm.tile? 7 = none ∧ tm.tile? 0 = some x ∧ x.ty = .f32 ∧ x.rows = 16 ∧ x.cols = 16 ∧ x.nextSeq = 0 := by
  refine ⟨?_, ?_, canIdle (s := tiled (st id idle)) (by decide +kernel), ?_⟩
  · have key (hi : Word) (s : State) (hs : readyB s ⟨none, [useA (r 0) 2, useB (r 2)]⟩ (tileBad 0) true false false lowRead (fun i c =>
        !tileBusy s c 0 && (s.bound c.ctx 0 && ((lowest i.act).any (fun l => ((i.opn c ⟨none, [useA (r 0) 2, useB (r 2)]⟩).fa l).toNat == 2 ^ 32 * hi.toNat) &&
        teamB s i c fun tm => decide (tm.uid = c.tileTeam i ∧ tm.audit.replay = none ∧ (s.eng.drains.filter (·.issuer == tm.uid)).length < 16) &&
          ((s.grid? tm.grid).any (fun g => decide (0 < g.lr.teams)) && (tm.tile? 0).any fun (x : Tile) => decide (x.ty = .f32)))))  = true) :
        ∃ (s : State) (i : Issue) (c : Crew) (tm : Team) (g : Grid) (l : Nat) (x : Tile),
          Ready s i c ⟨none, [useA (r 0) 2, useB (r 2)]⟩ (tileBad 0) true false false lowRead ∧ tileBusy s c 0 = false ∧ lowest i.act = some l ∧
          s.team? (c.tileTeam i) = some tm ∧ tm.uid = c.tileTeam i ∧ s.grid? tm.grid = some g ∧ tm.tile? 0 = some x ∧ x.ty = .f32 ∧
          tm.audit.replay = none ∧ ((i.opn c ⟨none, [useA (r 0) 2, useB (r 2)]⟩).fa l).toNat = 2 ^ 32 * hi.toNat ∧ 0 < g.lr.teams ∧
          s.bound c.ctx 0 = true ∧ (s.eng.drains.filter (·.issuer == tm.uid)).length < 16 := by
      obtain ⟨i, c, h, hp⟩ := ready_of hs
      simp only [Bool.and_eq_true, Bool.not_eq_true'] at hp
      obtain ⟨h1, h2, h3, h4⟩ := hp
      obtain ⟨l, hl, h3⟩ := any_some h3
      obtain ⟨tm, ht, h4⟩ := any_some h4
      simp only [Bool.and_eq_true, decide_eq_true_iff] at h4
      obtain ⟨⟨h5, h6, h7⟩, h8, h9⟩ := h4
      obtain ⟨g, hg, h8⟩ := any_some h8
      obtain ⟨x, hx, h9⟩ := any_some h9
      exact ⟨s, i, c, tm, g, l, x, h, h1, hl, ht, h5, hg, hx, of_decide_eq_true h9, h6, by simpa using h3, of_decide_eq_true h8, h2, h7⟩
    intro hi hh
    simp only [List.mem_cons, List.not_mem_nil, or_false] at hh
    let s (hi : Word) : State := withDesc (tiled (st fun c => { c with regs := c.regs.map fun x =>
      if x.name = 0 then ⟨0, List.replicate 8 0, 0⟩ else if x.name = 1 then ⟨1, List.replicate 8 hi, 0⟩ else x })) fun d => { d with peers := 1 }
    rcases hh with rfl | rfl
    · exact key 0 (s 0) (by decide +kernel)
    · exact key _ (s 0x10000000) (by decide +kernel)
  · have key (d : Drain) (h : ((drainSt d).grid? 0).any (fun g => decide (g.fin.isNone = true ∧ g.shadow.isNone = true ∧ g.next = 1)) = true)
        (hd : d.grid = 0 ∧ d.port = none) : ∃ (s : State) (g : Grid),
        s.eng.drains.find? (·.id == d.id) = some d ∧ s.grid? d.grid = some g ∧ g.fin.isNone = true ∧ g.shadow.isNone = true ∧
        d.port = none ∧ g.next = 1 := by
      obtain ⟨g, hg, h⟩ := any_some h
      obtain ⟨h1, h2, h3⟩ := of_decide_eq_true h
      exact ⟨drainSt d, g, by simp [drainSt], by rw [hd.1]; exact hg, h1, h2, hd.2, h3⟩
    intro d hd
    simp only [List.mem_cons, List.not_mem_nil, or_false] at hd
    rcases hd with rfl | rfl | rfl | rfl | rfl <;> exact key _ (by decide +kernel) ⟨rfl, rfl⟩
  · have h : ((tiled st).sched.teams.find? (fun t => t.grid == 0 && t.index == 0)).any (fun tm => tm.uid == 1 && (decide (tm.mode = .placed ∧ tm.tile? 7 = none) &&
        (tm.tile? 0).any fun (x : Tile) => decide (x.ty = .f32 ∧ x.rows = 16 ∧ x.cols = 16 ∧ x.nextSeq = 0))) = true := by decide +kernel
    obtain ⟨tm, ht, h⟩ := any_some h
    simp only [Bool.and_eq_true, beq_iff_eq, decide_eq_true_iff] at h
    obtain ⟨h1, h2, h3⟩ := h
    obtain ⟨x, hx, h3⟩ := any_some h3
    have h4 : ((tiled st).team? 1).isSome = true := by decide +kernel
    refine ⟨tiled st, tm, x, ht, ?_, h2.1, h2.2, hx, of_decide_eq_true h3⟩
    have hm := List.mem_of_find?_eq_some ht
    have hl : (tiled st).sched.teams.length = 1 := by decide +kernel
    match hs : (tiled st).sched.teams with
    | [] => simp [hs] at hl
    | [a] =>
      rw [hs] at hm
      have : tm = a := by simpa using hm
      subst this
      simp [State.team?, hs]
    | a :: b :: q => simp [hs] at hl

/-! ## Witnesses: the chain, fences, phases, bindings and shared operations -/

/-- What the statement asks of the chain's neighbours. -/
def ChainMeets (s : State) (i : Issue) (c : Crew) (tm : Nat → Team) (idx : Nat → Nat) (x : Nat → Word) (right : Bool) (bnd : Bnd) : Prop :=
  let o := i.opn c (shapeA (v 22) (r 0))
  let h (n : Nat) := s.chainOf (tm n)
  let pos (n : Nat) := (h n).pos (tm n) (idx n)
  let me (n : Nat) := s.chainSlot (h n) (pos n)
  let count (n : Nat) := (me n).cnt + 1
  let pub (n : Nat) : Word := match (me n).pub with
    | some (k, v) => if k = count n then v else o.wa n
    | none => o.wa n
  let atEnd (n : Nat) : Word := if bnd = .zero then 0 else o.wa n
  (∀ n, has i.act n = true → s.threadOf c n = some (tm n, idx n) ∧ idx n < (h n).per ∧ (h n).base ≤ (tm n).index ∧
    s.sched.teams.find? (fun u => u.grid == (h n).grid && u.index == (tm n).index) = some (tm n) ∧
    ((me n).published (count n) = true ∨ s.retained (h n) (pos n) = false)) ∧
  (∀ n m, has i.act n = true → has i.act m = true → ((tm n).uid, idx n) = ((tm m).uid, idx m) → n = m) ∧
  ∀ n, has i.act n = true → match (h n).next (pos n) right (bnd == .wrap) with
    | none => x n = atEnd n
    | some q =>
      (∃ m, has i.act m = true ∧ h m = h n ∧ pos m = q ∧ count m = count n ∧ x n = pub m) ∨
      ((∀ m, has i.act m = true → h m = h n → pos m ≠ q) ∧ ((s.chainSlot (h n) q).pub = some (count n, x n) ∨
        ((s.chainSlot (h n) q).pub = none ∧ (s.chainSlot (h n) q).exited = true ∧ x n = atEnd n)))

/-- Lanes 0 to 7, the threads 0 to 7 of one team, publish and read to the right; lane 7 is at the end. LDWP of a channel. -/
theorem witness_ChainNeighbours :
    (∀ bnd, bnd ≠ .wrap → ∃ (s : State) (i : Issue) (c : Crew) (tm : Nat → Team) (idx : Nat → Nat) (x : Nat → Word),
      Ready s i c (shapeA (v 22) (r 0)) (fun _ c i => 0 < c.depthAt i.s) true ∧ i.act ≠ 0 ∧ ChainMeets s i c tm idx x true bnd) ∧
    CanIdle ⟨some (v 22, 1), []⟩ fine true ∧
    ∃ (s : State) (i : Issue) (c : Crew) (l : Nat) (tm : Team) (k : Chan), Ready s i c ⟨some (v 22, 1), []⟩ fine true ∧
      lowest i.act = some l ∧ s.team? (c.teamOf l) = some tm ∧ tm.chans.find? (·.num == 3) = some k := by
  refine ⟨fun bnd hb => ?_, canIdle (s := st id idle) (by decide +kernel), ?_⟩
  · let s := st id fun i => { i with act := 0xFF }
    have h : readyB s (shapeA (v 22) (r 0)) (fun _ c i => 0 < c.depthAt i.s) true false false allRead (fun i c =>
        decide (i.act = 0xFF) && (s.team? 1).any fun t => (List.range 8).all fun n => (s.threadOf c n).any (fun p => decide (p = (t, n))) &&
          (s.sched.teams.find? (fun u => u.grid == (s.chainOf t).grid && u.index == t.index)).any (fun u => decide (u = t)) &&
          (decide (n < (s.chainOf t).per ∧ (s.chainOf t).base ≤ t.index ∧ s.retained (s.chainOf t) ((s.chainOf t).pos t n) = false ∧
            (s.chainSlot (s.chainOf t) ((s.chainOf t).pos t n)).pub = none ∧
            (s.chainSlot (s.chainOf t) ((s.chainOf t).pos t n)).cnt = 0) &&
          match (s.chainOf t).next ((s.chainOf t).pos t n) true false with
          | none => decide (n = 7)
          | some q => decide (n < 7 ∧ (s.chainOf t).pos t (n + 1) = q))) = true := by decide +kernel
    obtain ⟨i, c, h, hp⟩ := ready_of h
    rw [Bool.and_eq_true, decide_eq_true_iff] at hp
    obtain ⟨ha, hp⟩ := hp
    obtain ⟨t, -, hp⟩ := any_some hp
    simp only [List.all_eq_true, Bool.and_eq_true, decide_eq_true_iff] at hp
    have h8 (n : Nat) (hn : has i.act n = true) : n < 8 := by
      rw [ha] at hn
      exact all_lanes (m := 0xFF) (p := fun n => decide (n < 8)) (by decide) (fun n h => of_decide_eq_true h) n hn
    have h9 (n : Nat) (hn : n < 7) : has i.act (n + 1) = true := by
      rw [ha]
      exact List.all_eq_true.mp (show ((List.range 7).all fun n => has 0xFF (n + 1)) = true by decide) n (List.mem_range.mpr hn)
    have hw : (bnd == Bnd.wrap) = false := by cases bnd <;> first | rfl | exact absurd rfl hb
    refine ⟨s, i, c, fun _ => t, id, fun n => if n = 7 then (if bnd = .zero then 0 else (i.opn c (shapeA (v 22) (r 0))).wa 7)
      else (i.opn c (shapeA (v 22) (r 0))).wa (n + 1), h, by rw [ha]; decide, fun n hn => ?_, fun n m _ _ e => by simpa using e, fun n hn => ?_⟩
    · obtain ⟨⟨h1, h2⟩, ⟨h3, h4, h5, -, -⟩, -⟩ := hp n (List.mem_range.mpr (h8 n hn))
      obtain ⟨p, hp1, hp2⟩ := any_some h1
      obtain ⟨u, hu1, hu2⟩ := any_some h2
      exact ⟨hp1.trans (congrArg _ (of_decide_eq_true hp2)), h3, h4, hu1.trans (congrArg _ (of_decide_eq_true hu2)), .inr h5⟩
    · obtain ⟨-, ⟨-, -, -, h4, h5⟩, h3⟩ := hp n (List.mem_range.mpr (h8 n hn))
      rw [hw]
      dsimp only [id]
      split
      · rename_i he
        rw [he] at h3
        have h3 := of_decide_eq_true h3
        subst h3
        simp
      · rename_i q he
        rw [he] at h3
        have h3 := of_decide_eq_true h3
        obtain ⟨-, ⟨-, -, -, h6, h7⟩, -⟩ := hp (n + 1) (List.mem_range.mpr (Nat.succ_lt_succ h3.1))
        refine .inl ⟨n + 1, h9 n h3.1, rfl, h3.2, by rw [h5, h7], by simp [Nat.ne_of_lt h3.1, h6]⟩
  · let s := withTeam st fun t => { t with chans := [⟨3, 64, 32, 16, []⟩] }
    obtain ⟨i, c, h, hp⟩ := ready_of (s := s) (sh := ⟨some (v 22, 1), []⟩) (bad := fine) (sync := true) (ll := false) (kernel := false)
      (who := allRead) (mem := false) (p := fun i c => (lowest i.act).any fun l => (s.team? (c.teamOf l)).any fun tm =>
        (tm.chans.find? (·.num == 3)).isSome) (by decide +kernel)
    obtain ⟨l, hl, hp⟩ := any_some hp
    obtain ⟨tm, ht, hp⟩ := any_some hp
    obtain ⟨k, hk⟩ := Option.isSome_iff_exists.mp hp
    exact ⟨s, i, c, l, tm, k, h, hl, ht, hk⟩

/-- Nothing in flight and no commit of anyone: what a release needs. -/
def idleB (s : State) (c : Crew) : Bool := c.pipe.inflight.isEmpty && (s.eng.commits.isEmpty && s.eng.hostDue.isEmpty)

theorem released_of {s c sc} (h : idleB s c = true) : Released s c sc := by
  simp only [idleB, Bool.and_eq_true, List.isEmpty_iff] at h
  exact ⟨by simp [h.1], fun _ => by simp [h.2.1], fun _ => by simp [h.2.2]⟩

/-- Nothing of the engines' either: what every class needs. -/
def classesB (s : State) (i : Issue) (c : Crew) : Bool :=
  idleB s c && (c.cox.isNone && (s.eng.mxops.isEmpty && (s.eng.drains.isEmpty && (s.eng.sops.isEmpty && (s.eng.kops.isEmpty &&
    (s.eng.copies.isEmpty && lanes64 fun n => !has i.act n || (c.lane n).all fun l => l.toks.all (·.count == 0)))))))

theorem classPerformed_of {s i c} (h : classesB s i c = true) (w : Cls) : ClassPerformed s c i .system w := by
  simp only [classesB, Bool.and_eq_true, List.isEmpty_iff, Option.isNone_iff_eq_none] at h
  obtain ⟨h1, h2, h3, h4, h5, h6, h7, h8⟩ := h
  have hi := h1
  simp only [idleB, Bool.and_eq_true, List.isEmpty_iff] at hi
  refine ⟨by simp [hi.1], ?_⟩
  cases w
  case c => exact released_of h1
  case y =>
    exact ⟨fun n l hn hl x hx => by
      have := all_lanes h8 (P := fun n => (c.lane n).all (fun l => l.toks.all (·.count == 0)) = true) (fun _ h => h) n hn
      simp only [hl, Option.all_some, List.all_eq_true, beq_iff_eq] at this
      exact this x hx, by simp [h2]⟩
  case x => exact ⟨by simp [h3], by simp [h4]⟩
  case s => simp [h5]
  case k => simp [h6]
  case g => simp [h7]

theorem witness_FencesAndPhases :
    CanWith ⟨none, []⟩ (fun s i c _ => Released s c .system ∧ ∀ w, ClassPerformed s c i .system w) fine true ∧ CanIdle ⟨none, []⟩ fine true ∧
    (∃ (s : State) (i : Issue) (c : Crew) (o : LongOp), Ready s i c ⟨none, []⟩ fine true ∧ i.act ≠ 0 ∧ o ∈ c.pipe.inflight ∧ o.done = false ∧
      o.entry.serial < c.pipe.serial ∧ o.instr = .st4 (v 8) (v 4) 0 0) ∧
    CanWith ⟨none, []⟩ (fun s _ c _ => ∃ k ∈ s.eng.kops, k.crew = c.id) fine true ∧
    CanWith ⟨none, []⟩ (fun s i c _ => c.pipe.stage = 0 ∧ Released s c .package ∧ c.teamsIn i.act = [1] ∧ s.eng.commits = [] ∧
      ∃ tm g cx, s.team? 1 = some tm ∧ s.grid? tm.grid = some g ∧ s.ctx? g.ctx = some cx ∧ tm.buf ≠ []) fine true ∧
    CanWith ⟨none, []⟩ (fun s _ c _ => c.pipe.stage = 1 ∧ s.eng.commits = []) fine true ∧
    CanWith ⟨none, []⟩ (fun s i c _ => c.pipe.stage = 2 ∧ s.eng.commits = [] ∧ ∃ cx, s.ctx? c.ctx = some cx ∧ s.ctx? cx.id = some cx ∧
      ∀ b, b < 4 → 0 ≤ (cx.pnAt b (c.attr i).pdom - BitVec.ofNat 32 (c.pipe.stage - 2)).toInt) fine true := by
  let stage (n : Nat) : State := st fun c => { c with pipe := { c.pipe with stage := n } }
  refine ⟨?_, canIdle (s := st id idle) (by decide +kernel), ?_, ?_, ?_, ?_, ?_⟩
  · exact canWith (s := st) (fun i c _ => idleB st c && classesB st i c)
      (fun i c _ h => by rw [Bool.and_eq_true] at h; exact ⟨released_of h.1, classPerformed_of h.2⟩) (by decide +kernel)
  · let s := withOp (op (.st4 (v 8) (v 4) 0 0) 0 0 fun o => { o with left := List.replicate 8 1 })
    obtain ⟨i, c, h, hp⟩ := ready_of (s := s) (sh := ⟨none, []⟩) (bad := fine) (sync := true) (ll := false) (kernel := false)
      (who := allRead) (mem := false) (p := fun i c => i.act != 0 && match c.pipe.inflight with
        | [o] => decide (o.done = false ∧ o.entry.serial < c.pipe.serial ∧ o.instr = .st4 (v 8) (v 4) 0 0)
        | _ => false) (by decide +kernel)
    rw [Bool.and_eq_true, bne_iff_ne] at hp
    obtain ⟨h1, h2⟩ := hp
    split at h2
    · rename_i o ho
      obtain ⟨h3, h4, h5⟩ := of_decide_eq_true h2
      exact ⟨s, i, c, o, h, h1, by simp [ho], h3, h4, h5⟩
    · cases h2
  · exact canWith (s := { st with eng := { (st).eng with kops := [{ (default : KOp) with crew := 2 }] } })
      (fun _ c _ => decide (c.id = 2)) (fun _ c _ h => ⟨_, List.mem_singleton.mpr rfl, (of_decide_eq_true h).symm⟩) (by decide +kernel)
  · exact canWith (s := holding st) (fun i c _ => decide (c.pipe.stage = 0 ∧ c.teamsIn i.act = [1]) && (idleB (holding st) c &&
        ((holding st).team? 1).any fun tm => ((holding st).grid? tm.grid).any fun g => ((holding st).ctx? g.ctx).any fun _ => !tm.buf.isEmpty))
      (fun i c _ h => by
        simp only [Bool.and_eq_true, decide_eq_true_iff] at h
        obtain ⟨⟨h1, h2⟩, h3, h4⟩ := h
        obtain ⟨tm, ht, h4⟩ := any_some h4
        obtain ⟨g, hg, h4⟩ := any_some h4
        obtain ⟨cx, hx, h4⟩ := any_some h4
        have h5 := h3
        simp only [idleB, Bool.and_eq_true, List.isEmpty_iff] at h5
        exact ⟨h1, released_of h3, h2, h5.2.1, tm, g, cx, ht, hg, hx, by simpa using h4⟩) (by decide +kernel)
  · exact canWith (s := stage 1) (fun _ c _ => decide (c.pipe.stage = 1) && (stage 1).eng.commits.isEmpty)
      (fun _ _ _ h => by simpa using h) (by decide +kernel)
  · exact canWith (s := stage 2) (fun i c _ => decide (c.pipe.stage = 2) && ((stage 2).eng.commits.isEmpty && ((stage 2).ctx? c.ctx).any fun cx =>
        ((stage 2).ctx? cx.id).isSome && (decide (cx.id = c.ctx) && (List.range 4).all fun b => decide (0 ≤ (cx.pnAt b (c.attr i).pdom - BitVec.ofNat 32 (c.pipe.stage - 2)).toInt))))
      (fun i c _ h => by
        simp only [Bool.and_eq_true, decide_eq_true_iff, List.isEmpty_iff] at h
        obtain ⟨h1, h2, h3⟩ := h
        obtain ⟨cx, hx, h3⟩ := any_some h3
        simp only [Bool.and_eq_true, decide_eq_true_iff, List.all_eq_true] at h3
        exact ⟨h1, h2, cx, hx, by rw [h3.2.1]; exact hx, fun b hb => h3.2.2 b (List.mem_range.mpr hb)⟩) (by decide +kernel)

/-- Values in the loader's page, which reads zero there: offset from `codeVa`, bytes, value. -/
def page (s : State) (vs : List (Nat × Nat × Nat)) : State :=
  { s with mem := { s.mem with cells := s.mem.cells.setAll ((vs.flatMap fun x => place (codePa + x.1) (leBytes x.2.1 x.2.2)).filter (·.2 != 0)) } }

/-- Nothing older to be seen and nothing poisoned. -/
def plainB (s : State) : Bool := s.mem.hist.isEmpty && s.mem.poison.isEmpty

theorem plainB_spec {s} (h : plainB s = true) (c : Crew) (l : Nat) (as : List Nat) : s.Current c l as := by
  simp only [plainB, Bool.and_eq_true, List.isEmpty_iff] at h
  exact fun a _ => ⟨by simp [h.1], .inl (by simp [MemSys.bad, h.2])⟩

/-- The bytes of lines at an address, as a team sees them. -/
def linesAt (s : State) (cx : Ctx) (team n va : Nat) : List Byte :=
  (List.range n).flatMap fun i => (List.range 32).map fun k => s.view team ((match s.translate cx (va + 32 * i) Need.read with
    | .ok pa => pa
    | _ => 0) + k)

def linesB (s : State) (c : Crew) (l n va : Nat) (p : List Byte → Bool) : Bool :=
  plainB s && (s.ctx? c.ctx).any fun cx => ((List.range n).all fun i => match s.translate cx (va + 32 * i) Need.read with
    | .ok _ => true
    | _ => false) && p (linesAt s cx (c.teamOf l) n va)

theorem linesB_spec {s c l n va p} (h : linesB s c l n va p = true) : ∃ bs, Lines s c l n va bs ∧ p bs = true := by
  rw [linesB, Bool.and_eq_true] at h
  obtain ⟨hp, h⟩ := h
  obtain ⟨cx, hx, h⟩ := any_some h
  rw [Bool.and_eq_true, List.all_eq_true] at h
  refine ⟨_, ⟨cx, _, hx, fun i hi => ⟨?_, plainB_spec hp c l _⟩, rfl⟩, h.2⟩
  have := h.1 i (List.mem_range.mpr hi)
  split at this
  · rename_i ho; rw [ho]
  · cases this

def blockB (s : State) (c : Crew) (l al n va : Nat) (p : List Byte → Bool) : Bool :=
  decide (va % al = 0 ∧ va < 2 ^ 56) && linesB s c l n va p

theorem blockB_spec {s c l al n va p} (h : blockB s c l al n va p = true) : ∃ bs, Block s c l al n va bs ∧ p bs = true := by
  rw [blockB, Bool.and_eq_true, decide_eq_true_iff] at h
  obtain ⟨bs, hl, hp⟩ := linesB_spec h.2
  exact ⟨bs, ⟨h.1.1, h.1.2, hl⟩, hp⟩

/-- Is a check passed? -/
def passed {α : Type} (c : Chk α) : Bool := match c with
  | .ok _ => true
  | _ => false

theorem passed_unit {c : Chk Unit} (h : passed c = true) : c = .ok () := by
  unfold passed at h
  split at h
  · rfl
  · cases h

/-- An issue with its lowest lane, the team of it, and that lane's address in the pair `v0:v1`. -/
def atB (s : State) (bad : State → Crew → Issue → Bool) (who : Crew → Issue → LaneMask) (p : Issue → Crew → Nat → Nat → Bool) : Bool :=
  readyB s ⟨none, [useA (r 0) 2]⟩ bad true false false who fun i c => (lowest i.act).any fun l =>
    p i c l ((i.opn c ⟨none, [useA (r 0) 2]⟩).fa l).toNat

theorem atB_spec {s bad who p} (h : atB s bad who p = true) : ∃ i c l, Ready s i c ⟨none, [useA (r 0) 2]⟩ bad true false false who ∧
    lowest i.act = some l ∧ p i c l ((i.opn c ⟨none, [useA (r 0) 2]⟩).fa l).toNat = true := by
  obtain ⟨i, c, h, hp⟩ := ready_of h
  obtain ⟨l, hl, h2⟩ := any_some hp
  exact ⟨i, c, l, h, hl, h2⟩

/-- A gather block of 16 elements of 4 bytes: base and index array in the page, `es` 2, index type 0, wrap 64. -/
def gatherSt : State := page st [(0, 8, 0x8400), (8, 8, 0x8500), (0x10, 4, 16), (0x14, 4, 2), (0x18, 8, 64)]

/-- A key-region descriptor: keys, buckets and projection in the page, 32 elements of 4 bits, generation 7. -/
def keySt (gen : Nat) : State := page st [(0, 8, 0x8400), (8, 8, 0x8800), (0x10, 8, 0), (0x18, 8, 0x8C00), (0x20, 4, 64), (0x24, 4, 0),
  (0x28, 4, 7), (0x2C, 4, 0x04001F00), (0x800, 4, gen)]

theorem witness_Bindings :
    (∃ (s : State) (i : Issue) (c : Crew) (l : Nat), Ready s i c ⟨none, [useA (r 0) 2]⟩ fine true false false leadRead ∧ lowest i.act = some l ∧
      c.teamsIn i.act = [1] ∧ ∃ b, Block s c l 32 1 ((i.opn c ⟨none, [useA (r 0) 2]⟩).fa l).toNat b ∧
        bits (fld b 0x14 4) 0 3 = 2 ∧ fld b 0 8 = 0x8400 ∧ fld b 8 8 = 0x8500 ∧ bits (fld b 0x14 4) 4 2 = 0 ∧ bits (fld b 0x14 4) 8 2 = 0 ∧
        bits (fld b 0x14 4) 3 1 = 0 ∧ bits (fld b 0x14 4) 6 2 = 0 ∧ bits (fld b 0x14 4) 10 22 = 0 ∧ fld b 0x10 4 = 16 ∧ fld b 0x18 8 = 64) ∧
    CanWith ⟨none, [useA z 2]⟩ (fun _ i _ o => ∀ n, has i.act n = true → o.fa n = 0) fine true false false leadRead ∧
    Can ⟨some (v 22, 1), []⟩ fine true ∧
    (∀ gen ∈ [0, 7], ∃ (s : State) (i : Issue) (c : Crew) (l : Nat) (tm : Team) (cx : Ctx) (d rows head : List Byte) (pa : Nat),
      Ready s i c ⟨none, [useA (r 0) 2]⟩ fine true false false lowRead ∧ lowest i.act = some l ∧ s.keyLoads c.ctx = false ∧
      s.team? (c.teamOf l) = some tm ∧ tm.uid = c.teamOf l ∧ tm.audit.replay = none ∧ s.ctx? c.ctx = some cx ∧
      Block s c l 64 8 ((i.opn c ⟨none, [useA (r 0) 2]⟩).fa l).toNat d ∧ kregChk d = .ok () ∧
      Lines s c l (((bits (fld d 0x2C 4) 18 3 + 1) * bits (fld d 0x2C 4) 24 4 * (bits (fld d 0x2C 4) 8 8 + 1) / 8 + 31) / 32)
        (fld d 0x18 8) rows ∧
      Lines s c l 1 (fld d 8 8) head ∧ fld head 0 4 = gen ∧ s.translate cx (fld d 8 8) (if fld head 0 4 = 0 then Need.both else Need.read) = .ok pa) ∧
    CanIdle ⟨none, [useA (r 0) 2]⟩ fine true false false lowRead ∧
    CanWith ⟨none, []⟩ (fun s _ c _ => s.keyLoads c.ctx = false) fine true ∧ CanIdle ⟨none, []⟩ fine true := by
  refine ⟨?_, ?_, can (s := st) (by decide +kernel), ?_, canIdle (s := st id idle) (by decide +kernel), ?_,
    canIdle (s := st id idle) (by decide +kernel)⟩
  · obtain ⟨i, c, l, h, hl, hp⟩ := atB_spec (s := gatherSt) (bad := fine) (who := leadRead) (p := fun i c l va =>
      decide (c.teamsIn i.act = [1]) && blockB gatherSt c l 32 1 va fun b =>
        decide (bits (fld b 0x14 4) 0 3 = 2 ∧ fld b 0 8 = 0x8400 ∧ fld b 8 8 = 0x8500 ∧ bits (fld b 0x14 4) 4 2 = 0 ∧ bits (fld b 0x14 4) 8 2 = 0 ∧
        bits (fld b 0x14 4) 3 1 = 0 ∧ bits (fld b 0x14 4) 6 2 = 0 ∧ bits (fld b 0x14 4) 10 22 = 0 ∧ fld b 0x10 4 = 16 ∧ fld b 0x18 8 = 64)) (by decide +kernel)
    rw [Bool.and_eq_true, decide_eq_true_iff] at hp
    obtain ⟨b, hb, h2⟩ := blockB_spec hp.2
    exact ⟨_, i, c, l, h, hl, hp.1, b, hb, of_decide_eq_true h2⟩
  · exact canWith (s := st) (fun i _ o => lanes64 fun n => !has i.act n || decide (o.fa n = 0))
      (fun _ _ _ h => all_lanes h fun _ hn => of_decide_eq_true hn) (by decide +kernel)
  · have key (gen : Nat) (h : atB (keySt gen) fine lowRead (fun _ c l va => !(keySt gen).keyLoads c.ctx && (((keySt gen).team? (c.teamOf l)).any (fun tm =>
        decide (tm.uid = c.teamOf l ∧ tm.audit.replay = none)) && blockB (keySt gen) c l 64 8 va fun d => passed (kregChk d) &&
        (linesB (keySt gen) c l (((bits (fld d 0x2C 4) 18 3 + 1) * bits (fld d 0x2C 4) 24 4 * (bits (fld d 0x2C 4) 8 8 + 1) / 8 + 31) / 32)
          (fld d 0x18 8) (fun _ => true) && (linesB (keySt gen) c l 1 (fld d 8 8) (fun head => decide (fld head 0 4 = gen) &&
          ((keySt gen).ctx? c.ctx).any fun cx => match (keySt gen).translate cx (fld d 8 8) (if fld head 0 4 = 0 then Need.both else Need.read) with
          | .ok _ => true
          | _ => false))))) = true) :
      ∃ (s : State) (i : Issue) (c : Crew) (l : Nat) (tm : Team) (cx : Ctx) (d rows head : List Byte) (pa : Nat),
      Ready s i c ⟨none, [useA (r 0) 2]⟩ fine true false false lowRead ∧ lowest i.act = some l ∧ s.keyLoads c.ctx = false ∧
      s.team? (c.teamOf l) = some tm ∧ tm.uid = c.teamOf l ∧ tm.audit.replay = none ∧ s.ctx? c.ctx = some cx ∧
      Block s c l 64 8 ((i.opn c ⟨none, [useA (r 0) 2]⟩).fa l).toNat d ∧ kregChk d = .ok () ∧
      Lines s c l (((bits (fld d 0x2C 4) 18 3 + 1) * bits (fld d 0x2C 4) 24 4 * (bits (fld d 0x2C 4) 8 8 + 1) / 8 + 31) / 32)
        (fld d 0x18 8) rows ∧
      Lines s c l 1 (fld d 8 8) head ∧ fld head 0 4 = gen ∧ s.translate cx (fld d 8 8) (if fld head 0 4 = 0 then Need.both else Need.read) = .ok pa := by
      obtain ⟨i, c, l, h, hl, hp⟩ := atB_spec h
      simp only [Bool.and_eq_true, Bool.not_eq_true'] at hp
      obtain ⟨h1, h2, h3⟩ := hp
      obtain ⟨tm, ht, h2⟩ := any_some h2
      obtain ⟨h4, h5⟩ := of_decide_eq_true h2
      obtain ⟨d, hd, h3⟩ := blockB_spec h3
      simp only [Bool.and_eq_true] at h3
      obtain ⟨h6, h7, h8⟩ := h3
      obtain ⟨rows, hr, -⟩ := linesB_spec h7
      obtain ⟨head, hh, h8⟩ := linesB_spec h8
      rw [Bool.and_eq_true] at h8
      obtain ⟨h8, h9⟩ := h8
      obtain ⟨cx, hx, h9⟩ := any_some h9
      split at h9
      · exact ⟨_, i, c, l, tm, cx, d, rows, head, _, h, hl, h1, ht, h4, h5, hx, hd, passed_unit h6, hr, hh, of_decide_eq_true h8, ‹_›⟩
      · cases h9
    intro gen hg
    simp only [List.mem_cons, List.not_mem_nil, or_false] at hg
    rcases hg with rfl | rfl
    · exact key 0 (by decide +kernel)
    · exact key 7 (by decide +kernel)
  · exact canWith (s := st) (fun _ c _ => !(st).keyLoads c.ctx) (fun _ _ _ h => by simpa using h) (by decide +kernel)

/-- A merge descriptor of one fibre of two entries: outputs, fibre table, a completion counter at an address (0 for none), room for 4. -/
def mergeSt (ctr : Nat := 0) : State := page st [(0, 8, 0x8400), (8, 8, 0x8500), (0x10, 8, 0x8100), (0x18, 8, ctr), (0x20, 4, 4), (0x24, 4, 0),
  (0x100, 8, 0x8600), (0x108, 8, 0x8700), (0x110, 4, 2), (0x600, 4, 3), (0x604, 4, 9), (0x700, 4, 0x3F800000), (0x704, 4, 0x40000000)]

/-- A contraction that copies a vector of four 16-bit numbers to FP32. -/
def contractSt : State := page st [(0, 4, 0x11), (0x20, 4, 4), (0x40, 1, 1), (0x48, 8, 0x9000), (0xC0, 1, 1), (0xC8, 8, 0x9100)]

theorem witness_SharedOperations :
    (∃ (s : State) (i : Issue) (c : Crew) (l : Nat) (d f : List Byte), Ready s i c ⟨none, [useA (r 0) 2]⟩ fine true false false lowRead ∧
      lowest i.act = some l ∧ Block s c l 64 2 ((i.opn c ⟨none, [useA (r 0) 2]⟩).fa l).toNat d ∧ fld d 0x10 8 % 32 = 0 ∧
      fld d 0x10 8 < 2 ^ 56 ∧ Lines s c l (bits (fld d 0x24 4) 0 6 + 1) (fld d 0x10 8) f ∧ mergeChk false d f = .ok () ∧
      (s.eng.sops.filter (·.team == c.teamOf l)).length < 8) ∧
    (∃ (s : State) (i : Issue) (c : Crew) (l : Nat) (b : List Byte), Ready s i c ⟨none, [useA (r 0) 2]⟩ fine true false false lowRead ∧
      lowest i.act = some l ∧ Block s c l 64 18 ((i.opn c ⟨none, [useA (r 0) 2]⟩).fa l).toNat b ∧ contractChk b = .ok () ∧
      8 ≤ (s.eng.sops.filter (·.team == c.teamOf l)).length) ∧
    CanIdle ⟨none, [useA (r 0) 2]⟩ fine true false false lowRead := by
  refine ⟨?_, ?_, canIdle (s := st id idle) (by decide +kernel)⟩
  · obtain ⟨i, c, l, h, hl, hp⟩ := atB_spec (s := mergeSt) (bad := fine) (who := lowRead) (p := fun _ c l va =>
      decide ((mergeSt.eng.sops.filter (·.team == c.teamOf l)).length < 8) && blockB mergeSt c l 64 2 va fun d =>
        decide (fld d 0x10 8 % 32 = 0 ∧ fld d 0x10 8 < 2 ^ 56) && linesB mergeSt c l (bits (fld d 0x24 4) 0 6 + 1) (fld d 0x10 8) fun f =>
          passed (mergeChk false d f)) (by decide +kernel)
    rw [Bool.and_eq_true, decide_eq_true_iff] at hp
    obtain ⟨d, hd, h2⟩ := blockB_spec hp.2
    rw [Bool.and_eq_true, decide_eq_true_iff] at h2
    obtain ⟨f, hf, h3⟩ := linesB_spec h2.2
    exact ⟨_, i, c, l, d, f, h, hl, hd, h2.1.1, h2.1.2, hf, passed_unit h3, hp.1⟩
  · let s : State := { contractSt with eng := { (st).eng with sops := List.replicate 8 { (default : SOp) with team := 1 } } }
    obtain ⟨i, c, l, h, hl, hp⟩ := atB_spec (s := s) (bad := fine) (who := lowRead) (p := fun _ c l va =>
      decide (8 ≤ (s.eng.sops.filter (·.team == c.teamOf l)).length) && blockB s c l 64 18 va fun b => passed (contractChk b)) (by decide +kernel)
    rw [Bool.and_eq_true, decide_eq_true_iff] at hp
    obtain ⟨b, hb, h2⟩ := blockB_spec hp.2
    exact ⟨_, i, c, l, b, h, hl, hb, passed_unit h2, hp.1⟩


/-! ## Witnesses: results of shared operations -/

/-- Two fibres, the second of which descends; and one that does not. -/
theorem witness_SweepResults :
    (∀ f ∈ [(⟨[1, 3], [5, 6], false⟩ : FibreData)], f.cut = false ∧ f.coords.Pairwise (· ≤ ·)) ∧
    (∀ f ∈ [(⟨[1, 3], [5, 6], false⟩ : FibreData), ⟨[2, 1], [5, 6], false⟩], f.cut = false) ∧
    (∃ f ∈ [(⟨[1, 3], [5, 6], false⟩ : FibreData), ⟨[2, 1], [5, 6], false⟩], ¬ f.coords.Pairwise (· ≤ ·)) ∧
    (1 ≤ 1 ∧ 5 < 2 ^ 32) := by
  simp

/-- What an `ok` holds. -/
def okAnd {ε α : Type} (x : Except ε α) (p : α → Bool) : Bool := match x with
  | .ok a => p a
  | .error _ => false

theorem okAnd_spec {ε α : Type} {x : Except ε α} {p : α → Bool} (h : okAnd x p = true) : ∃ a, x = .ok a ∧ p a = true := by
  cases x with
  | ok a => exact ⟨a, rfl, h⟩
  | error _ => cases h

/-- The operation of `mergeSt` or `contractSt`, issued. -/
def sop (merge : Bool) (ctr : Nat := 0) : SOp :=
  let s := if merge then mergeSt ctr else contractSt
  let cx := s.ctxs.head?.getD default
  ⟨1, 1, 2, merge, false, codeVa, linesAt s cx 1 (if merge then 2 else 18) codeVa,
    if merge then linesAt s cx 1 1 (codeVa + 0x100) else [], 0, 0, 0, []⟩

/-- It is the team's next, and the team holds the lines it writes. -/
def mergeDue (ctr : Nat) : State :=
  let s := withTeam (mergeSt ctr) fun t => { t with buf := [0x400, 0x500, 0x20].foldl (fun b k => bufAdd 0 (lineOf (codePa + k)) [(codePa + k, 0)] b) t.buf }
  { s with eng := { s.eng with sops := [sop true ctr] } }

def contractDue : State := { contractSt with eng := { (contractSt).eng with sops := [sop false] } }

/-- The first byte of a store goes to a team that holds no line. -/
def storesB (s : State) (team core : Nat) (crew : Option Nat) (dom : Nat) (bs : List (Place × Byte)) (p : State → Bool) : Bool := match bs with
  | (.mem pa, b) :: ps => (s.team? team).any (fun t => t.buf.isEmpty) && s.commitsDone team &&
      okAnd ((s.updTeam team fun t => { t with buf := bufAdd dom (lineOf pa) [(pa, b)] t.buf }).storeBytes team core crew dom ps) p
  | _ => false

theorem storesB_spec {s team core crew dom bs p} (h : storesB s team core crew dom bs p = true) :
    ∃ s1, s.storeBytes team core crew dom bs = .ok s1 ∧ p s1 = true := by
  unfold storesB at h
  split at h
  · rename_i pa b ps
    simp only [Bool.and_eq_true] at h
    obtain ⟨⟨h1, h2⟩, h3⟩ := h
    obtain ⟨t, ht, h1⟩ := any_some h1
    obtain ⟨s1, h3, hp⟩ := okAnd_spec h3
    have hb : t.buf = [] := by simpa using h1
    refine ⟨s1, ?_, hp⟩
    simp only [State.storeBytes]
    have : s.bufByte team core crew dom pa b = .ok (s.updTeam team fun t => { t with buf := bufAdd dom (lineOf pa) [(pa, b)] t.buf }) := by
      simp [State.bufByte, ht, hb, State.commitNow, h2]
    rw [this]
    exact h3
  · cases h

/-- The fibre that `mergeSt` holds, with no counter, with one, and with one at an address that is not to be had. -/
theorem witness_SharedResults :
    (∀ ctr ∈ [Ctr.none, .at (codePa + 0x200), .dead (2 ^ 60)], ∃ (s : State) (o : SOp) (tm : Team) (bs : List (Place × Byte)) (s1 : State) (C V : Nat → Nat → Nat),
      let e := s.engEnv o
      let d := o.bytes
      (s.eng.sops.filter (·.team == o.team)).head? = some o ∧ o.merge = true ∧ o.unres = [] ∧ s.team? o.team = some tm ∧
      tm.audit.replay = none ∧ e.mergeWrites o (fun _ => 0) = .ok (bs, ctr) ∧ s.storeBytes o.team o.core none o.dom bs = .ok s1 ∧
      (∀ j x i, (fibresOf d o.fibres)[j]? = some x → i < x.len →
        e.read 0 (x.coord + 4 * i) 4 = .ok (C j i) ∧ e.read 0 (x.val + 4 * i) 4 = .ok (V j i)) ∧
      ∀ p x, p < 2 → e.pa 0 (fld d 0 8 + 4 * p) Need.write ≠ .error (.dead 0 x) ∧
        e.pa 0 (fld d 8 8 + 4 * p) Need.write ≠ .error (.dead 0 x)) ∧
    ∃ (s : State) (o : SOp) (tm : Team) (tile : OutTile) (bs : List (Place × Byte)) (st : Nat) (s1 v s2 : State),
     let e := s.engEnv o
     let k := cblock o.bytes
     let status : List (Place × Byte) := place st (leBytes 4 (2 ^ 31) ++ List.replicate 12 0) |>.map fun p => (.mem p.1, p.2)
     (s.eng.sops.filter (·.team == o.team)).head? = some o ∧ o.merge = false ∧ o.tiles = 0 ∧ tm.uid = o.team ∧ Clean s tm ∧
     k.ctr = 0 ∧ outTiles k = [tile] ∧ e.levelsOk k = .ok () ∧ e.tile k tile = .ok bs ∧
     (∀ q ∈ s.eng.sops, q.id = o.id → q = o) ∧
     (∀ p b, (Place.mem p, b) ∈ bs ++ status → isPeerPa p = false) ∧
     s.storeBytes o.team o.core none o.dom bs = .ok s1 ∧
     (s1.setTiles o.id 1).commitLines o.team o.core none ((s1.setTiles o.id 1).heldLines o.team
       (memLines (bs.map (·.1)))) = (v, true) ∧ v.storeBytes o.team o.core none o.dom status = .ok s2 ∧
       ∀ j, j < 4 → (v.engEnv o).pa 0 (o.desc + 8 + 4 * j) Need.write = .ok (st + 4 * j) := by
  refine ⟨?_, ?_⟩
  · intro ctr hc
    obtain ⟨va, hk⟩ : ∃ va, (((mergeDue va).eng.sops.filter (·.team == 1)).head?).any (fun o => decide (o.team = 1 ∧ o.merge = true ∧ o.unres = []) &&
        (((mergeDue va).team? o.team).any (fun tm => decide (tm.audit.replay = none)) &&
        (okAnd (((mergeDue va).engEnv o).mergeWrites o (fun _ => 0)) (fun w => w.2 == ctr && okAnd ((mergeDue va).storeBytes o.team o.core none o.dom w.1) fun _ => true) &&
        ((((fibresOf o.bytes o.fibres).map fun x => x.len) == [2] && (List.range 2).all fun i => (fibresOf o.bytes o.fibres).all fun x =>
          okAnd (((mergeDue va).engEnv o).read 0 (x.coord + 4 * i) 4) (fun c => c == nth [3, 9] i 0) &&
          okAnd (((mergeDue va).engEnv o).read 0 (x.val + 4 * i) 4) (fun c => c == nth [0x3F800000, 0x40000000] i 0)) &&
        (List.range 2).all fun p => okAnd (((mergeDue va).engEnv o).pa 0 (fld o.bytes 0 8 + 4 * p) Need.write) (fun _ => true) &&
          okAnd (((mergeDue va).engEnv o).pa 0 (fld o.bytes 8 8 + 4 * p) Need.write) (fun _ => true))))) = true := by
      simp only [List.mem_cons, List.not_mem_nil, or_false] at hc
      rcases hc with rfl | rfl | rfl
      · exact ⟨0, by decide +kernel⟩
      · exact ⟨0x8200, by decide +kernel⟩
      · exact ⟨2 ^ 60, by decide +kernel⟩
    obtain ⟨o, h1, h⟩ := any_some hk
    simp only [Bool.and_eq_true, decide_eq_true_iff, beq_iff_eq, List.all_eq_true, List.mem_range] at h
    obtain ⟨⟨h2, h3, h4⟩, h5, h6, ⟨h7, h8⟩, h9⟩ := h
    obtain ⟨tm, ht, h5⟩ := any_some h5
    obtain ⟨w, hw, h6⟩ := okAnd_spec h6
    rw [Bool.and_eq_true, beq_iff_eq] at h6
    obtain ⟨h10, h6⟩ := h6
    obtain ⟨s1, hs, -⟩ := okAnd_spec h6
    have h5 := of_decide_eq_true h5
    refine ⟨mergeDue va, o, tm, w.1, s1, fun _ i => nth [3, 9] i 0, fun _ i => nth [0x3F800000, 0x40000000] i 0,
      by rw [h2]; exact h1, h3, h4, ht, h5, by rw [hw, ← h10], hs, fun j x i hx hi => ?_, fun p x hp => ?_⟩
    · have hx := List.mem_of_getElem? hx
      have h10 : x.len ∈ (fibresOf o.bytes o.fibres).map fun x => x.len := List.mem_map_of_mem hx
      rw [h7, List.mem_singleton] at h10
      obtain ⟨ha, hb⟩ := h8 i (h10 ▸ hi) x hx
      obtain ⟨c, hc, ha⟩ := okAnd_spec ha
      obtain ⟨d, hd, hb⟩ := okAnd_spec hb
      rw [beq_iff_eq] at ha hb
      exact ⟨hc.trans (ha ▸ rfl), hd.trans (hb ▸ rfl)⟩
    · obtain ⟨ha, hb⟩ := h9 p hp
      obtain ⟨c, hc, -⟩ := okAnd_spec ha
      obtain ⟨d, hd, -⟩ := okAnd_spec hb
      simp [hc, hd]
  · let stat (st : Nat) : List (Place × Byte) :=
      place st (leBytes 4 (2 ^ 31) ++ List.replicate 12 0) |>.map fun p => (.mem p.1, p.2)
    let peerless (bs : List (Place × Byte)) : Bool := bs.all fun q => match q.1 with
      | .mem p => !isPeerPa p
      | _ => true
    have hall {bs : List (Place × Byte)} (h : peerless bs = true) : ∀ p b, (Place.mem p, b) ∈ bs → isPeerPa p = false := fun p b hm => by
      simpa using List.all_eq_true.mp h _ hm
    obtain ⟨o, h1, h⟩ := any_some (x := (contractDue.eng.sops.filter (·.team == 1)).head?) (p := fun o =>
      decide (o.team = 1 ∧ o.merge = false ∧ o.tiles = 0 ∧ (cblock o.bytes).ctr = 0) && ((contractDue.team? o.team).any (fun tm =>
        tm.buf.isEmpty && decide (tm.audit.replay = none)) && (contractDue.eng.commits.isEmpty &&
      ((match outTiles (cblock o.bytes) with
        | [tile] => okAnd ((contractDue.engEnv o).tile (cblock o.bytes) tile) fun bs =>
            storesB contractDue o.team o.core none o.dom bs fun s1 =>
              match (s1.setTiles o.id 1).commitLines o.team o.core none ((s1.setTiles o.id 1).heldLines o.team (memLines (bs.map (·.1)))) with
              | (v, b) => b && okAnd ((v.engEnv o).pa 0 (o.desc + 8) Need.write) fun st => peerless (bs ++ stat st) &&
                storesB v o.team o.core none o.dom (stat st) (fun _ => true) && (List.range 4).all fun j =>
                  okAnd ((v.engEnv o).pa 0 (o.desc + 8 + 4 * j) Need.write) (· == st + 4 * j)
        | _ => false) && okAnd ((contractDue.engEnv o).levelsOk (cblock o.bytes)) fun _ => true)))) (by decide +kernel)
    simp only [Bool.and_eq_true, decide_eq_true_iff, List.isEmpty_iff] at h
    obtain ⟨⟨h2, h3, h4, h5⟩, h6, h7, h8, h9⟩ := h
    obtain ⟨tm, ht, h6⟩ := any_some h6
    simp only [Bool.and_eq_true, decide_eq_true_iff, List.isEmpty_iff] at h6
    obtain ⟨u, hu, -⟩ := okAnd_spec h9
    have htu : tm.uid = o.team := by simpa using List.find?_some ht
    split at h8
    · rename_i tile htile
      obtain ⟨bs, hb, h8⟩ := okAnd_spec h8
      obtain ⟨s1, hs1, h8⟩ := storesB_spec h8
      generalize hv : (s1.setTiles o.id 1).commitLines o.team o.core none ((s1.setTiles o.id 1).heldLines o.team (memLines (bs.map (·.1)))) = x at h8
      obtain ⟨v, b⟩ := x
      rw [Bool.and_eq_true] at h8
      have hb1 : b = true := h8.1
      obtain ⟨st, hst, h8⟩ := okAnd_spec h8.2
      simp only [Bool.and_eq_true, List.all_eq_true, List.mem_range] at h8
      obtain ⟨⟨h10, h11⟩, h12⟩ := h8
      obtain ⟨s2, hs2, -⟩ := storesB_spec h11
      refine ⟨contractDue, o, tm, tile, bs, st, s1, v, s2, by rw [h2]; exact h1, h3, h4, htu, ⟨by rw [htu]; exact ht, h6.1, h6.2, by simp [h7]⟩,
        h5, htile, hu, hb, fun q hq hi => ?_, hall h10, hs1, ?_, hs2, fun j hj => ?_⟩
      · have h13 := (List.mem_filter.mp (List.mem_of_head? h1)).1
        simp only [contractDue, List.mem_singleton] at hq h13
        rw [hq, h13]
      · rw [hv, hb1]
      · obtain ⟨x, hx, h14⟩ := okAnd_spec (h12 j hj)
        rw [hx, beq_iff_eq.mp h14]
    · cases h8

/-! ## Witnesses: key regions -/

/-- What a passed check holds. -/
def chkAnd {α : Type} (x : Chk α) (p : α → Bool) : Bool := match x with
  | .ok a => p a
  | _ => false

theorem chkAnd_spec {α : Type} {x : Chk α} {p : α → Bool} (h : chkAnd x p = true) : ∃ a, x = .ok a ∧ p a = true := by
  cases x with
  | ok a => exact ⟨a, rfl, h⟩
  | trap _ _ => cases h
  | fault _ _ _ => cases h

/-- With lane 0 alone in ACTIVE. -/
def lone (s : State) : State := { s with cur := s.cur.map fun i => { i with act := 1 } }

/-- The region of `keySt`, registered as slot 0; each head block holds `cnt` and the head flags `ov`; a pool of `pool`
blocks. -/
def keyed (cnt ov pool : Nat) : State :=
  let s := page (keySt 7) ([(0x10, 8, 0x9400), (0x24, 4, pool)] ++ (List.range 16).flatMap fun g =>
    [(0x840 + 64 * g + 0x3C, 2, cnt), (0x840 + 64 * g + 0x3E, 2, ov)])
  { s with ctxs := s.ctxs.map fun x => { x with keys := [kslotOf 0 (linesAt s x 1 8 codeVa) (List.replicate 16 0) false] } }

/-- The work of one lane, its key read. -/
def kop (s : State) (step : Nat) : KOp :=
  ⟨9, 2, 1, ((s.ctxs.head?.bind fun x => x.keys.head?).getD default), 0, 5, (List.range 64).map fun j => .mem (codePa + j),
    (List.range 4).map fun j => codePa + 0x400 + j, List.replicate 64 0, step, 0, [], 0, 5, none⟩

def kstDue (cnt ov pool step : Nat) : State :=
  let s := keyed cnt ov pool
  { s with eng := { s.eng with kops := [kop s step] } }

/-- The work, its team and grid, and what else is to hold of them. -/
def kstB (s : State) (p : KOp → Team → Grid → Bool) : Bool :=
  (s.eng.kops.find? (·.crew == 2)).any fun k => ((s.team? k.team).any fun tm => (s.grid? tm.grid).any fun g =>
    decide (tm.audit.replay = none) && p k tm g) && decide (s.eng.kops.length = 1)

theorem kstB_spec {s p} (h : kstB s p = true) : ∃ k tm g, s.eng.kops.find? (·.crew == 2) = some k ∧
    (∀ q ∈ s.eng.kops, q.id = k.id → q = k) ∧ s.team? k.team = some tm ∧ tm.uid = k.team ∧ s.grid? tm.grid = some g ∧
    tm.audit.replay = none ∧ p k tm g = true := by
  obtain ⟨k, hk, h⟩ := any_some h
  simp only [Bool.and_eq_true, decide_eq_true_iff] at h
  obtain ⟨h2, h3⟩ := h
  obtain ⟨tm, ht, h2⟩ := any_some h2
  obtain ⟨g, hg, h2⟩ := any_some h2
  simp only [Bool.and_eq_true, decide_eq_true_iff] at h2
  refine ⟨k, tm, g, hk, fun q hq _ => ?_, ht, by simpa using List.find?_some ht, hg, h2.1, h2.2⟩
  obtain ⟨x, hx⟩ := List.length_eq_one_iff.mp h3
  have h4 := List.mem_of_find?_eq_some hk
  rw [hx, List.mem_singleton] at hq h4
  rw [hq, h4]

/-- What the Insert finds. -/
def insertB (s : State) (p : KOp → Nat → Nat → Nat × Nat → Nat × Nat → Bool) : Bool := kstB s fun k _ g =>
  decide (k.step = 1 ∧ 0 < k.slot.nl) && chkAnd (s.chkVa g.ctx k.slot.bbase Need.both) fun hdr =>
    chkAnd (s.chainBlocks g.ctx k.slot (k.slot.opcnt + 1) (k.slot.headBlock k.head 0 (k.slot.signature 0 (k.slot.elems k.key)).1)) fun blocks =>
        !s.homePoison k.team (hdr :: blocks.map (·.2)) && blocks.head?.any fun head => blocks.getLast?.any fun last => p k g.ctx hdr head last

theorem insertB_spec {s p} (h : insertB s p = true) : ∃ k tm g hdr blocks head last, s.eng.kops.find? (·.crew == 2) = some k ∧
    (∀ q ∈ s.eng.kops, q.id = k.id → q = k) ∧ s.team? k.team = some tm ∧ tm.uid = k.team ∧ s.grid? tm.grid = some g ∧
    tm.audit.replay = none ∧ k.step = 1 ∧ 0 < k.slot.nl ∧ s.chkVa g.ctx k.slot.bbase Need.both = .ok hdr ∧
    s.chainBlocks g.ctx k.slot (k.slot.opcnt + 1) (k.slot.headBlock k.head 0 (k.slot.signature 0 (k.slot.elems k.key)).1) = .ok blocks ∧
    blocks.head? = some head ∧ blocks.getLast? = some last ∧ s.homePoison k.team (hdr :: blocks.map (·.2)) = false ∧ p k g.ctx hdr head last = true := by
  obtain ⟨k, tm, g, h1, h2, h3, h4, h5, h6, h⟩ := kstB_spec h
  simp only [Bool.and_eq_true, decide_eq_true_iff] at h
  obtain ⟨⟨h8, h9⟩, h⟩ := h
  obtain ⟨hdr, hh, h⟩ := chkAnd_spec h
  obtain ⟨blocks, hb, h⟩ := chkAnd_spec h
  rw [Bool.and_eq_true, Bool.not_eq_true'] at h
  obtain ⟨hp, h⟩ := h
  obtain ⟨head, he, h⟩ := any_some h
  obtain ⟨last, hl, h⟩ := any_some h
  exact ⟨k, tm, g, hdr, blocks, head, last, h1, h2, h3, h4, h5, h6, h8, h9, hh, hb, he, hl, hp, h⟩

/-- Does a slot word go to the commit buffer, and nothing else change memory? -/
def wordB (s : State) (k : KOp) (pa : Nat) : Bool :=
  storesB s k.team k.core (some k.crew) k.dom ((numAt pa 4 k.tok).map fun q => (.mem q.1, q.2)) fun s1 =>
    decide (s1.mem = s.mem)

def WordStored (s : State) (k : KOp) (pa : Nat) : Prop :=
  ∃ s1, s.storeBytes k.team k.core (some k.crew) k.dom ((numAt pa 4 k.tok).map fun q => (.mem q.1, q.2)) = .ok s1 ∧
    s1.mem = s.mem

theorem wordB_spec {s k pa} (h : wordB s k pa = true) : WordStored s k pa := by
  obtain ⟨s1, h1, h2⟩ := storesB_spec h
  exact ⟨s1, h1, of_decide_eq_true h2⟩

/-- May a page be read and written? -/
def writes (s : State) (ctx va : Nat) : Bool := chkAnd (s.chkVa ctx va Need.both) fun _ => true

theorem writes_spec {s ctx va} (h : writes s ctx va = true) : ∃ pa, s.chkVa ctx va Need.both = .ok pa := by
  obtain ⟨pa, hp, -⟩ := chkAnd_spec h
  exact ⟨pa, hp⟩

/-- What an Insert asks of what it finds, each way it may go. -/
def InsertGoes (s : State) (k : KOp) (ctx hdr : Nat) (head last : Nat × Nat) : Nat → Prop
  | 0 => s.homeFld head.2 0x3E 2 % 2 = 1
  | 1 => s.homeFld head.2 0x3E 2 % 2 ≠ 1 ∧ s.homeFld last.2 0x3C 2 = 13 ∧ (∃ pa, s.chkVa ctx last.1 Need.both = .ok pa) ∧
      WordStored s k (last.2 + 4 * 13)
  | 2 => s.homeFld head.2 0x3E 2 % 2 ≠ 1 ∧ s.homeFld last.2 0x3C 2 = 14 ∧ k.slot.opcnt ≤ s.homeFld hdr 4 4 ∧
      ∃ pa, s.chkVa ctx head.1 Need.both = .ok pa
  | _ => s.homeFld head.2 0x3E 2 % 2 ≠ 1 ∧ s.homeFld last.2 0x3C 2 = 14 ∧ s.homeFld hdr 4 4 < k.slot.opcnt ∧
      (∃ pa, s.chkVa ctx last.1 Need.both = .ok pa) ∧
      ∃ pa, s.chkVa ctx (k.slot.poolBlock (s.homeFld hdr 4 4)) Need.both = .ok pa ∧ WordStored s k pa

def insertGoesB (s : State) (k : KOp) (ctx hdr : Nat) (head last : Nat × Nat) : Nat → Bool
  | 0 => decide (s.homeFld head.2 0x3E 2 % 2 = 1)
  | 1 => decide (s.homeFld head.2 0x3E 2 % 2 ≠ 1 ∧ s.homeFld last.2 0x3C 2 = 13) && (writes s ctx last.1 && wordB s k (last.2 + 4 * 13))
  | 2 => decide (s.homeFld head.2 0x3E 2 % 2 ≠ 1 ∧ s.homeFld last.2 0x3C 2 = 14 ∧ k.slot.opcnt ≤ s.homeFld hdr 4 4) && writes s ctx head.1
  | _ => decide (s.homeFld head.2 0x3E 2 % 2 ≠ 1 ∧ s.homeFld last.2 0x3C 2 = 14 ∧ s.homeFld hdr 4 4 < k.slot.opcnt) &&
      (writes s ctx last.1 && chkAnd (s.chkVa ctx (k.slot.poolBlock (s.homeFld hdr 4 4)) Need.both) fun pa => wordB s k pa)

theorem insertGoesB_spec {s k ctx hdr head last} : ∀ way, insertGoesB s k ctx hdr head last way = true → InsertGoes s k ctx hdr head last way
  | 0, h => by simpa [insertGoesB, InsertGoes] using h
  | 1, h => by
    simp only [insertGoesB, Bool.and_eq_true, decide_eq_true_iff] at h
    exact ⟨h.1.1, h.1.2, writes_spec h.2.1, wordB_spec h.2.2⟩
  | 2, h => by
    simp only [insertGoesB, Bool.and_eq_true, decide_eq_true_iff] at h
    exact ⟨h.1.1, h.1.2.1, h.1.2.2, writes_spec h.2⟩
  | _ + 3, h => by
    simp only [insertGoesB, Bool.and_eq_true, decide_eq_true_iff] at h
    obtain ⟨⟨h1, h2, h3⟩, h4, h5⟩ := h
    obtain ⟨pa, hp, h5⟩ := chkAnd_spec h5
    exact ⟨h1, h2, h3, writes_spec h4, pa, hp, wordB_spec h5⟩

/-- The lanes of KST pass their checks; and each of the five ways that a step of its work may go. -/
theorem witness_KeyStores :
    (CanWith ⟨none, [useA (r 0) 2, useB (lit 5)]⟩
      (fun s i c o => isRel (c.attr i).order = false ∧ c.pipe.inflight = [] ∧ (s.eng.kops.filter (·.crew == c.id)).length + (lanesOf i.act).length ≤ 256 ∧
        ∃ (ps : Nat → List Place) (ds : Nat → List Nat) (k : KSlot), ∀ n, has i.act n = true → (c.lane n).isSome = true ∧
          s.kstChk c (c.teamOf n) 0 (c.attr i).space (o.fa n).toNat (o.wb n).toNat = .ok (k, ps n, ds n))
      (fun _ c i => !keySpaces.contains (c.attr i).space) true) ∧
    (∃ (s : State) (k : KOp) (tm : Team) (g : Grid) (s1 : State), s.eng.kops.find? (·.crew == 2) = some k ∧
      (∀ q ∈ s.eng.kops, q.id = k.id → q = k) ∧ s.team? k.team = some tm ∧ tm.uid = k.team ∧ s.grid? tm.grid = some g ∧
      tm.audit.replay = none ∧ k.step = 0 ∧ 0 < k.slot.nl ∧ s.readsPoison k.team k.src = false ∧ s.storeBytes k.team k.core (some k.crew) k.dom
        ((k.dst.map Place.mem).zip (k.src.map (s.placeByte k.team))) = .ok s1) ∧
    ∀ way, way < 4 → ∃ (s : State) (k : KOp) (tm : Team) (g : Grid) (hdr : Nat) (blocks : List (Nat × Nat)) (head last : Nat × Nat),
      s.eng.kops.find? (·.crew == 2) = some k ∧
      (∀ q ∈ s.eng.kops, q.id = k.id → q = k) ∧ s.team? k.team = some tm ∧ tm.uid = k.team ∧ s.grid? tm.grid = some g ∧
      tm.audit.replay = none ∧ k.step = 1 ∧ 0 < k.slot.nl ∧ s.chkVa g.ctx k.slot.bbase Need.both = .ok hdr ∧
      s.chainBlocks g.ctx k.slot (k.slot.opcnt + 1) (k.slot.headBlock k.head 0 (k.slot.signature 0 (k.slot.elems k.key)).1) = .ok blocks ∧
      blocks.head? = some head ∧ blocks.getLast? = some last ∧ s.homePoison k.team (hdr :: blocks.map (·.2)) = false ∧
      InsertGoes s k g.ctx hdr head last way := by
  refine ⟨?_, ?_, fun way hw => ?_⟩
  · refine canWith (s := lone (keyed 0 0 0)) (fun i c o => decide (isRel (c.attr i).order = false ∧ c.pipe.inflight.length = 0 ∧
        ((lone (keyed 0 0 0)).eng.kops.filter (·.crew == c.id)).length + (lanesOf i.act).length ≤ 256) && ((lone (keyed 0 0 0)).kslot? c.ctx 0).isSome &&
        lanes64 fun n => !has i.act n || ((c.lane n).isSome && chkAnd ((lone (keyed 0 0 0)).kstChk c (c.teamOf n) 0 (c.attr i).space (o.fa n).toNat (o.wb n).toNat)
          fun x => ((lone (keyed 0 0 0)).kslot? c.ctx 0).any fun k => decide (x.1 = k))) (fun i c o h => ?_) (by decide +kernel)
    simp only [Bool.and_eq_true] at h
    obtain ⟨⟨h1, h2⟩, h3⟩ := h
    obtain ⟨k, hk⟩ := Option.isSome_iff_exists.mp h2
    obtain ⟨h4, h0, h5⟩ := of_decide_eq_true h1
    refine ⟨h4, List.length_eq_zero_iff.mp h0, h5, fun n => (match (lone (keyed 0 0 0)).kstChk c (c.teamOf n) 0 (c.attr i).space (o.fa n).toNat (o.wb n).toNat with
      | .ok x => x.2.1
      | _ => []), fun n => (match (lone (keyed 0 0 0)).kstChk c (c.teamOf n) 0 (c.attr i).space (o.fa n).toNat (o.wb n).toNat with
      | .ok x => x.2.2
      | _ => []), k, all_lanes h3 fun n hn => ?_⟩
    rw [Bool.and_eq_true] at hn
    obtain ⟨x, hx, hn2⟩ := chkAnd_spec hn.2
    rw [hk] at hn2
    simp only [hx, Option.any_some, decide_eq_true_iff] at hn2 ⊢
    exact ⟨hn.1, by rw [← hn2]⟩
  · obtain ⟨k, tm, g, h1, h2, h3, h4, h5, h6, h⟩ := kstB_spec (s := kstDue 0 0 0 0) (p := fun k tm g => decide (k.step = 0 ∧ 0 < k.slot.nl ∧ (kstDue 0 0 0 0).readsPoison k.team k.src = false) &&
      storesB (kstDue 0 0 0 0) k.team k.core (some k.crew) k.dom
        ((k.dst.map Place.mem).zip (k.src.map ((kstDue 0 0 0 0).placeByte k.team))) fun _ => true) (by decide +kernel)
    rw [Bool.and_eq_true, decide_eq_true_iff] at h
    obtain ⟨s1, hs, -⟩ := storesB_spec h.2
    exact ⟨_, k, tm, g, s1, h1, h2, h3, h4, h5, h6, h.1.1, h.1.2.1, h.1.2.2, hs⟩
  · have key (cnt ov pool : Nat) (h : insertB (kstDue cnt ov pool 1) (fun k ctx hdr head last =>
        insertGoesB (kstDue cnt ov pool 1) k ctx hdr head last way) = true) :
        ∃ (s : State) (k : KOp) (tm : Team) (g : Grid) (hdr : Nat) (blocks : List (Nat × Nat)) (head last : Nat × Nat),
      s.eng.kops.find? (·.crew == 2) = some k ∧
      (∀ q ∈ s.eng.kops, q.id = k.id → q = k) ∧ s.team? k.team = some tm ∧ tm.uid = k.team ∧ s.grid? tm.grid = some g ∧
      tm.audit.replay = none ∧ k.step = 1 ∧ 0 < k.slot.nl ∧ s.chkVa g.ctx k.slot.bbase Need.both = .ok hdr ∧
      s.chainBlocks g.ctx k.slot (k.slot.opcnt + 1) (k.slot.headBlock k.head 0 (k.slot.signature 0 (k.slot.elems k.key)).1) = .ok blocks ∧
      blocks.head? = some head ∧ blocks.getLast? = some last ∧ s.homePoison k.team (hdr :: blocks.map (·.2)) = false ∧
      InsertGoes s k g.ctx hdr head last way := by
      obtain ⟨k, tm, g, hdr, bl, hd, la, h1, h2, h3, h4, h5, h6, h7, h8, h9, h10, h11, h12, h13, h⟩ := insertB_spec h
      exact ⟨_, k, tm, g, hdr, bl, hd, la, h1, h2, h3, h4, h5, h6, h7, h8, h9, h10, h11, h12, h13, insertGoesB_spec way h⟩
    obtain rfl | rfl | rfl | rfl : way = 0 ∨ way = 1 ∨ way = 2 ∨ way = 3 := by omega
    · exact key 0 1 0 (by decide +kernel)
    · exact key 13 0 0 (by decide +kernel)
    · exact key 14 0 0 (by decide +kernel)
    · exact key 14 0 1 (by decide +kernel)

/-- The descriptor's lane address and base, as the statement asks, with slot 0 and room for 16 tokens. -/
def Finds (s : State) (i : Issue) (c : Crew) (o : Opn) (k : KSlot) (f : Nat → KFound) : Prop :=
  (isRel (c.attr i).order = true → s.released c c.pipe.serial (c.attr i).scope = true) ∧
  (∀ q ∈ s.eng.kops, q.crew ≠ c.id) ∧ s.kslot? c.ctx 0 = some k ∧
  ∀ l, has i.act l = true → (c.lane l).isSome = true ∧ (s.team? (c.teamOf l)).isSome = true ∧ ∃ ps,
    s.kgChk c (c.teamOf l) 0 (c.attr i).space (o.fa l).toNat (o.wb l).toNat 16 = .ok (k, ps) ∧
    s.kfind c.ctx (c.teamOf l) k false ((o.wb l).toNat / 2 ^ 24) 16 ps = .ok (f l) ∧ (f l).poison = false

def findsB (s : State) (i : Issue) (c : Crew) (o : Opn) (p : KFound → Bool) : Bool :=
  !isRel (c.attr i).order && (s.eng.kops.isEmpty && (s.kslot? c.ctx 0).any fun k => lanes64 fun l => !has i.act l ||
    ((c.lane l).isSome && ((s.team? (c.teamOf l)).isSome && chkAnd (s.kgChk c (c.teamOf l) 0 (c.attr i).space (o.fa l).toNat (o.wb l).toNat 16)
      fun x => decide (x.1 = k) && chkAnd (s.kfind c.ctx (c.teamOf l) k false ((o.wb l).toNat / 2 ^ 24) 16 x.2) fun f => !f.poison && p f)))

theorem findsB_spec {s i c o p} (h : findsB s i c o p = true) :
    ∃ k f, Finds s i c o k f ∧ ∀ l, has i.act l = true → p (f l) = true := by
  simp only [findsB, Bool.and_eq_true, Bool.not_eq_true', List.isEmpty_iff] at h
  obtain ⟨h1, h2, h3⟩ := h
  obtain ⟨k, hk, h3⟩ := any_some h3
  let places (l : Nat) : List Place := match s.kgChk c (c.teamOf l) 0 (c.attr i).space (o.fa l).toNat (o.wb l).toNat 16 with
    | .ok x => x.2
    | _ => []
  let found (l : Nat) : KFound := match s.kfind c.ctx (c.teamOf l) k false ((o.wb l).toNat / 2 ^ 24) 16 (places l) with
    | .ok f => f
    | _ => default
  have key : ∀ l, has i.act l = true → ((c.lane l).isSome = true ∧ (s.team? (c.teamOf l)).isSome = true ∧ ∃ ps,
      s.kgChk c (c.teamOf l) 0 (c.attr i).space (o.fa l).toNat (o.wb l).toNat 16 = .ok (k, ps) ∧
      s.kfind c.ctx (c.teamOf l) k false ((o.wb l).toNat / 2 ^ 24) 16 ps = .ok (found l) ∧ (found l).poison = false) ∧ p (found l) = true :=
    all_lanes h3 fun l hl => by
      simp only [Bool.and_eq_true] at hl
      obtain ⟨h4, h5, h6⟩ := hl
      obtain ⟨x, hx, h6⟩ := chkAnd_spec h6
      rw [Bool.and_eq_true, decide_eq_true_iff] at h6
      obtain ⟨f, hf, h7⟩ := chkAnd_spec h6.2
      rw [Bool.and_eq_true, Bool.not_eq_true'] at h7
      have hp : places l = x.2 := by simp only [places, hx]
      have hd : found l = f := by simp only [found, hp, hf]
      rw [hd]
      exact ⟨⟨h4, h5, x.2, by rw [hx, ← h6.1], hf, h7.1⟩, h7.2⟩
  exact ⟨k, found, ⟨by simp [h1], by simp [h2], hk, fun l hl => (key l hl).1⟩, fun l hl => (key l hl).2⟩

/-- Lane 0 with a key, a scratchpad, and buckets that have overflowed or not. -/
def gathers (ov : Nat) : State :=
  withDesc (withTeam (lone (keyed 0 ov 0)) fun t => { t with res := { t.res with ssize := 64 } }) fun d => { d with trapvec := codeVa }

/-- Every bucket of a query by lane 0 is read, without and with the probes; no lane needs the dense path; and one does. -/
theorem witness_KeyGathers :
    (∀ probe ∈ [false, true], ∃ (s : State) (ctx team : Nat) (k : KSlot) (ps : List Place) (bs : List (List Nat × Bool × Bool)),
      (k.buckets probe (k.elems (ps.map (s.placeByte team)))).length = bs.length ∧
      (∀ (j l g : Nat) (r : List Nat × Bool × Bool), (k.buckets probe (k.elems (ps.map (s.placeByte team))))[j]? = some (l, g) →
        bs[j]? = some r → s.bucket ctx team k 0 l g = .ok r) ∧ ∃ hdr, s.chkVa ctx k.bbase Need.both = .ok hdr) ∧
    CanWith ⟨some (v 22, 1), [useA (r 0) 2, useB z]⟩ (fun s i c o => ∃ k f, Finds s i c o k f ∧ ∀ l, has i.act l = true → (f l).dense = false)
      (fun _ c i => !keySpaces.contains (c.attr i).space || notTeamLocal c) true ∧
    CanTrap ⟨some (v 22, 1), [useA (r 0) 2, useB z]⟩ (fun s i c o => ∃ k f, ∃ dense : LaneMask, Finds s i c o k f ∧ dense ≠ 0 ∧
        (∀ l, has dense l = true ↔ has i.act l = true ∧ (f l).dense = true) ∧ ∀ l, has i.act l = true → (f l).flags = 0)
      (fun _ c i => !keySpaces.contains (c.attr i).space || notTeamLocal c) true := by
  refine ⟨?_, ?_, ?_⟩
  · intro probe hp
    let s := keyed 0 0 0
    let k := (kop s 0).slot
    let ps := (kop s 0).src
    let x := k.elems (ps.map (s.placeByte 1))
    refine ⟨s, 0, 1, k, ps, (k.buckets probe x).map fun b => (match s.bucket 0 1 k 0 b.1 b.2 with
      | .ok r => r
      | _ => default), by simp [x], fun j l g r hj hr => ?_, writes_spec (by decide +kernel)⟩
    have h : (k.buckets probe x).all (fun b => passed (s.bucket 0 1 k 0 b.1 b.2)) = true := by
      simp only [List.mem_cons, List.not_mem_nil, or_false] at hp
      rcases hp with rfl | rfl
      · decide +kernel
      · decide +kernel
    have h2 := List.all_eq_true.mp h (l, g) (List.mem_of_getElem? hj)
    rw [List.getElem?_map, hj] at hr
    injection hr with hr
    rw [← hr]
    dsimp only at h2 ⊢
    unfold passed at h2
    split at h2
    · rename_i a ha
      rw [ha]
    · cases h2
  · exact canWith (s := gathers 0) (fun i c o => findsB (gathers 0) i c o fun f => !f.dense)
      (fun _ _ _ h => by
        obtain ⟨k, f, h1, h2⟩ := findsB_spec h
        exact ⟨k, f, h1, fun l hl => by simpa using h2 l hl⟩) (by decide +kernel)
  · exact canTrap (s := gathers 1) (fun i c o => i.act != 0 && findsB (gathers 1) i c o fun f => f.dense && f.flags == 0)
      (fun i _ _ h => by
        rw [Bool.and_eq_true, bne_iff_ne] at h
        obtain ⟨k, f, h1, h2⟩ := findsB_spec h.2
        simp only [Bool.and_eq_true, beq_iff_eq] at h2
        exact ⟨k, f, i.act, h1, h.1, fun l => ⟨fun hl => ⟨hl, (h2 l hl).1⟩, fun hl => hl.1⟩, fun l hl => (h2 l hl).2⟩) (by decide +kernel)

/-! ## Witnesses: LAUNCH, records and bins -/

/-- A launch record of one team of eight threads. -/
def recBytes : List Byte := leBytes 8 codeVa ++ leBytes 4 1 ++ leBytes 2 1 ++ leBytes 2 1 ++ leBytes 2 8 ++ leBytes 2 1 ++ leBytes 2 1 ++
  [8, 16] ++ List.replicate 40 0

/-- The record at the addresses of lanes 0 and 4, which alone are in ACTIVE. -/
def launchSt (f : Crew → Crew := id) : State :=
  let s := st f fun i => { i with act := 0x11 }
  { s with mem := { s.mem with cells := s.mem.cells ++ (place codePa (recBytes ++ recBytes)).filter (·.2 != 0) } }

def launchB (s : State) (p : Issue → Crew → Team → Bool) : Bool := readyB s ⟨none, [useA (r 0) 2]⟩ fine true false false allRead fun i c =>
  (i.act != 0 && (s.team? 1).any fun tm => decide (tm.audit.replay = none ∧ (lanesOf i.act).length ≤ 4 ∧
    tm.launchQ.length + (lanesOf i.act).length ≤ 4) && ((lanes64 fun n => !has i.act n || ((c.teamOf n == 1 && (c.lane n).isSome) &&
      blockB s c n 64 2 ((i.opn c ⟨none, [useA (r 0) 2]⟩).fa n).toNat fun b => b == recBytes)) && p i c tm))

/-- All that the statement's clauses share. -/
def LaunchReady (s : State) (i : Issue) (c : Crew) (tm : Team) : Prop :=
  Ready s i c ⟨none, [useA (r 0) 2]⟩ fine true ∧ i.act ≠ 0 ∧ (∀ n, has i.act n = true → c.teamOf n = 1 ∧ (c.lane n).isSome = true) ∧
  tm.uid = 1 ∧ s.team? 1 = some tm ∧ tm.audit.replay = none ∧ (lanesOf i.act).length ≤ 4 ∧ tm.launchQ.length + (lanesOf i.act).length ≤ 4 ∧
  ∀ n, has i.act n = true → Block s c n 64 2 ((i.opn c ⟨none, [useA (r 0) 2]⟩).fa n).toNat recBytes ∧ recChk recBytes = .ok ()

theorem launchB_spec {s p} (h : launchB s p = true) : ∃ i c tm, LaunchReady s i c tm ∧ p i c tm = true := by
  obtain ⟨i, c, h, hp⟩ := ready_of h
  simp only [Bool.and_eq_true, bne_iff_ne] at hp
  obtain ⟨h2, hp⟩ := hp
  obtain ⟨tm, ht, hp⟩ := any_some hp
  simp only [Bool.and_eq_true, decide_eq_true_iff] at hp
  obtain ⟨⟨h3, h4, h5⟩, h6, h7⟩ := hp
  refine ⟨i, c, tm, ⟨h, h2, all_lanes h6 fun n hn => ?_, by simpa using List.find?_some ht, ht, h3, h4, h5,
    all_lanes h6 fun n hn => ?_⟩, h7⟩
  · simp only [Bool.and_eq_true, beq_iff_eq] at hn
    exact hn.1
  · rw [Bool.and_eq_true] at hn
    obtain ⟨b, hb, h8⟩ := blockB_spec hn.2
    rw [beq_iff_eq] at h8
    exact ⟨h8 ▸ hb, passed_unit (by decide +kernel)⟩

theorem witness_Launches :
    (∃ s i c tm, LaunchReady s i c tm ∧ c.pipe.stage = 0 ∧ Released s c .package ∧ Clean s tm) ∧
    (∃ s i c tm, LaunchReady s i c tm ∧ c.pipe.stage = 0 ∧ Released s c .package ∧ tm.buf ≠ [] ∧ (∀ k ∈ s.eng.commits, k.team ≠ 1) ∧
      ∃ g cx, s.grid? tm.grid = some g ∧ s.ctx? g.ctx = some cx) ∧
    (∃ s i c tm, LaunchReady s i c tm ∧ c.pipe.stage = 1 ∧ c.pipe.desc = packRecs ((lanesOf i.act).map fun n => (n, recBytes)) ∧
      ∀ k ∈ s.eng.commits, k.crew ≠ some c.id) ∧ CanIdle ⟨none, [useA (r 0) 2]⟩ fine true := by
  refine ⟨?_, ?_, ?_, canIdle (s := st id idle) (by decide +kernel)⟩
  · obtain ⟨i, c, tm, h, hp⟩ := launchB_spec (s := launchSt) (p := fun _ c tm => (decide (c.pipe.stage = 0) && idleB launchSt c) && tm.buf.isEmpty)
      (by decide +kernel)
    simp only [Bool.and_eq_true, decide_eq_true_iff, List.isEmpty_iff] at hp
    obtain ⟨⟨h1, h2⟩, h3⟩ := hp
    have h4 := h2
    simp only [idleB, Bool.and_eq_true, List.isEmpty_iff] at h4
    exact ⟨_, i, c, tm, h, h1, released_of h2, by rw [h.2.2.2.1]; exact h.2.2.2.2.1, h3, h.2.2.2.2.2.1, by simp [h4.2.1]⟩
  · obtain ⟨i, c, tm, h, hp⟩ := launchB_spec (s := holding launchSt) (p := fun _ c tm => (decide (c.pipe.stage = 0) && idleB (holding launchSt) c) &&
      (!tm.buf.isEmpty && ((holding launchSt).grid? tm.grid).any fun g => ((holding launchSt).ctx? g.ctx).isSome)) (by decide +kernel)
    simp only [Bool.and_eq_true, decide_eq_true_iff] at hp
    obtain ⟨⟨h1, h2⟩, h3, h5⟩ := hp
    obtain ⟨g, hg, h5⟩ := any_some h5
    obtain ⟨cx, hx⟩ := Option.isSome_iff_exists.mp h5
    have h4 := h2
    simp only [idleB, Bool.and_eq_true, List.isEmpty_iff] at h4
    exact ⟨_, i, c, tm, h, h1, released_of h2, by simpa using h3, by simp [h4.2.1], g, cx, hg, hx⟩
  · let s := launchSt fun c => { c with pipe := { c.pipe with stage := 1, desc := packRecs [(0, recBytes), (4, recBytes)] } }
    obtain ⟨i, c, tm, h, hp⟩ := launchB_spec (s := s) (p := fun i c _ => decide (c.pipe.stage = 1 ∧
      c.pipe.desc = packRecs ((lanesOf i.act).map fun n => (n, recBytes))) && s.eng.commits.isEmpty) (by decide +kernel)
    rw [Bool.and_eq_true, decide_eq_true_iff, List.isEmpty_iff] at hp
    exact ⟨s, i, c, tm, h, hp.1.1, hp.1.2, by simp [hp.2]⟩

/-- An ending with the present registers. -/
def ending (exit : Bool) (fwd : Option FwdTarget := none) : Ending := ⟨codeVa + 4, 0, none, .none, false, fwd, exit, none⟩

/-- Lane 3 has ended. -/
def endedSt (exit : Bool) (fwd : Option FwdTarget) : State :=
  let f (n : Nat) (l : Option Lane) : Option Lane := l.map fun l => if n = 3 then { l with ending := some (ending exit fwd) } else l
  let s := st fun c => { c with lanes := c.lanes.mapIdx f }
  { s with cur := none }

/-- A record of thread `n` of the loader's team, ready, with one live register. -/
def rec_ (n : Nat) : Rec :=
  let c := crewOf st
  let l := (c.lane n).getD default
  let r := st.recOfLane c n l (ending false)
  { r with live := [(3, 7)], bin := { r.bin with ready := true, since := n, aged := true } }

/-- No crew; the records of the eight threads wait. -/
def recSt (f : Rec → Rec := id) : State := { st with cur := none, crews := [], recs := (List.range 8).map fun n => f (rec_ n) }

/-- A record store that is nearly full. -/
def fullSt : State := { withDesc st fun d => { d with bhllc := 1 } with
  recs := (List.range 240).map fun n => { rec_ n with idx := n, live := List.replicate 240 (0, 0) } }

theorem witness_SegmentRecords :
    (∃ (s : State) (k : Nat) (c : Crew) (m : LaneMask) (mask : BitVec 8), s.crew? k = some c ∧ c.pipe.park = some (m, mask)) ∧
    (∀ p ∈ [(true, none), (false, none), (false, some (FwdTarget.core 3)), (false, some (.cluster 2)), (false, some (.die 1))],
      ∃ (s : State) (u idx : Nat) (c : Crew) (n : Nat) (l : Lane) (e : Ending), s.endedLane u idx = some (c, n, l, e) ∧
      s.crew? c.id = some c ∧ c.cox = none ∧ l.team = u ∧ l.idx = idx ∧ s.mayWrite c n l e = true ∧ (∀ k, (s.core k).vac = none) ∧
      e.exit = p.1 ∧ e.fwd = p.2 ∧ e.departs = false ∧ s.rec? u idx = none) ∧
    (∃ (s : State) (cl : Nat) (r : Rec) (cx : Ctx), s.storeHigh cl = true ∧ s.spills cl = some r ∧ s.ctx? r.ctx = some cx ∧
      ((s.recs.filter fun q => q.ctx == r.ctx && (q.bin.level == 2 || (q.team == r.team && q.idx == r.idx))).map
        Rec.bytes).sum ≤ cx.d.bhllc * 2 ^ 20) ∧
    ∃ (s : State) (k : Nat) (c : Crew), s.crew? k = some c ∧ s.mayChange c = true := by
  refine ⟨?_, ?_, ?_, ?_⟩
  · let s := st fun c => { c with pipe := { c.pipe with park := some (0xF7, 1) } }
    obtain ⟨c, hc, h⟩ := any_some (x := s.crew? 2) (p := fun c => decide (c.pipe.park = some (0xF7, 1))) (by decide +kernel)
    exact ⟨s, 2, c, _, _, hc, of_decide_eq_true h⟩
  · have key (exit : Bool) (fwd : Option FwdTarget) (h : ((endedSt exit fwd).endedLane 1 3).any (fun x => ((endedSt exit fwd).crew? x.1.id).any (fun d =>
        (endedSt exit fwd).mayWrite x.1 x.2.1 x.2.2.1 x.2.2.2 && (decide (x.1.cox = none ∧ x.2.2.1.team = 1 ∧ x.2.2.1.idx = 3 ∧ x.2.2.2.exit = exit ∧
          x.2.2.2.fwd = fwd ∧ x.2.2.2.departs = false) && ((endedSt exit fwd).chip.cores.all (fun (k : Core) => k.vac.isNone) && ((endedSt exit fwd).rec? 1 3).isNone))) &&
          decide ((endedSt exit fwd).crews.length = 1 ∧ x.1.id = 2)) = true) :
        ∃ (s : State) (u idx : Nat) (c : Crew) (n : Nat) (l : Lane) (e : Ending), s.endedLane u idx = some (c, n, l, e) ∧
      s.crew? c.id = some c ∧ c.cox = none ∧ l.team = u ∧ l.idx = idx ∧ s.mayWrite c n l e = true ∧ (∀ k, (s.core k).vac = none) ∧
      e.exit = exit ∧ e.fwd = fwd ∧ e.departs = false ∧ s.rec? u idx = none := by
      obtain ⟨⟨c, n, l, e⟩, hx, h⟩ := any_some h
      simp only [Bool.and_eq_true, decide_eq_true_iff] at h
      obtain ⟨h, h1, h2⟩ := h
      obtain ⟨d, hd, h⟩ := any_some h
      simp only [Bool.and_eq_true, decide_eq_true_iff, Option.isNone_iff_eq_none, List.all_eq_true] at h
      obtain ⟨h3, ⟨h4, h5, h6, h7, h8, h8'⟩, h9, h10⟩ := h
      have hdc : d = c := by
        obtain ⟨x, hx1⟩ := List.length_eq_one_iff.mp h1
        have hm := List.mem_of_find?_eq_some hd
        obtain ⟨a, ha, hb⟩ := List.exists_of_findSome?_eq_some hx
        rw [hx1, List.mem_singleton] at hm ha
        rw [if_neg (show ¬ 1024 ≤ 3 by decide)] at hb
        split at hb
        · cases hb
        · obtain ⟨m, -, hb⟩ := List.exists_of_findSome?_eq_some hb
          rw [Option.bind_eq_some_iff] at hb
          obtain ⟨l', -, hb⟩ := hb
          split at hb
          · cases hb
          · rw [Option.map_eq_some_iff] at hb
            obtain ⟨e', -, hb⟩ := hb
            rw [hm, ← ha]
            exact (Prod.mk.inj hb).1
      refine ⟨_, 1, 3, c, n, l, e, hx, hdc ▸ hd, h4, h5, h6, h3, fun k => ?_, h7, h8, h8', h10⟩
      rw [State.core]
      cases hf : List.find? (fun (c : Core) => c.num == k) (endedSt exit fwd).chip.cores with
      | none => rfl
      | some x => exact h9 x (List.mem_of_find?_eq_some hf)
    intro p he
    simp only [List.mem_cons, List.not_mem_nil, or_false] at he
    rcases he with rfl | rfl | rfl | rfl | rfl
    · exact key true none (by decide +kernel)
    · exact key false none (by decide +kernel)
    · exact key false (some (.core 3)) (by decide +kernel)
    · exact key false (some (.cluster 2)) (by decide +kernel)
    · exact key false (some (.die 1)) (by decide +kernel)
  · obtain ⟨r, hr, h⟩ := any_some (x := fullSt.spills 0) (p := fun r => (fullSt.ctx? r.ctx).any fun cx =>
      decide (((fullSt.recs.filter fun q => q.ctx == r.ctx && (q.bin.level == 2 || (q.team == r.team && q.idx == r.idx))).map
        Rec.bytes).sum ≤ cx.d.bhllc * 2 ^ 20)) (by decide +kernel)
    obtain ⟨cx, hc, h⟩ := any_some h
    exact ⟨fullSt, 0, r, cx, by decide +kernel, hr, hc, of_decide_eq_true h⟩
  · obtain ⟨c, hc, h⟩ := any_some (x := st.crew? 2) (p := fun c => st.mayChange c) (by decide +kernel)
    exact ⟨st, 2, c, hc, h⟩

/-- The team is gathering for a core: it holds its place, or has been vacated. -/
def moveSt (core : Nat) : State :=
  withTeam { recSt with crews := [] } fun t => { t with fwdTo := some (.core core) }

/-- The team holds nothing and no rows, so that its records may go. -/
def plainTeam : State := withTeam recSt fun t => { t with res := { t.res with ntiles := 0, ssize := 0, nq := 0, rows := 0 } }

/-- What the two drains' clauses share. -/
def DrainMeets (s : State) (r : Rec) (core : Nat) (cx : Ctx) (g : Grid) (s1 : State) (rs0 : List Rec) : Prop :=
  s.drains r = true ∧ s.binFirst r core = true ∧ s.taking r core = some (s1, rs0) ∧ s.ctx? r.ctx = some cx ∧ s.grid? r.grid = some g

def drainB (s : State) (r : Rec) (core : Nat) (p : Ctx → Grid → State → List Rec → Bool) : Bool :=
  s.drains r && (s.binFirst r core && (s.taking r core).any fun x => (s.ctx? r.ctx).any fun cx => (s.grid? r.grid).any fun g => p cx g x.1 x.2)

theorem drainB_spec {s r core p} (h : drainB s r core p = true) :
    ∃ cx g s1 rs0, DrainMeets s r core cx g s1 rs0 ∧ p cx g s1 rs0 = true := by
  simp only [drainB, Bool.and_eq_true] at h
  obtain ⟨h1, h2, h⟩ := h
  obtain ⟨⟨s1, rs0⟩, ht, h⟩ := any_some h
  obtain ⟨cx, hx, h⟩ := any_some h
  obtain ⟨g, hg, h⟩ := any_some h
  exact ⟨cx, g, s1, rs0, ⟨h1, h2, ht, hx, hg⟩, h⟩

/-- Threads 0 to 3 wait at one address and 4 to 7, ready later, at another. -/
def twoBins : State := recSt fun r => if r.idx < 4 then { r with resume := codeVa + 8 } else r

/-- A bin drains; one has a record that is not at level 1; one has an earlier one before it. A bin is forwarded; a team moves,
and stays; a record comes back. -/
theorem witness_BinDrains :
    (∃ (s : State) (u idx core : Nat) (r : Rec) (cx : Ctx) (g : Grid) (s1 : State) (rs0 rs : List Rec), s.rec? u idx = some r ∧
      DrainMeets s r core cx g s1 rs0 ∧ rs = sortBy s1.byThread rs0 ∧ r.cut = none ∧ (∀ q ∈ rs0, q.bin.level = 1 ∧ q.cut = none) ∧
      s.poisonedImage rs0 = none ∧ (∀ k ∈ s1.crews, k.id < s1.clock.nextId) ∧
      ∀ c : Crew, c.core = core → c.regs.length = ((rs.flatMap fun q => q.live.map (·.1)).eraseDups).length → c.grid = r.grid →
         c.width = r.width → c.budget = g.budgetOf r.idx → c.cox = none → c.id = s1.clock.nextId → c.regs.length ≤ s1.poolFree c) ∧
    (∃ (s : State) (u idx core : Nat) (r : Rec) (cx : Ctx) (g : Grid) (s1 : State) (rs0 : List Rec) (q : Rec), s.rec? u idx = some r ∧
      DrainMeets s r core cx g s1 rs0 ∧ rs0.find? (·.bin.level != 1) = some q) ∧
    (∃ (s : State) (u idx core : Nat) (r : Rec), s.rec? u idx = some r ∧ s.binFirst r core = false) ∧
    (∃ (s : State) (u idx core : Nat) (r : Rec) (cx : Ctx), s.rec? u idx = some r ∧ s.ctx? r.ctx = some cx ∧ s.mayForward r = true ∧
      s.takesBin r core = true ∧ s.storeTakes (s.bin r) (clusterOf core) = true ∧
      ∀ k ∈ cx.d.cores, s.takesBin r k = true → cx.d.away r.bin.cluster core ≤ cx.d.away r.bin.cluster k) ∧
    (∃ (s : State) (tm : Team) (g : Grid), s.team? tm.uid = some tm ∧ tm.fwdTo = some (.core 0) ∧ s.gathered tm = true ∧
      s.grid? tm.grid = some g ∧ tm.core ∈ (FwdTarget.core 0).cores ∧ tm.holds = true ∧ s.storeTakes (s.recs.filter (·.team == tm.uid)) (clusterOf tm.core) = true ∧
      s.recs ≠ []) ∧
    (∃ (s : State) (tm : Team) (g : Grid) (x : Fit), s.team? tm.uid = some tm ∧ tm.fwdTo = some (.core 9) ∧ s.gathered tm = true ∧
      s.grid? tm.grid = some g ∧ tm.core ∉ (FwdTarget.core 9).cores ∧ s.chooseCore g ((FwdTarget.core 9).cores.filter fun k => s.storeTakes (s.recs.filter (·.team == tm.uid)) (clusterOf k)) = some x ∧
      x.claim = [] ∧ tm.mode ≠ .saved) ∧
    ∃ (s : State) (port : Nat) (r : Rec) (g : Grid) (tm : Team), s.rec? r.team r.idx = some r ∧ r.bin.hold = some (.peer port) ∧
      s.grid? r.grid = some g ∧ s.team? r.team = some tm ∧ tm.fwdTo = none := by
  refine ⟨?_, ?_, ?_, ?_, ?_, ?_, ?_⟩
  · let s : State := recSt
    obtain ⟨r, hr, h⟩ := any_some (x := s.rec? 1 5) (p := fun r => decide (r.grid = 0 ∧ r.width = 8 ∧ r.cut = none) && drainB s r 0 fun _ _ s1 rs0 =>
      decide (s1 = s) && (rs0.all (fun q => decide (q.bin.level = 1 ∧ q.cut = none)) && (decide (s.poisonedImage rs0 = none) && (s1.crews.isEmpty &&
        (((sortBy s1.byThread rs0).flatMap fun q => q.live.map (·.1)).eraseDups).length == 1)))) (by decide +kernel)
    simp only [Bool.and_eq_true, decide_eq_true_iff] at h
    obtain ⟨⟨h0, h1, h2⟩, h⟩ := h
    obtain ⟨cx, g, s1, rs0, hd, h⟩ := drainB_spec h
    simp only [Bool.and_eq_true, decide_eq_true_iff, beq_iff_eq, List.all_eq_true, List.isEmpty_iff] at h
    obtain ⟨rfl, h4, h5, h6, h7⟩ := h
    refine ⟨s, 1, 5, 0, r, cx, g, s, rs0, _, hr, hd, rfl, h2, h4, h5, by simp [h6], fun c hc hl hg hw _ hx _ => ?_⟩
    rw [hl, h7, State.poolFree, hx, hg, hc, hw, h0, h1, if_neg (show ¬ (none : Option Nat).isSome = true by decide)]
    decide +kernel
  · let s : State := recSt fun r => if r.idx = 2 then { r with bin := { r.bin with level := 2 } } else r
    obtain ⟨r, hr, h⟩ := any_some (x := s.rec? 1 5) (p := fun r => drainB s r 0 fun _ _ _ rs0 => (rs0.find? (·.bin.level != 1)).isSome) (by decide +kernel)
    obtain ⟨cx, g, s1, rs0, hd, h⟩ := drainB_spec h
    obtain ⟨q, hq⟩ := Option.isSome_iff_exists.mp h
    exact ⟨s, 1, 5, 0, r, cx, g, s1, rs0, q, hr, hd, hq⟩
  · obtain ⟨r, hr, h⟩ := any_some (x := twoBins.rec? 1 5) (p := fun r => !twoBins.binFirst r 0) (by decide +kernel)
    exact ⟨twoBins, 1, 5, 0, r, hr, by simpa using h⟩
  · let s : State := { plainTeam with sched := { plainTeam.sched with grants := [(0, 8, 32), (0, 16, 32)] } }
    obtain ⟨r, hr, h⟩ := any_some (x := s.rec? 1 5) (p := fun r => (s.ctx? r.ctx).any fun cx => s.mayForward r && s.takesBin r 8 && s.storeTakes (s.bin r) (clusterOf 8) &&
      cx.d.cores.all fun k => !s.takesBin r k || decide (cx.d.away r.bin.cluster 8 ≤ cx.d.away r.bin.cluster k)) (by decide +kernel)
    obtain ⟨cx, hcx, h⟩ := any_some h
    simp only [Bool.and_eq_true, List.all_eq_true] at h
    exact ⟨s, 1, 5, 8, r, cx, hr, hcx, h.1.1.1, h.1.1.2, h.1.2, fun k hk ht => by simpa [ht] using h.2 k hk⟩
  · obtain ⟨tm, ht, h⟩ := any_some (x := (moveSt 0).team? 1) (p := fun tm => decide (tm.uid = 1 ∧ tm.fwdTo = some (.core 0) ∧ tm.core = 0 ∧ tm.holds = true) &&
      (moveSt 0).gathered tm && ((moveSt 0).grid? tm.grid).isSome && (moveSt 0).storeTakes ((moveSt 0).recs.filter (·.team == tm.uid)) (clusterOf tm.core)) (by decide +kernel)
    simp only [Bool.and_eq_true, decide_eq_true_iff] at h
    obtain ⟨⟨⟨⟨h1, h2, h3, h4⟩, h5⟩, h6⟩, h7⟩ := h
    obtain ⟨g, hg⟩ := Option.isSome_iff_exists.mp h6
    exact ⟨moveSt 0, tm, g, by rw [h1]; exact ht, h2, h5, hg, by rw [h3]; exact List.mem_singleton.mpr rfl, h4, h7, List.cons_ne_nil _ _⟩
  · obtain ⟨tm, ht, h⟩ := any_some (x := (moveSt 9).team? 1) (p := fun tm => decide (tm.uid = 1 ∧ tm.fwdTo = some (.core 9) ∧ tm.core = 0 ∧ tm.mode ≠ .saved) &&
      (moveSt 9).gathered tm && ((moveSt 9).grid? tm.grid).any fun g => ((moveSt 9).chooseCore g ((FwdTarget.core 9).cores.filter fun k => (moveSt 9).storeTakes ((moveSt 9).recs.filter (·.team == tm.uid)) (clusterOf k))).any fun x => x.claim.isEmpty) (by decide +kernel)
    simp only [Bool.and_eq_true, decide_eq_true_iff] at h
    obtain ⟨⟨⟨h1, h2, h3, h4⟩, h5⟩, h6⟩ := h
    obtain ⟨g, hg, h6⟩ := any_some h6
    obtain ⟨x, hx, h6⟩ := any_some h6
    exact ⟨moveSt 9, tm, g, x, by rw [h1]; exact ht, h2, h5, hg, by rw [h3]; decide, hx, List.isEmpty_iff.mp h6, h4⟩
  · let s : State := recSt fun r => { r with bin := { r.bin with hold := some (.peer 2) } }
    obtain ⟨r, hr, h⟩ := any_some (x := s.rec? 1 5) (p := fun r => decide (r.team = 1 ∧ r.idx = 5 ∧ r.bin.hold = some (.peer 2)) && (s.grid? r.grid).isSome &&
      (s.team? r.team).any fun tm => tm.fwdTo.isNone) (by decide +kernel)
    simp only [Bool.and_eq_true, decide_eq_true_iff] at h
    obtain ⟨⟨⟨h1, h2, h3⟩, h4⟩, h5⟩ := h
    obtain ⟨g, hg⟩ := Option.isSome_iff_exists.mp h4
    obtain ⟨tm, ht, h5⟩ := any_some h5
    exact ⟨s, 2, r, g, tm, by rw [h1, h2]; exact hr, h3, hg, ht, by simpa using h5⟩

/-! ## Witnesses: grids and teams -/

/-- A launch record of one team of eight threads, of the code at `e`. -/
def recAt (e : Nat) : List Byte := leBytes 8 e ++ leBytes 4 1 ++ leBytes 2 1 ++ leBytes 2 1 ++ leBytes 2 8 ++ leBytes 2 1 ++ leBytes 2 1 ++
  [8, 16] ++ List.replicate 40 0

def pend : PendLaunch := ⟨recAt (codeVa + 0x40), codeVa + 0x100, none, []⟩

/-- A kernel header of one role of eight lanes and 256 registers; a launch waits in the team's queue, and one in slot 3. -/
def launchedSt (ok : Bool) : State :=
  let s := withTeam (page st (if ok then [(5, 1, 1), (0x10, 1, 8), (0x11, 1, 16), (0x12, 1, 1)] else [])) fun t => { t with launchQ := [pend] }
  { s with host := { s.host with slots := [{ Slot.fresh 3 with launch := some pend }] } }

/-- The grid of a launch entry of context `c`. -/
def pendGrid (s : State) (c : Ctx) (e : PendLaunch) (up slot : Option Nat) : Grid :=
  gridOf s.clock.nextId c.id e.addr (launchRecOf e.bytes) (min (launchRecOf e.bytes).prio c.d.maxprio) up slot

/-- Does an entry pass, or is it rejected? -/
def decided (ok : Bool) (a : Admit) : Bool := match a with
  | .ok .. => ok
  | .reject _ => !ok
  | .wait .. => false

def Decided (ok : Bool) (a : Admit) : Prop :=
  if ok then ∃ roles idem cox, a = .ok roles idem cox else ∃ r, a = .reject r

theorem decided_spec {ok a} (h : decided ok a = true) : Decided ok a := by
  cases a <;> cases ok <;> simp_all [decided, Decided]

/-- The team has finished, with a line left to commit or not; its grid's record is in the page. -/
def doneSt (held : Bool) : State :=
  let s := { st with cur := none, crews := [] }
  if held then holding s else s

/-- The grid, all of whose teams have retired; with a counter or not. -/
def retiredSt (ctr : Nat) (fin : Option EndStatus) : State :=
  { st with cur := none, crews := [], sched := { (st).sched with teams := [], grids := (st).sched.grids.map fun g =>
    { g with addr := codeVa, retired := g.stop, next := g.stop, fin := fin, lr := { g.lr with ctr := ctr } } } }

theorem witness_GridLives :
    (∀ ok ∈ [true, false], ∃ (s : State) (tm : Team) (e : PendLaunch) (es : List PendLaunch) (g0 : Grid) (c : Ctx),
      s.team? tm.uid = some tm ∧ tm.launchQ = e :: es ∧ e.grid = none ∧ s.grid? tm.grid = some g0 ∧ s.ctx? g0.ctx = some c ∧
      Decided ok (s.admits c (pendGrid s c e (some tm.uid) none) e.unres)) ∧
    (∀ ok ∈ [true, false], ∃ (s : State) (q : Slot) (e : PendLaunch) (c : Ctx), s.hostLaunches.head? = some (q, e) ∧ s.slot q.num = q ∧
      s.ctx? q.ctx = some c ∧ Decided ok (s.admits c (pendGrid s c e none (some q.num)) e.unres)) ∧
    (∀ held ∈ [true, false], ∃ (s : State) (tm : Team) (g : Grid), s.team? tm.uid = some tm ∧ s.grid? tm.grid = some g ∧ g.shadow = none ∧
      s.allDone tm = true ∧ (∀ k ∈ s.eng.commits, k.team ≠ tm.uid) ∧ (s.ctx? g.ctx).isSome = true ∧ tm.buf.isEmpty = !held) ∧
    ∀ ctr ∈ [0, codeVa + 0x80], ∀ fin ∈ [none, some (⟨2, 0, 0, 5⟩ : EndStatus)], ∃ (s : State) (g : Grid) (f : EndStatus)
      (st : Option (List Nat)) (c : Option (List Nat)), s.grid? g.id = some g ∧ g.fin = fin ∧
      ((g.fin = some f ∧ f.kind ≠ 4) ∨ (g.fin = none ∧ g.next = g.stop ∧ g.retired = g.stop ∧ f = ⟨0, 0, 0, 0⟩)) ∧
      g.shadow = none ∧ (∀ k ∈ s.eng.commits, k.grid ≠ g.id) ∧ (∀ r ∈ s.sched.replays, r.grid ≠ g.id) ∧ g.lr.ctr = ctr ∧
      s.endWord g (g.addr + 0x3C) = .inr st ∧ (if g.lr.ctr = 0 then c = none else s.endWord g g.lr.ctr = .inr c) := by
  refine ⟨?_, ?_, ?_, ?_⟩
  · have key (ok : Bool) (h : ((launchedSt ok).team? 1).any (fun tm => decide (tm.uid = 1 ∧ tm.launchQ = [pend]) && ((launchedSt ok).grid? tm.grid).any fun g =>
        ((launchedSt ok).ctx? g.ctx).any fun c => decided ok ((launchedSt ok).admits c (pendGrid (launchedSt ok) c pend (some tm.uid) none) [])) = true) :
        ∃ (s : State) (tm : Team) (e : PendLaunch) (es : List PendLaunch) (g0 : Grid) (c : Ctx),
          s.team? tm.uid = some tm ∧ tm.launchQ = e :: es ∧ e.grid = none ∧ s.grid? tm.grid = some g0 ∧ s.ctx? g0.ctx = some c ∧
          Decided ok (s.admits c (pendGrid s c e (some tm.uid) none) e.unres) := by
      obtain ⟨tm, ht, h⟩ := any_some h
      rw [Bool.and_eq_true, decide_eq_true_iff] at h
      obtain ⟨⟨h1, h2⟩, h⟩ := h
      obtain ⟨g, hg, h⟩ := any_some h
      obtain ⟨c, hc, h⟩ := any_some h
      exact ⟨_, tm, pend, [], g, c, by rw [h1]; exact ht, h2, rfl, hg, hc, decided_spec h⟩
    intro ok ho
    cases ok
    · exact key false (by decide +kernel)
    · exact key true (by decide +kernel)
  · have key (ok : Bool) (h : ((launchedSt ok).hostLaunches.head?).any (fun p => decide (p.1.num = 3 ∧ p.2 = pend ∧ (launchedSt ok).slot 3 = p.1) &&
        ((launchedSt ok).ctx? p.1.ctx).any fun c => decided ok ((launchedSt ok).admits c (pendGrid (launchedSt ok) c pend none (some 3)) [])) = true) :
        ∃ (s : State) (q : Slot) (e : PendLaunch) (c : Ctx), s.hostLaunches.head? = some (q, e) ∧ s.slot q.num = q ∧
          s.ctx? q.ctx = some c ∧ Decided ok (s.admits c (pendGrid s c e none (some q.num)) e.unres) := by
      obtain ⟨⟨q, e⟩, hp, h⟩ := any_some h
      rw [Bool.and_eq_true, decide_eq_true_iff] at h
      obtain ⟨⟨h1, h2, h3⟩, h⟩ := h
      obtain ⟨c, hc, h⟩ := any_some h
      dsimp only at h1 h2 h3
      refine ⟨_, q, e, c, hp, by rw [h1]; exact h3, hc, ?_⟩
      rw [h2, h1]
      exact decided_spec h
    intro ok ho
    cases ok
    · exact key false (by decide +kernel)
    · exact key true (by decide +kernel)
  · have key (held : Bool) (h : ((doneSt held).team? 1).any (fun tm => decide (tm.uid = 1) && ((doneSt held).grid? tm.grid).any fun g => g.shadow.isNone &&
        ((doneSt held).allDone tm && ((doneSt held).eng.commits.isEmpty && (((doneSt held).ctx? g.ctx).isSome && tm.buf.isEmpty == !held)))) = true) :
        ∃ (s : State) (tm : Team) (g : Grid), s.team? tm.uid = some tm ∧ s.grid? tm.grid = some g ∧ g.shadow = none ∧
      s.allDone tm = true ∧ (∀ k ∈ s.eng.commits, k.team ≠ tm.uid) ∧ (s.ctx? g.ctx).isSome = true ∧ tm.buf.isEmpty = !held := by
      obtain ⟨tm, ht, h⟩ := any_some h
      rw [Bool.and_eq_true, decide_eq_true_iff] at h
      obtain ⟨h1, h⟩ := h
      obtain ⟨g, hg, h⟩ := any_some h
      simp only [Bool.and_eq_true, List.isEmpty_iff, Option.isNone_iff_eq_none, beq_iff_eq] at h
      obtain ⟨h2, h3, h4, h5, h6⟩ := h
      exact ⟨_, tm, g, by rw [h1]; exact ht, hg, h2, h3, by simp [h4], h5, h6⟩
    intro held _
    cases held
    · exact key false (by decide +kernel)
    · exact key true (by decide +kernel)
  · have key (ctr : Nat) (fin : Option EndStatus) (f : EndStatus) (h : ((retiredSt ctr fin).grid? 0).any (fun g => decide (g.id = 0 ∧ g.fin = fin ∧
        ((g.fin = some f ∧ f.kind ≠ 4) ∨ (g.fin = none ∧ g.next = g.stop ∧ g.retired = g.stop ∧ f = ⟨0, 0, 0, 0⟩)) ∧ g.shadow = none ∧ g.lr.ctr = ctr) &&
        ((retiredSt ctr fin).eng.commits.isEmpty && (retiredSt ctr fin).sched.replays.isEmpty) &&
        ((match (retiredSt ctr fin).endWord g (g.addr + 0x3C) with
          | .inr _ => true
          | _ => false) && (match (retiredSt ctr fin).endWord g g.lr.ctr with
          | .inr _ => true
          | _ => g.lr.ctr == 0))) = true) : ∃ (s : State) (g : Grid) (f : EndStatus)
      (st : Option (List Nat)) (c : Option (List Nat)), s.grid? g.id = some g ∧ g.fin = fin ∧
      ((g.fin = some f ∧ f.kind ≠ 4) ∨ (g.fin = none ∧ g.next = g.stop ∧ g.retired = g.stop ∧ f = ⟨0, 0, 0, 0⟩)) ∧
      g.shadow = none ∧ (∀ k ∈ s.eng.commits, k.grid ≠ g.id) ∧ (∀ r ∈ s.sched.replays, r.grid ≠ g.id) ∧ g.lr.ctr = ctr ∧
      s.endWord g (g.addr + 0x3C) = .inr st ∧ (if g.lr.ctr = 0 then c = none else s.endWord g g.lr.ctr = .inr c) := by
      obtain ⟨g, hg, h⟩ := any_some h
      simp only [Bool.and_eq_true, List.isEmpty_iff] at h
      obtain ⟨⟨h1, h2, h3⟩, h4, h5⟩ := h
      obtain ⟨h1, h6, h7, h8, h9⟩ := of_decide_eq_true h1
      split at h4
      · rename_i x hx
        have hc : ∃ c, (if g.lr.ctr = 0 then c = none else (retiredSt ctr fin).endWord g g.lr.ctr = .inr c) := by
          by_cases hz : g.lr.ctr = 0
          · exact ⟨none, by simp [hz]⟩
          · split at h5
            · rename_i y hy
              exact ⟨y, by rw [if_neg hz]; exact hy⟩
            · rw [beq_iff_eq] at h5
              exact absurd h5 hz
        obtain ⟨c, hc⟩ := hc
        exact ⟨_, g, f, x, c, by rw [h1]; exact hg, h6, h7, h8, by simp [h2], by simp [h3], h9, hx, hc⟩
      · cases h4
    intro ctr hc fin hf
    simp only [List.mem_cons, List.not_mem_nil, or_false] at hc hf
    rcases hc with rfl | rfl <;> rcases hf with rfl | rfl
    · exact key _ _ ⟨0, 0, 0, 0⟩ (by decide +kernel)
    · exact key _ _ ⟨2, 0, 0, 5⟩ (by decide +kernel)
    · exact key _ _ ⟨0, 0, 0, 0⟩ (by decide +kernel)
    · exact key _ _ ⟨2, 0, 0, 5⟩ (by decide +kernel)

/-- The grid waits for its first placement. -/
def waitingSt : State := { st with cur := none, crews := [], sched := { (st).sched with teams := [], grids := (st).sched.grids.map fun g => { g with next := 0 } } }

/-- The team, after `k` rollbacks, rolled back now or not. -/
def rolledSt (mode : TeamMode) (restart : Bool) (k : Nat) : State :=
  withTeam { st with cur := none } fun t => { t with mode := mode, restart := restart, rollbacks := k }

/-- One fit with nothing claimed. -/
def oneFit (x : Option (Nat × List Fit)) : Bool := match x with
  | some (_, [f]) => f.claim.isEmpty
  | _ => false

theorem oneFit_spec {x} (h : oneFit x = true) : ∃ cl f, x = some (cl, [f]) ∧ f.claim = [] := by
  unfold oneFit at h
  split at h
  · exact ⟨_, _, rfl, List.isEmpty_iff.mp h⟩
  · cases h

theorem witness_TeamStarts :
    (∃ (s : State) (g : Grid) (c : Ctx) (cl : Nat) (f : Fit), s.placeOrder.head? = some g ∧ s.grid? g.id = some g ∧
      s.ctx? g.ctx = some c ∧ g.setOf g.next = none ∧ g.batch = 1 ∧ s.placeFor c.d g 1 = some (cl, [f]) ∧ f.claim = [] ∧
      0 < g.lr.width ∧ ∀ x ∈ s.sched.teams, x.uid < s.clock.nextId) ∧
    (∀ p ∈ [(true, 2), (true, 3), (false, 0)], ∃ (s : State) (tm : Team) (g : Grid), s.team? tm.uid = some tm ∧ s.grid? tm.grid = some g ∧
      g.setOf tm.index = none ∧ g.shadow = none ∧ tm.mode ≠ .rolled ∧ s.drainsTo [tm] = false ∧ tm.restart = p.1 ∧ tm.rollbacks = p.2 ∧
      g.fin = none ∧ tm.launchQ = []) ∧
    ∃ (s : State) (tm : Team) (g : Grid) (c : Ctx) (cl : Nat) (f : Fit), s.team? tm.uid = some tm ∧ s.grid? tm.grid = some g ∧
      g.setOf tm.index = none ∧ g.shadow = none ∧ s.ctx? g.ctx = some c ∧ c.suspended = false ∧ c.dying = false ∧
      (s.sched.teams.find? fun t => t.grid == g.id && t.index == tm.index && t.mode == .rolled) = some tm ∧ g.id = tm.grid ∧
      s.relaunchPlace c.d g 1 (clusterOf tm.core) = some (cl, [f]) ∧ f.claim = [] ∧ 0 < g.lr.width := by
  refine ⟨?_, ?_, ?_⟩
  · obtain ⟨g, hg, h⟩ := any_some (x := waitingSt.placeOrder.head?) (p := fun g => decide (g.setOf g.next = none ∧ g.batch = 1 ∧ 0 < g.lr.width ∧
      waitingSt.sched.teams = []) && (decide (waitingSt.grid? g.id = some g) && (waitingSt.ctx? g.ctx).any fun c => oneFit (waitingSt.placeFor c.d g 1)))
      (by decide +kernel)
    rw [Bool.and_eq_true, decide_eq_true_iff, Bool.and_eq_true, decide_eq_true_iff] at h
    obtain ⟨⟨h1, h2, h3, h4⟩, h5, h⟩ := h
    obtain ⟨c, hc, h⟩ := any_some h
    obtain ⟨cl, f, h6, h7⟩ := oneFit_spec h
    exact ⟨waitingSt, g, c, cl, f, hg, h5, hc, h1, h2, h6, h7, h3, by simp [h4]⟩
  · have key (p : Bool × Nat) (h : ((rolledSt .placed p.1 p.2).team? 1).any (fun tm => decide (tm.uid = 1 ∧ tm.mode ≠ .rolled ∧ tm.restart = p.1 ∧ tm.rollbacks = p.2 ∧
        tm.launchQ = [] ∧ (rolledSt .placed p.1 p.2).drainsTo [tm] = false) && ((rolledSt .placed p.1 p.2).grid? tm.grid).any fun g =>
          decide (g.setOf tm.index = none ∧ g.shadow = none ∧ g.fin = none)) = true) :
        ∃ (s : State) (tm : Team) (g : Grid), s.team? tm.uid = some tm ∧ s.grid? tm.grid = some g ∧
          g.setOf tm.index = none ∧ g.shadow = none ∧ tm.mode ≠ .rolled ∧ s.drainsTo [tm] = false ∧ tm.restart = p.1 ∧ tm.rollbacks = p.2 ∧
          g.fin = none ∧ tm.launchQ = [] := by
      obtain ⟨tm, ht, h⟩ := any_some h
      rw [Bool.and_eq_true, decide_eq_true_iff] at h
      obtain ⟨⟨h1, h2, h3, h4, h5, h6⟩, h⟩ := h
      obtain ⟨g, hg, h⟩ := any_some h
      obtain ⟨h7, h8, h9⟩ := of_decide_eq_true h
      exact ⟨_, tm, g, by rw [h1]; exact ht, hg, h7, h8, h2, h6, h3, h4, h9, h5⟩
    intro p hp
    simp only [List.mem_cons, List.not_mem_nil, or_false] at hp
    rcases hp with rfl | rfl | rfl
    · exact key _ (by decide +kernel)
    · exact key _ (by decide +kernel)
    · exact key _ (by decide +kernel)
  · let s := rolledSt .rolled true 1
    obtain ⟨tm, ht, h⟩ := any_some (x := s.team? 1) (p := fun tm => decide (tm.uid = 1) && ((s.grid? tm.grid).any fun (g : Grid) =>
      decide (g.setOf tm.index = none ∧ g.shadow = none ∧ g.id = tm.grid ∧ 0 < g.lr.width ∧
        (s.sched.teams.find? fun t => t.grid == g.id && t.index == tm.index && t.mode == .rolled) = some tm) &&
      (s.ctx? g.ctx).any fun (c : Ctx) => decide (c.suspended = false ∧ c.dying = false) && oneFit (s.relaunchPlace c.d g 1 (clusterOf tm.core)))) (by decide +kernel)
    rw [Bool.and_eq_true, decide_eq_true_iff] at h
    obtain ⟨h1, h⟩ := h
    obtain ⟨g, hg, h⟩ := any_some h
    rw [Bool.and_eq_true] at h
    obtain ⟨h2, h3, h4, h5, h6⟩ := of_decide_eq_true h.1
    obtain ⟨c, hc, h⟩ := any_some h.2
    rw [Bool.and_eq_true] at h
    obtain ⟨h7, h8⟩ := of_decide_eq_true h.1
    obtain ⟨cl, f, h9, h10⟩ := oneFit_spec h.2
    exact ⟨s, tm, g, c, cl, f, by rw [h1]; exact ht, hg, h2, h3, hc, h7, h8, h6, h4, h9, h10, h5⟩

/-! ## Witnesses: pre-emption -/

/-- The loader's crew alone on core 0, which is being vacated; lane 2 may be pre-empted only after a limit, or not. -/
def vacatingSt (passed pre : Bool) : State :=
  let s := st fun c => { c with lanes := c.lanes.mapIdx fun n l => l.map fun l => { l with preoff := pre && n == 2 } }
  { s with cur := none, chip := { s.chip with cores := [{ Core.fresh 0 with vac := some ⟨70, false, passed, false, none⟩ }] } }

/-- Core 0 holds no crew any more; a withdrawal waits for it, or nobody. -/
def emptiedSt (asked : Bool) : State :=
  let s := vacatingSt true false
  { s with crews := [], sched := { s.sched with requests := if asked then [⟨70, 15, .device, .cores [0], 0, 1, .withdraw⟩] else [] } }

theorem lane_all {c : Crew} {p : Nat → Lane → Bool} (h : (List.range c.lanes.length).all (fun n => (c.lane n).all (p n)) = true) {n : Nat} {l : Lane}
    (hl : c.lane n = some l) : p n l = true := by
  have hn : n < c.lanes.length := by
    rw [Crew.lane] at hl
    by_cases hn : n < c.lanes.length
    · exact hn
    · simp [List.getElem?_eq_none (Nat.le_of_not_lt hn)] at hl
  have := List.all_eq_true.mp h n (List.mem_range.mpr hn)
  simpa [hl] using this

theorem witness_Preemptions :
    (∃ s : State, (∀ q ∈ s.sched.requests, q.id ≠ s.clock.nextId) ∧ (s.core 0).vac = none) ∧
    (∃ s : State, (∀ q ∈ s.sched.requests, q.id ≠ s.clock.nextId) ∧ (∃ v, (s.core 0).vac = some v ∧ v.vacant = false) ∧
      ∃ v, (s.core 1).vac = some v ∧ v.vacant = true) ∧
    (∃ (s : State) (q : Request), s.sched.requests = [q] ∧ q.id = 70 ∧ q.cause = .software ∧
      ∀ k ∈ s.chip.cores, ∀ v, k.vac = some v → v.granted ≠ some 70) ∧
    (∀ p ∈ [(false, false), (false, true), (true, true)], ∃ (s : State) (core : Nat) (c : Crew) (g : Grid), s.crew? c.id = some c ∧
      s.crews.filter (·.core == core) = [c] ∧
      s.grid? c.grid = some g ∧ g.idem = [] ∧ c.depth = 0 ∧ c.cutReady = true ∧ s.cutFits c = true ∧
      (∀ n l m k, c.lane n = some l → c.lane m = some k → (l.team, l.idx) = (k.team, k.idx) → n = m) ∧
      (∀ n l, c.lane n = some l → s.rec? l.team l.idx = none ∧ ∃ tm, s.team? l.team = some tm ∧ tm.grid = c.grid) ∧
      (∀ o ∈ c.pipe.inflight, o.done = true) ∧ (s.core core).num = core ∧ ∃ v, (s.core core).vac = some v ∧ v.vacant = false ∧
      v.graceOver = p.1 ∧ ((∃ n l, has c.elig n = true ∧ c.lane n = some l ∧ l.preoff = true) ↔ p.2 = true) ∧
      c.pipe.cut.preoffOver = false ∧ ∀ q ∈ s.sched.requests, ∀ cl, q.cause ≠ .test cl) ∧
    (∃ (s : State) (c : Crew), s.crew? c.id = some c ∧ (s.core c.core).vac.any (·.graceOver) = true ∧
      ∀ d ∈ s.crews, d.core = c.core → d.cutReady = false) ∧
    ∀ asked ∈ [true, false], ∃ (s : State) (v : Vacate), (s.core 0).vac = some v ∧ v.vacant = false ∧ (s.core 0).num = 0 ∧
      (∀ c ∈ s.crews, c.core ≠ 0) ∧ s.sched.teams.Pairwise (fun a b => a.uid ≠ b.uid) ∧
      (if asked then ∃ q cs, s.sched.requests = [q] ∧ q.who = .device ∧ q.cause = .withdraw ∧ q.want = .cores cs ∧ 0 ∈ cs ∧ 0 < q.need ∧
        q.find = 0 ∧ s.chip.dieOn (dieOf 0) = true else s.sched.requests = []) := by
  refine ⟨⟨st, ?_⟩, ⟨{ st with chip := { (st).chip with cores := [{ Core.fresh 0 with vac := some ⟨70, false, false, false, none⟩ },
      { Core.fresh 1 with vac := some ⟨70, true, true, true, none⟩ }] } }, ?_, ⟨_, rfl, rfl⟩, ⟨_, rfl, rfl⟩⟩,
    ⟨{ st with sched := { (st).sched with requests := [⟨70, 3, .ctx 0, .cores [0], 0, 1, .software⟩] },
               chip := { (st).chip with cores := [{ Core.fresh 0 with vac := some ⟨70, false, false, false, none⟩ }] } }, _, rfl, rfl, rfl,
      fun k hk v hv => ?_⟩, ?_, ?_, ?_⟩
  · rw [show st.sched.requests = [] by decide +kernel]
    exact ⟨by simp, by decide +kernel⟩
  · dsimp only
    rw [show st.sched.requests = [] by decide +kernel]
    simp
  · rw [List.mem_singleton.mp hk] at hv
    cases hv
    simp
  · have key (passed pre : Bool) (h : ((vacatingSt passed pre).crews.filter (·.core == 0)).head?.any (fun c => decide (c.id = 2 ∧ c.depth = 0) && (c.cutReady && (vacatingSt passed pre).cutFits c) &&
        ((vacatingSt passed pre).crew? 2).isSome && decide ((vacatingSt passed pre).crews.length = 1) && c.pipe.inflight.isEmpty && !c.pipe.cut.preoffOver && 
        ((List.range c.lanes.length).all fun n => (c.lane n).all fun l => (l.idx == n && l.team == 1) && ((vacatingSt passed pre).rec? 1 n).isNone) &&
        (decide (pre = false) || (has c.elig 2 && (c.lane 2).isSome)) && ((List.range c.lanes.length).all fun n => (c.lane n).all fun l => l.preoff == (pre && n == 2)) && 
        (((vacatingSt passed pre).grid? c.grid).any fun g => g.idem.isEmpty && ((vacatingSt passed pre).team? 1).any fun tm => tm.grid == c.grid) &&
        (vacatingSt passed pre).sched.requests.isEmpty) = true) : ∃ (s : State) (core : Nat) (c : Crew) (g : Grid), s.crew? c.id = some c ∧
      s.crews.filter (·.core == core) = [c] ∧
      s.grid? c.grid = some g ∧ g.idem = [] ∧ c.depth = 0 ∧ c.cutReady = true ∧ s.cutFits c = true ∧
      (∀ n l m k, c.lane n = some l → c.lane m = some k → (l.team, l.idx) = (k.team, k.idx) → n = m) ∧
      (∀ n l, c.lane n = some l → s.rec? l.team l.idx = none ∧ ∃ tm, s.team? l.team = some tm ∧ tm.grid = c.grid) ∧
      (∀ o ∈ c.pipe.inflight, o.done = true) ∧ (s.core core).num = core ∧ ∃ v, (s.core core).vac = some v ∧ v.vacant = false ∧
      v.graceOver = passed ∧ ((∃ n l, has c.elig n = true ∧ c.lane n = some l ∧ l.preoff = true) ↔ pre = true) ∧
      c.pipe.cut.preoffOver = false ∧ ∀ q ∈ s.sched.requests, ∀ cl, q.cause ≠ .test cl := by
      obtain ⟨c, hc, h⟩ := any_some h
      simp only [Bool.and_eq_true, decide_eq_true_iff, List.isEmpty_iff, Bool.not_eq_true'] at h
      obtain ⟨⟨⟨⟨⟨⟨⟨⟨⟨⟨⟨h1, h2⟩, h3⟩, h4⟩, h5⟩, h6⟩, h7⟩, h8⟩, h9⟩, h10⟩, h11⟩, h12⟩ := h
      obtain ⟨d, hd⟩ := Option.isSome_iff_exists.mp h4
      obtain ⟨x, hx⟩ := List.length_eq_one_iff.mp h5
      have hcx : c = x := by
        have := (List.mem_filter.mp (List.mem_of_head? hc)).1
        rwa [hx, List.mem_singleton] at this
      have hdx : d = x := by
        have := List.mem_of_find?_eq_some hd
        rwa [hx, List.mem_singleton] at this
      obtain ⟨g, hg, h11⟩ := any_some h11
      rw [Bool.and_eq_true] at h11
      obtain ⟨tm, ht, h13⟩ := any_some h11.2
      have hl {n l} (h : c.lane n = some l) : l.idx = n ∧ l.team = 1 ∧ (vacatingSt passed pre).rec? 1 n = none := by
        have := lane_all (p := fun n l => (l.idx == n && l.team == 1) && ((vacatingSt passed pre).rec? 1 n).isNone) h8 h
        simpa [and_assoc] using this
      refine ⟨vacatingSt passed pre, 0, c, g, ?_, ?_, hg, List.isEmpty_iff.mp h11.1, h2, h3.1, h3.2, fun n l m k hn hm he => ?_, fun n l hn => ?_, by simp [h6],
        rfl, _, rfl, rfl, rfl, ⟨fun ⟨n, l, _, h14, h15⟩ => ?_, fun hp => ?_⟩, h7, by simp [h12]⟩
      · rw [h1, hcx, ← hdx]; exact hd
      · rw [hx] at hc ⊢
        rw [hcx]
        by_cases hk : (x.core == 0) = true
        · simp [hk]
        · simp [hk] at hc
      · rw [← (hl hn).1, ← (hl hm).1]; exact (Prod.mk.inj he).2
      · obtain ⟨ha, hb, hr⟩ := hl hn
        rw [ha, hb]
        exact ⟨hr, tm, ht, by simpa using h13⟩
      · have := lane_all (p := fun n l => l.preoff == (pre && n == 2)) h10 h14
        rw [h15] at this
        cases pre <;> simp_all
      · obtain ⟨h16, h17⟩ := (by simpa [hp] using h9 : has c.elig 2 = true ∧ (c.lane 2).isSome = true)
        obtain ⟨l, hl2⟩ := Option.isSome_iff_exists.mp h17
        have := lane_all (p := fun n l => l.preoff == (pre && n == 2)) h10 hl2
        exact ⟨2, l, h16, hl2, by simpa [hp] using this⟩
    intro p hp
    simp only [List.mem_cons, List.not_mem_nil, or_false] at hp
    rcases hp with rfl | rfl | rfl
    · exact key _ _ (by decide +kernel)
    · exact key _ _ (by decide +kernel)
    · exact key _ _ (by decide +kernel)
  · let s : State := { vacatingSt true false with crews := (vacatingSt true false).crews.map fun c => { c with pipe := { c.pipe with stage := 1 } } }
    obtain ⟨c, hc, h⟩ := any_some (x := s.crew? 2) (p := fun c => decide (c.id = 2) && ((s.core c.core).vac.any (·.graceOver) && s.crews.all fun d => !d.cutReady)) (by decide +kernel)
    simp only [Bool.and_eq_true, decide_eq_true_iff, List.all_eq_true] at h
    exact ⟨s, c, by rw [h.1]; exact hc, h.2.1, fun d hd _ => by simpa using h.2.2 d hd⟩
  · intro asked _
    refine ⟨emptiedSt asked, _, rfl, rfl, rfl, by cases asked <;> simp [emptiedSt], by cases asked <;> decide +kernel, ?_⟩
    cases asked
    · rfl
    · exact ⟨_, _, rfl, rfl, rfl, rfl, List.mem_singleton.mpr rfl, by decide, rfl, by decide +kernel⟩

/-! ## Witnesses: memory steps, errors and service -/

/-- A copy of four bytes from an address, under token 2 of thread 3. -/
def copyFrom (src : Nat) (dst : List (Option Place)) (rd : CpyRed) : Copy :=
  ⟨9, 1, some 3, 2, 2, dst, (List.range 4).map fun k => some (.mem (src + k)), rd, .i32, 0, 0, 5, false, 0⟩

/-- The copy under way; the lines named are poisoned. -/
def copySt (k : Copy) (bad : List Nat := []) : State :=
  { st with eng := { (st).eng with copies := [k] }, mem := { (st).mem with poison := bad.map fun l => (l, []) } }

/-- Four bytes of the team's scratchpad, of its page, and of a peer's page. -/
def toScr : List (Option Place) := (List.range 4).map fun k => some (Place.scr 1 (64 + k))
def toMem : List (Option Place) := (List.range 4).map fun k => some (Place.mem (codePa + 64 + k))

/-- What a copy's bytes are. -/
def copyPuts (s : State) (k : Copy) : List (Place × Byte) := (k.dst.zip k.src).filterMap fun p => match p with
  | (some d, some r) => some (d, s.placeByte k.team r)
  | _ => none

/-- What all clauses of a copy share. -/
def CopyDue (s : State) (k : Copy) : Prop :=
  s.eng.copies.find? (·.id == k.id) = some k ∧ s.copyHeld k = false ∧ s.answered (.copy k.id) = true

/-- A commit of one byte, at an address, that a peer has to acknowledge, or has. -/
def commitSt (pa : Nat) (un : List Nat) : State :=
  { st with eng := { (st).eng with commits := [⟨9, 1, 0, 0, none, 0, [], [⟨lineOf pa, 0, [(pa, 7)]⟩], un, false⟩] } }

/-- A copy to the scratchpad and one to memory; one from a poisoned line, one from a peer's page, one that adds; commits that a
peer has to acknowledge, of the package's memory, and of the host's; a line on its way to the host. -/
theorem witness_CopiesAndCommits :
    (∀ dst ∈ [toScr, toMem], ∃ (s : State) (k : Copy) (s1 : State), CopyDue s k ∧ k.rd = .none ∧ k.dst = dst ∧
      ((memBytes (k.src.filterMap id)).any isPeerPa = false ∧ s.readsPoison k.team (k.src.filterMap id) = false) ∧
      (s.team? k.team).isSome = true ∧ (∀ x o, .scr x o ∈ k.dst.filterMap id → (s.team? x).isSome = true) ∧
      s.storeBytes k.team k.core (some k.crew) k.dom (copyPuts s k) = .ok s1) ∧
    (∃ (s : State) (k : Copy), CopyDue s k ∧ s.readsPoison k.team (k.src.filterMap id) = true ∧
      (memBytes (k.src.filterMap id)).any isPeerPa = false ∧ (memBytes (k.dst.filterMap id)).any isPeerPa = false) ∧
    (∃ (s : State) (k : Copy), CopyDue s k ∧ k.asked = 0 ∧ (memBytes (k.src.filterMap id)).any isPeerPa = true) ∧
    (∃ (s : State) (k : Copy) (pa : Nat) (from_ : List Place) (tm : Team), CopyDue s k ∧ k.rd = .add ∧
      ((memBytes (k.src.filterMap id)).any isPeerPa = false ∧ s.readsPoison k.team (k.src.filterMap id) = false) ∧
      k.ty ≠ .f32 ∧ k.dst = (List.range 4).map (fun i => some (.mem (pa + i))) ∧ k.src = from_.map some ∧ from_.length = 4 ∧
      (memBytes (k.dst.filterMap id)).any isPeerPa = false ∧ s.homePoison k.team (memBytes (k.dst.filterMap id)) = false ∧
      s.team? k.team = some tm ∧ tm.audit.replay = none) ∧
    (∀ p ∈ [(codePa, ([] : List Nat)), (codePa, [3]), (hostBase + 64, [])], ∃ (s : State) (k : Commit),
      s.eng.commits.find? (·.id == k.id) = some k ∧ k.unacked = p.2 ∧ k.keep = false ∧
      (∀ tm, s.team? k.team = some tm → tm.audit.replay = none) ∧ k.lines.flatMap (·.bytes) = [(p.1, 7)] ∧
      ∀ l ∈ k.lines, l.addr = lineOf p.1) ∧
    (∃ (s : State) (id : Nat), (∀ k ∈ s.eng.commits, k.id ≠ id) ∧ ∃ x ∈ s.eng.hostDue, x.1 = id) ∧
    ∃ (s : State) (cx : Ctx), s.ctx? 0 = some cx := by
  have due (k : Copy) (bad : List Nat) (hc : k.crew = 2) (hk : ((st).crew? 2).any (fun c => (copySt k bad).forcing c k.serial) = false)
      (hp : st.chip.ports = []) : CopyDue (copySt k bad) k :=
    ⟨by simp [copySt], by rw [State.copyHeld, hc]; exact hk, by simp [State.answered, copySt, hp]⟩
  have hp : st.chip.ports = [] := by decide +kernel
  refine ⟨fun dst hd => ?_, ?_, ?_, ?_, fun p hq => ?_, ?_, ?_⟩
  · simp only [List.mem_cons, List.not_mem_nil, or_false] at hd
    rcases hd with rfl | rfl
    · let k := copyFrom codePa toScr .none
      obtain ⟨s1, h, -⟩ := okAnd_spec (x := (copySt k).storeBytes 1 0 (some 2) 0 (copyPuts (copySt k) k)) (p := fun _ => true) (by decide +kernel)
      refine ⟨copySt k, k, s1, due k [] rfl (by decide +kernel) hp, rfl, rfl, ⟨by decide +kernel, by decide +kernel⟩, by decide +kernel, ?_, h⟩
      intro x o hx
      have : (k.dst.filterMap id).all (fun q => match q with
        | .scr x _ => ((copySt k).team? x).isSome
        | _ => true) = true := by decide +kernel
      exact List.all_eq_true.mp this _ hx
    · let k := copyFrom codePa toMem .none
      obtain ⟨s1, h, -⟩ := storesB_spec (s := copySt k) (team := 1) (core := 0) (crew := some 2) (dom := 0) (bs := copyPuts (copySt k) k)
        (p := fun _ => true) (by decide +kernel)
      refine ⟨copySt k, k, s1, due k [] rfl (by decide +kernel) hp, rfl, rfl, ⟨by decide +kernel, by decide +kernel⟩, by decide +kernel, ?_, h⟩
      intro x o hx
      have : (k.dst.filterMap id).all (fun q => match q with
        | .scr x _ => ((copySt k).team? x).isSome
        | _ => true) = true := by decide +kernel
      exact List.all_eq_true.mp this _ hx
  · let k := copyFrom codePa toMem .none
    exact ⟨copySt k [lineOf codePa], k, due k _ rfl (by decide +kernel) hp, by decide +kernel, by decide +kernel, by decide +kernel⟩
  · let k := copyFrom (peerAddr 0 3 codeVa) toScr .none
    exact ⟨copySt k, k, due k [] rfl (by decide +kernel) hp, rfl, by decide +kernel⟩
  · let k := copyFrom codePa toMem .add
    obtain ⟨tm, ht, h⟩ := any_some (x := (copySt k).team? 1) (p := fun tm => decide (tm.audit.replay = none)) (by decide +kernel)
    exact ⟨copySt k, k, codePa + 64, (List.range 4).map fun k => .mem (codePa + k), tm, due k [] rfl (by decide +kernel) hp, rfl,
      ⟨by decide +kernel, by decide +kernel⟩, (fun h => nomatch h), rfl, by simp [k, copyFrom], by simp, by decide +kernel, by decide +kernel,
      ht, of_decide_eq_true h⟩
  · have h : (commitSt p.1 p.2).sched.teams.all (fun tm => decide (tm.audit.replay = none)) = true :=
      show (st).sched.teams.all (fun tm => decide (tm.audit.replay = none)) = true by decide +kernel
    exact ⟨commitSt p.1 p.2, ⟨9, 1, 0, 0, none, 0, [], [⟨lineOf p.1, 0, [(p.1, 7)]⟩], p.2, false⟩, rfl, rfl, rfl,
      fun tm ht => of_decide_eq_true (List.all_eq_true.mp h tm (List.mem_of_find?_eq_some ht)), by simp, by simp⟩
  · exact ⟨{ st with eng := { (st).eng with commits := [], hostDue := [(9, none)] } }, 9, by simp, _, List.mem_singleton.mpr rfl, rfl⟩
  · obtain ⟨cx, h⟩ := Option.isSome_iff_exists.mp (show (st.ctx? 0).isSome = true by decide +kernel)
    exact ⟨st, cx, h⟩

/-- Cluster 0 in a state of its test. -/
def clusterSt (k : ClState) (due since : Nat) : State := { State.reset with
  dev := { State.reset.dev with relctl := 0x40000000 }
  chip := { State.reset.chip with clusters := [{ Cluster.fresh 0 with st := k, dueFor := due, sinceTest := since }],
                                  cores := [{ Core.fresh 0 with stale := [(0, 0)], banks := [3, 33] }] } }

/-- A sample whose replay, of grid 50, is over with the log `run`; the members' first runs logged `so`, the second `sp`. -/
def sampleSt (so : List (List Host.Cell)) (run : List Host.Cell) (sp : Option (List (List Host.Cell))) : State :=
  let s := { st with cur := none, crews := [] }
  let g := s.sched.grids.head?.getD default
  let t := s.sched.teams.head?.getD default
  { s with sched := { s.sched with
    grids := s.sched.grids ++ [{ g with id := 50, shadow := some 0, next := g.stop }],
    teams := s.sched.teams ++ [{ t with uid := 51, grid := 50, mode := .retiring, audit := { t.audit with log := run, replay := some 50 } }],
    replays := [⟨50, 0, 0, 1, 1, some 2, so, sp⟩] } }

def sampleB (s : State) (p : Replay → Bool) : Bool :=
  (s.sched.replays.find? (·.id == 50)).any fun r => decide (r.id = 50 ∧ r.grid = 0 ∧ s.runDead r = false ∧ s.runOver r = true ∧
    s.health.counts.length = 8 ∧ (s.cluster 1).st ≠ .withdrawn ∧ (s.cluster 2).st ≠ .withdrawn ∧ r.cl0 = 1) &&
    ((s.grid? r.grid).any (fun g => g.fin.isNone && g.shadow.isNone) && ((s.sched.grids.all fun h => h.shadow != some 50) &&
    ((s.sched.teams.all fun t => t.launchQ.isEmpty) && p r)))

/-- The hypotheses that the three decisions share. -/
def Sample (s : State) (r : Replay) (g : Grid) : Prop :=
  s.sched.replays.find? (·.id == r.id) = some r ∧ s.runDead r = false ∧
  s.runOver r = true ∧ s.grid? r.grid = some g ∧ g.fin = none ∧ g.shadow = none ∧ r.id ≠ r.grid ∧
  (∀ h ∈ s.sched.grids, h.shadow ≠ some r.id) ∧ (∀ t ∈ s.sched.teams, t.launchQ = []) ∧ s.health.counts.length = 8 ∧
  (s.cluster 2).st ≠ .withdrawn ∧ (s.cluster r.cl0).st ≠ .withdrawn

theorem sampleB_spec {s p} (h : sampleB s p = true) : ∃ r g, Sample s r g ∧ p r = true := by
  obtain ⟨r, hr, h⟩ := any_some h
  simp only [Bool.and_eq_true] at h
  obtain ⟨h1, h2, h3, h4, h5⟩ := h
  obtain ⟨h1, h6, h7, h8, h9, h10, h11, h12⟩ := of_decide_eq_true h1
  obtain ⟨g, hg, h2⟩ := any_some h2
  rw [Bool.and_eq_true, Option.isNone_iff_eq_none, Option.isNone_iff_eq_none] at h2
  rw [List.all_eq_true] at h3 h4
  exact ⟨r, g, ⟨by rw [h1]; exact hr, h7, h8, hg, h2.1, h2.2, by rw [h1, h6]; decide, fun x hx => by rw [h1]; simpa using h3 x hx,
    fun t ht => List.isEmpty_iff.mp (h4 t ht), h9, h11, by rw [h12]; exact h10⟩, h5⟩

/-- Two contexts, of which one has an enabled slot. -/
def rotSt (seen : List Nat) : State :=
  { st with host := { (st).host with slots := [{ Slot.fresh 0 with qctl := 0x80000000 }], turn := some 0, turnSeen := seen } }

theorem witness_ErrorsAndService :
    ((clusterSt .inService 0 0).core 0).stale ≠ [] ∧ State.reset.health.counts.length = 8 ∧
    (∃ (s : State) (cx : Ctx) (g : Grid), s.ctx? 0 = some cx ∧ (∀ tm ∈ s.sched.teams, tm.launchQ = []) ∧ s.grid? g.id = some g ∧ g.ctx = 0 ∧
      g.fin = none ∧ g.shadow = none) ∧
    (∃ (s : State) (tm : Team) (g : Grid), tm ∈ s.sched.teams ∧ tm.holds = true ∧ clusterOf tm.core = 0 ∧ s.grid? tm.grid = some g ∧
      g.cox.isSome = true ∧ g.fin = none) ∧
    (let banks := ((clusterSt .inService 0 0).core 0).banks
     let same (b x : Nat) : Prop := (if x < 32 then x / 4 else x - 32) = if b < 32 then b / 4 else b - 32
     (bits (4 * 8) 3 5 ∉ banks ∧ ∀ x ∈ banks, ¬ same (bits (8 * 8) 3 5) x) ∧ (bits 0 3 5 ∉ banks ∧ ∃ x ∈ banks, same (bits 0 3 5) x) ∧
     (32 + bits (2 * 32) 5 3 ∉ banks ∧ ∀ x ∈ banks, ¬ same (32 + bits (2 * 32) 5 3) x) ∧ (32 + bits 0 5 3 ∉ banks ∧ ∃ x ∈ banks, same (32 + bits 0 5 3) x) ∧
     4 * bits 0 5 3 + 1 ∉ banks ∧ ∃ x ∈ banks, same (4 * bits 0 5 3 + 1) x) ∧
    (let s := clusterSt .inService 0 0x40
     (s.cluster 0).st = .inService ∧ s.dev.relctl.toNat / 2 ^ 24 ≠ 0 ∧ s.dev.relctl.toNat / 2 ^ 24 ≤ (s.cluster 0).sinceTest ∧ s.chip.dieOn 0 = true ∧ (s.core 0).withdrawn = false) ∧
    (let s := clusterSt .testDue 8 0
     (s.cluster 0).st = .testDue ∧ 8 ≤ (s.cluster 0).dueFor ∧ s.clusterVacant 0 = false) ∧
    (let s := clusterSt .overdue 8 0
     (s.cluster 0).st = .overdue ∧ s.clusterVacant 0 = true ∧ driftSteps s.dev.agectl 0 + bits s.dev.agectl.toNat 24 8 ≤ 0x54) ∧
    (rotSt [0]).host.turnSeen.filter (rotSt [0]).runList.contains = [0] ∧
    ((rotSt []).host.turnSeen.filter (rotSt []).runList.contains = [] ∧ (rotSt []).host.turn ≠ none) ∧
    (∃ s r g, Sample s r g ∧ r.sp = none ∧ r.so.map signature = ((s.runTeams r).map (·.audit.log)).map signature) ∧
    (∃ s r g sp, Sample s r g ∧ r.sp = some sp ∧ r.cl1 = some 2 ∧ ((s.runTeams r).map (·.audit.log)).map signature = r.so.map signature) ∧
    ∃ s r g sp, Sample s r g ∧ r.sp = some sp ∧ r.cl1 = some 2 ∧ ((s.runTeams r).map (·.audit.log)).map signature ≠ r.so.map signature ∧
      ((s.runTeams r).map (·.audit.log)).map signature = sp.map signature := by
  refine ⟨by decide +kernel, rfl, ?_, ?_, by decide +kernel, by decide +kernel, by decide +kernel, by decide +kernel, by decide +kernel, by decide +kernel, ?_, ?_, ?_⟩
  · obtain ⟨cx, hx⟩ := Option.isSome_iff_exists.mp (show (st.ctx? 0).isSome = true by decide +kernel)
    obtain ⟨g, hg, h⟩ := any_some (x := st.grid? 0) (p := fun g => decide (g.id = 0 ∧ g.ctx = 0 ∧ g.fin = none ∧ g.shadow = none)) (by decide +kernel)
    obtain ⟨h1, h2, h3, h4⟩ := of_decide_eq_true h
    have h5 : st.sched.teams.all (fun tm => tm.launchQ.isEmpty) = true := by decide +kernel
    exact ⟨st, cx, g, hx, fun tm ht => List.isEmpty_iff.mp (List.all_eq_true.mp h5 tm ht), by rw [h1]; exact hg, h2, h3, h4⟩
  · let s : State := { st with sched := { (st).sched with grids := (st).sched.grids.map fun g => { g with cox := some (codeVa, 0) } } }
    obtain ⟨tm, ht, h⟩ := any_some (x := s.team? 1) (p := fun tm => decide (tm.holds = true ∧ clusterOf tm.core = 0) &&
      (s.grid? tm.grid).any fun (g : Grid) => decide (g.cox.isSome = true ∧ g.fin = none)) (by decide +kernel)
    rw [Bool.and_eq_true, decide_eq_true_iff] at h
    obtain ⟨g, hg, h2⟩ := any_some h.2
    obtain ⟨h3, h4⟩ := of_decide_eq_true h2
    exact ⟨s, tm, g, List.mem_of_find?_eq_some ht, h.1.1, h.1.2, hg, h3, h4⟩
  · let s := sampleSt [[(codePa, 7)]] [(codePa, 7)] none
    obtain ⟨r, g, h, hp⟩ := sampleB_spec (s := s) (p := fun r => decide (r.sp = none ∧ r.so = (s.runTeams r).map (·.audit.log))) (by decide +kernel)
    obtain ⟨h1, h2⟩ := of_decide_eq_true hp
    exact ⟨s, r, g, h, h1, by rw [h2]⟩
  · let s := sampleSt [[(codePa, 7)]] [(codePa, 7)] (some [[]])
    obtain ⟨r, g, h, hp⟩ := sampleB_spec (s := s) (p := fun r => decide (r.sp = some [[]] ∧ r.cl1 = some 2 ∧ (s.runTeams r).map (·.audit.log) = r.so))
      (by decide +kernel)
    obtain ⟨h1, h2, h3⟩ := of_decide_eq_true hp
    exact ⟨s, r, g, _, h, h1, h2, by rw [h3]⟩
  · let s := sampleSt [] [(codePa, 7)] (some [[(codePa, 7)]])
    obtain ⟨r, g, h, hp⟩ := sampleB_spec (s := s) (p := fun r => decide (r.sp = some [[(codePa, 7)]] ∧ r.cl1 = some 2 ∧ r.so = [] ∧
      (s.runTeams r).map (·.audit.log) = [[(codePa, 7)]])) (by decide +kernel)
    obtain ⟨h1, h2, h3, h4⟩ := of_decide_eq_true hp
    exact ⟨s, r, g, _, h, h1, h2, by rw [h3, h4]; exact List.cons_ne_nil _ _, by rw [h4]⟩

/-! ## Witnesses: the host interface -/

/-- A context descriptor, at 0x1000 of the host's memory, and a tenant block of one window, at 0x2000. -/
def descBytes : List Byte := leBytes 8 0x10000 ++ leBytes 4 (5 + 15 * 2 ^ 24) ++ leBytes 4 0 ++ leBytes 8 0 ++ leBytes 8 (2 ^ 30) ++
  List.replicate 0x30 0 ++ leBytes 8 0x80 ++ List.replicate 0x28 0

def tenantBytes : List Byte := leBytes 4 0xF0 ++ leBytes 4 1 ++ leBytes 8 0 ++ leBytes 8 (2 ^ 31) ++ leBytes 8 (2 ^ 30) ++ List.replicate 112 0

/-- The descriptor with the PASID of the loader's context, which is open; a block whose window lies beyond the HBM. -/
def openDesc : List Byte := descBytes.take 8 ++ leBytes 4 (15 * 2 ^ 24) ++ descBytes.drop 12

def farBlock : List Byte := leBytes 4 0xF0 ++ leBytes 4 1 ++ leBytes 8 0 ++ leBytes 8 (2 ^ 40) ++ leBytes 8 (2 ^ 30) ++ List.replicate 112 0

def hostSt : State := { st with cur := none, mem := { (st).mem with cells :=
  (st).mem.cells ++ (place (hostAddr 0x1000) descBytes ++ place (hostAddr 0x2000) tenantBytes ++
    place (hostAddr 0x3000) openDesc ++ place (hostAddr 0x4000) farBlock).filter (·.2 != 0) } }

def key0 : FaultKey := ⟨0, 8, true, false⟩

/-- A fault that stands in the ring as number 3, and a record that waits for it. -/
def faultSt (stage : FltStage) : State :=
  { recSt fun r => { r with wait := .fault key0, bin := { r.bin with ready := false } } with host := { (st).host with faults := [⟨key0, 0x8000, 0, stage⟩] } }

/-- The commands that only fail or wait, and those on descriptors, blocks, slots and clusters. -/
theorem witness_AdminStates :
    (hostSt.ctx? 1).isNone = true ∧ 0x1020 % 64 ≠ 0 ∧ 0x1000 % 64 = 0 ∧ (hostSt.ctx? 0).isSome = true ∧ hostSt.health.ddrain = false ∧
    hostSt.descBad (hostSt.mem.cells.read (hostAddr 0x1000) 128) = false ∧
    (∀ p ∈ hostSt.host.pasids, p.1 ≠ fld (hostSt.mem.cells.read (hostAddr 0x1000) 128) 8 4 % 2 ^ 20) ∧
    (hostSt.descBad (hostSt.mem.cells.read (hostAddr 0x3000) 128) = false ∧
      ∃ p ∈ hostSt.host.pasids, p.1 = fld (hostSt.mem.cells.read (hostAddr 0x3000) 128) 8 4 % 2 ^ 20) ∧
    (0x5000 % 64 = 0 ∧ hostSt.descBad (hostSt.mem.cells.read (hostAddr 0x5000) 128) = true) ∧
    ((rotSt []).slot 0).qctl.getLsbD 31 = true ∧ ((rotSt []).slot 1).qctl.getLsbD 31 = false := by
  decide +kernel

theorem witness_AdminBlocks :
    (∀ f ∈ (faultSt (.written 3)).host.faults, f.stage ≠ .written 4) ∧
    ((clusterSt .inService 0 0).chip.dieOn (0 / 4) = true ∧ ((clusterSt .inService 0 0).cluster 0).st ≠ .withdrawn) ∧
    ((clusterSt .drained 0 0).cluster 0).st = .drained ∧
    (∃ c ∈ hostSt.ctxs, c.d.tenant = 0) ∧ (∀ c ∈ hostSt.ctxs, c.d.tenant ≠ 1) ∧
    hostSt.tenantBad (tenantOf 1 (hostSt.mem.cells.read (hostAddr 0x2000) 144)) (hostSt.mem.cells.read (hostAddr 0x2000) 144) = false ∧
    hostSt.tenantBad (tenantOf 1 (hostSt.mem.cells.read (hostAddr 0x4000) 144)) (hostSt.mem.cells.read (hostAddr 0x4000) 144) = true ∧
    (∃ k ∈ (clusterSt .withdrawn 0 0).chip.clusters, k.st = .withdrawn) ∧
    ((∀ k ∈ hostSt.chip.cores, k.withdrawn = false) ∧ (∀ k ∈ hostSt.chip.clusters, k.st ≠ .withdrawn) ∧ hostSt.eng.deadUnits = []) ∧ hostSt.health.recovery = false := by
  decide +kernel

/-- An admin packet is being executed; some PASIDs are open. -/
def pasidSt (ps : List (Nat × Bool)) : State := { st with host := { (st).host with admCur := [0], pasids := ps } }

def recoverySt : State := { State.reset with health := { Health.reset with recovery := true } }

theorem witness_AdminPasidIdle : ∃ s : State, s.host.admCur ≠ [] ∧ (5, false) ∈ s.host.pasids ∧ s.pasidIdle 5 = true :=
  ⟨pasidSt [(5, false)], List.cons_ne_nil _ _, List.mem_singleton.mpr rfl, by decide +kernel⟩

theorem witness_AdminPasidBusy : ∃ s : State, s.host.admCur ≠ [] ∧ (0, false) ∈ s.host.pasids ∧ s.pasidIdle 0 = false :=
  ⟨pasidSt [(0, false)], List.cons_ne_nil _ _, List.mem_singleton.mpr rfl, by decide +kernel⟩

theorem witness_AdminCommands : ∃ s : State, s.health.recovery = true ∧ (Config.imageOk [] = true ∨ Config.imageOk [] = false) :=
  ⟨recoverySt, rfl, Bool.eq_false_or_eq_true _⟩

theorem witness_AdminEndedContext :
    ∃ (s : State) (cx : Ctx), s.ctx? 0 = some cx ∧ cx.dying = false ∧ s.nothingLeft 0 = true ∧ (∀ q ∈ s.host.slots, q.launch = none) ∧
      s.host.admPend = [] ∧ s.still 0 = true ∧ ∀ q ∈ s.sched.requests, q.cause ≠ .suspend 0 := by
  let s : State := { hostSt with crews := [], sched := Sched.reset }
  obtain ⟨cx, hx, h⟩ := any_some (x := s.ctx? 0) (p := fun cx => !cx.dying && s.nothingLeft 0 && s.host.slots.isEmpty && s.host.admPend.isEmpty && s.still 0)
    (by decide +kernel)
  simp only [Bool.and_eq_true, Bool.not_eq_true', List.isEmpty_iff] at h
  exact ⟨s, cx, hx, h.1.1.1.1, h.1.1.1.2, by simp [h.1.1.2], h.1.2, h.2, by simp [s, Sched.reset]⟩

theorem witness_AdminLiveContext :
    ∃ (s : State) (cx : Ctx) (g : Grid) (tm : Team), s.ctx? 0 = some cx ∧ cx.dying = false ∧ s.grid? g.id = some g ∧ g.ctx = 0 ∧ g.fin = none ∧
      g.shadow = none ∧ s.still 0 = false ∧ (∀ q ∈ s.sched.requests, q.cause ≠ .suspend 0) ∧ (∃ c ∈ s.crews, c.ctx = 0) ∧
      s.teamOfCtx 0 0 = some tm ∧ s.movers tm = [tm] ∧ s.team? tm.uid = some tm ∧ tm.fwdTo = none ∧ s.bound 0 1 = true ∧ s.bound 0 2 = false := by
  let s : State := withDesc hostSt fun d => { d with peers := 2 }
  obtain ⟨cx, hx, h⟩ := any_some (x := s.ctx? 0) (p := fun cx => !cx.dying && (!s.still 0 && (s.sched.requests.isEmpty && (s.crews.any fun c => c.ctx == 0))) &&
    (s.grid? 0).any (fun (g : Grid) => decide (g.id = 0 ∧ g.ctx = 0 ∧ g.fin = none ∧ g.shadow = none)) &&
    (s.teamOfCtx 0 0).any fun tm => decide (s.movers tm = [tm] ∧ s.team? tm.uid = some tm ∧ tm.fwdTo = none ∧ s.bound 0 1 = true ∧ s.bound 0 2 = false))
    (by decide +kernel)
  simp only [Bool.and_eq_true, Bool.not_eq_true', List.isEmpty_iff, List.any_eq_true, beq_iff_eq] at h
  obtain ⟨⟨⟨h1, h2, h3, h4⟩, h5⟩, h6⟩ := h
  obtain ⟨g, hg, h5⟩ := any_some h5
  obtain ⟨h7, h8, h9, h10⟩ := of_decide_eq_true h5
  obtain ⟨tm, ht, h6⟩ := any_some h6
  obtain ⟨h11, h12, h13, h14, h15⟩ := of_decide_eq_true h6
  exact ⟨s, cx, g, tm, hx, h1, by rw [h7]; exact hg, h8, h9, h10, h2, by simp [h3], h4, ht, h11, h12, h13, h14, h15⟩

theorem witness_AdminFaults :
    ∃ (s : State) (f : Flt) (r : Rec), (s.host.faults.find? fun f => f.stage == .written 3) = some f ∧ s.rec? r.team r.idx = some r ∧
      r.wait = .fault f.key ∧ r.bin.hold = none ∧ ∀ h ∈ s.host.faults, h.key = f.key → h = f := by
  let s := faultSt (.written 3)
  obtain ⟨f, hf, h⟩ := any_some (x := s.host.faults.find? fun (f : Flt) => f.stage == .written 3) (p := fun f => (s.rec? 1 5).any fun (r : Rec) =>
    decide (r.team = 1 ∧ r.idx = 5 ∧ r.wait = .fault f.key ∧ r.bin.hold = none ∧ ∀ h ∈ s.host.faults, h.key = f.key → h = f)) (by decide +kernel)
  obtain ⟨r, hr, h⟩ := any_some h
  obtain ⟨h1, h2, h3, h4, h5⟩ := of_decide_eq_true h
  exact ⟨s, f, r, hf, by rw [h1, h2]; exact hr, h3, h4, h5⟩

/-- A start with a tenant defined since the last, and with none; a die that is there. -/
theorem witness_Starts : ∀ b : Bool, ∃ s : State, s.host.tenantSet = b ∧ s.chip.dieOn (dieOf 0) = true :=
  fun b => ⟨{ State.reset with host := { State.reset.host with tenantSet := b } }, rfl, (by decide +kernel : State.reset.chip.dieOn (dieOf 0) = true)⟩

/-- Slot 3 executes a packet of context 0; a launch record and a counter of 0x8000 stand in its page. -/
def slotSt : State := { launchSt with cur := none, host := { (st).host with slots := [{ Slot.fresh 3 with cur := [0] }] } }

def reachB (s : State) (addr n al : Nat) (need : Need) (p : List Nat → Bool) : Bool := match s.reach 3 addr n al need with
  | .ok pas => p pas
  | _ => false

theorem reachB_spec {s addr n al need p} (h : reachB s addr n al need p = true) : ∃ pas, s.reach 3 addr n al need = .ok pas ∧ p pas = true := by
  unfold reachB at h
  split at h
  · exact ⟨_, ‹_›, h⟩
  · cases h

theorem witness_QueuesAndRegisters :
    (slotSt.slot 3).cur ≠ [] ∧ (slotSt.slot 3).launch = none ∧
    (∃ pas, slotSt.reach 3 codeVa 64 64 Need.read = .ok pas ∧ recChk (pas.map slotSt.mem.cells.get) = .ok ()) ∧
    (∃ pas code arg, slotSt.reach 3 (codeVa + 128) 64 64 Need.read = .ok pas ∧ recChk (pas.map slotSt.mem.cells.get) = .trap code arg) ∧
    (∃ pas, slotSt.reach 3 codeVa 4 4 Need.read = .ok pas ∧ (0x8000 : Word).toNat ≤ leNat (pas.map slotSt.mem.cells.get) ∧
      leNat (pas.map slotSt.mem.cells.get) < (0x8001 : Word).toNat) ∧
    (∃ pas, slotSt.reach 3 codeVa 4 4 Need.both = .ok pas ∧ pas ≠ []) ∧ State.reset.chip.dieOn (dieOf 0) = true := by
  refine ⟨by decide +kernel, by decide +kernel, ?_, ?_, ?_, ?_, by decide +kernel⟩
  · obtain ⟨pas, h, hp⟩ := reachB_spec (s := slotSt) (addr := codeVa) (n := 64) (al := 64) (need := Need.read)
      (p := fun pas => pas.map slotSt.mem.cells.get == recBytes) (by decide +kernel)
    exact ⟨pas, h, by rw [beq_iff_eq.mp hp]; exact passed_unit (by decide +kernel)⟩
  · obtain ⟨pas, h, hp⟩ := reachB_spec (s := slotSt) (addr := codeVa + 128) (n := 64) (al := 64) (need := Need.read)
      (p := fun pas => pas.map slotSt.mem.cells.get == List.replicate 64 0) (by decide +kernel)
    exact ⟨pas, ILLOPND, 0, h, by rw [beq_iff_eq.mp hp]; rfl⟩
  · obtain ⟨pas, h, hp⟩ := reachB_spec (s := slotSt) (addr := codeVa) (n := 4) (al := 4) (need := Need.read)
      (p := fun pas => decide ((0x8000 : Word).toNat ≤ leNat (pas.map slotSt.mem.cells.get) ∧
        leNat (pas.map slotSt.mem.cells.get) < (0x8001 : Word).toNat)) (by decide +kernel)
    exact ⟨pas, h, of_decide_eq_true hp⟩
  · obtain ⟨pas, h, hp⟩ := reachB_spec (s := slotSt) (addr := codeVa) (n := 4) (al := 4) (need := Need.both) (p := fun pas => !pas.isEmpty) (by decide +kernel)
    exact ⟨pas, h, by simpa using hp⟩

/-- A transfer sent `n` times more, that a commit waits for. -/
def sent (n : Nat) (grid : Option Nat) : Xfer := ⟨0, n, grid, .commit 9, .load 0 codeVa 128⟩

/-- A fault at a stage, which lane 4 waits for; the ring is on; port 2 has an unacknowledged transfer, and a commit of the
loader's team, if one is due, waits for that port. -/
def peerSt (stage : FltStage) (x : Xfer) (due : Bool) : State :=
  let s := st fun c => { c with lanes := c.lanes.map fun l => l.map fun l => if l.idx = 4 then { l with faultOn := some key0 } else l }
  { s with
    cur := none, dev := { s.dev with fltctl := 0x80000004 }, host := { s.host with faults := [⟨key0, 0x8000, 0, stage⟩] },
    chip := { s.chip with ports := [{ Port.fresh 2 with unacked := [x] }] },
    eng := { s.eng with commits := if due then [⟨9, 1, 0, 0, none, 0, [], [⟨lineOf codePa, 0, [(codePa, 7)]⟩], [2], false⟩] else [] } }

/-- A fault to be recorded, and one at each stage of the host's answers; a port that is up; transfers that have been sent 15
and 16 times more, and that are acknowledged. -/
theorem witness_HostAndPeers :
    (let s := peerSt .ring (sent 0 none) true
     (s.host.faults.find? (·.stage == .ring)).isSome = true ∧ s.host.faults.length < 2 ^ 32 ∧ s.dev.fltctl.getLsbD 31 = true ∧
      (let l := s.dev.fltctl.toNat % 32
       (s.dev.fltwptr - s.dev.fltrptr).toNat < 2 ^ (if 4 ≤ l ∧ l ≤ 16 then l else 4))) ∧
    ((peerSt .ats (sent 0 none) true).closing 0 = false ∧ (peerSt .ats (sent 0 none) true).hostFaults 0 8 .ats = [⟨key0, 0x8000, 0, .ats⟩]) ∧
    (peerSt .pri (sent 0 none) true).hostFaults 0 8 .pri = [⟨key0, 0x8000, 0, .pri⟩] ∧
    nth (peerSt .pri (sent 0 none) true).health.hostUp 1 false = true ∧
    ((peerSt .ats (sent 15 none) true).port 2).lost = false ∧ 5 ≠ ((peerSt .ats (sent 15 none) true).port 2).rxSeq ∧
    ((peerSt .ats (sent 15 none) true).port 2).unacked.find? (·.seq == (sent 15 none).seq) = some (sent 15 none) ∧
    (∃ k ∈ (peerSt .ats (sent 15 none) true).eng.commits, (sent 15 none).what = .commit k.id) ∧
    ((peerSt .ats (sent 16 none) true).port 2).unacked.find? (·.seq == (sent 16 none).seq) = some (sent 16 none) ∧
    (∀ t ∈ (peerSt .ats (sent 16 none) true).sched.teams, t.launchQ = []) := by
  decide +kernel

theorem witness_HostLane : ∃ (s : State) (c : Crew) (n : Nat) (l : Lane), s.hostFaults 0 8 .pri = [⟨key0, 0x8000, 0, .pri⟩] ∧ s.crew? c.id = some c ∧
    c.ctx = key0.ctx ∧ c.lane n = some l ∧ l.faultOn = some key0 := by
  obtain ⟨c, hc, h⟩ := any_some (x := (peerSt .pri (sent 0 none) true).crew? 2) (p := fun c => decide (c.id = 2 ∧ c.ctx = 0) &&
    (c.lane 4).any fun (l : Lane) => decide (l.faultOn = some key0)) (by decide +kernel)
  rw [Bool.and_eq_true] at h
  obtain ⟨h1, h2⟩ := of_decide_eq_true h.1
  obtain ⟨l, hl, h3⟩ := any_some h.2
  exact ⟨peerSt .pri (sent 0 none) true, c, 4, l, by decide +kernel, by rw [h1]; exact hc, h2, hl, of_decide_eq_true h3⟩

/-- What a peer loads, stores and updates here: the loader's page. -/
theorem witness_PeerAccesses : ∃ (s : State) (cx : Ctx), s.ctx? 0 = some cx ∧ (s.port 2).lost = false ∧
    (∀ n ∈ [4, 8], ∃ pa, s.translateRange cx codeVa Need.both n = .inr pa) ∧ (∃ pa, s.translateRange cx codeVa Need.read 128 = .inr pa) ∧
    (∃ pa : Nat → Nat, ∀ c ∈ [((codeVa, 7) : Host.Cell)], s.translate cx c.1 Need.write = .ok (pa c.1)) ∧
    ∃ t ack, s.peerDeliver 2 (s.port 2).rxSeq (.load 0 codeVa 128) = .yes t ack := by
  let ranges (cx : Ctx) (n : Nat) (need : Need) : Bool := match st.translateRange cx codeVa need n with
    | .inr _ => true
    | _ => false
  have hr {cx n need} (h : ranges cx n need = true) : ∃ pa, st.translateRange cx codeVa need n = .inr pa := by
    simp only [ranges] at h
    split at h
    · exact ⟨_, ‹_›⟩
    · cases h
  obtain ⟨cx, hx, h⟩ := any_some (x := st.ctx? 0) (p := fun (cx : Ctx) => ranges cx 4 Need.both && (ranges cx 8 Need.both && (ranges cx 128 Need.read &&
    match st.translate cx codeVa Need.write with
    | .ok _ => true
    | _ => false))) (by decide +kernel)
  simp only [Bool.and_eq_true] at h
  obtain ⟨h1, h2, h3, h4⟩ := h
  have h5 : (match st.peerDeliver 2 (st.port 2).rxSeq (.load 0 codeVa 128) with
    | .yes _ _ => true
    | _ => false) = true := by decide +kernel
  refine ⟨st, cx, hx, by decide +kernel, fun n hn => ?_, hr h3, ?_, ?_⟩
  · simp only [List.mem_cons, List.not_mem_nil, or_false] at hn
    rcases hn with rfl | rfl
    · exact hr h1
    · exact hr h2
  · split at h4
    · rename_i pa hp
      exact ⟨fun _ => pa, fun c hc => by rw [List.mem_singleton.mp hc]; exact hp⟩
    · cases h4
  · split at h5
    · exact ⟨_, _, ‹_›⟩
    · cases h5

/-- A lost port's grids: with a commit due, with traffic, and with neither. -/
theorem witness_PeerGrid : ∀ p ∈ [(true, none), (false, some 0), (false, none)], ∃ (s : State) (g : Grid), s.grid? g.id = some g ∧ g.fin = none ∧
    g.shadow = none ∧ (s.port 2).lost = false ∧ ((∃ k ∈ s.eng.commits, k.grid = g.id ∧ 2 ∈ k.unacked) ↔ p.1 = true) ∧
    (∃ u ∈ (s.port 2).unacked, u.grid = p.2 ∧ 16 ≤ u.tries) ∧ (p.2 = none → ∀ u ∈ (s.port 2).unacked, u.grid ≠ some g.id) ∧
    (p.2 = some 0 → g.id = 0) ∧ (∀ d ∈ s.eng.drains, d.grid = g.id → d.port ≠ some 2) ∧
    ∀ tm ∈ s.sched.teams, tm.grid = g.id → ∀ a ∈ tm.away, a.2 ≠ 2 := by
  intro p hp
  let s := peerSt .ats (sent 16 p.2) p.1
  have hg : ∃ g, s.grid? 0 = some g ∧ g.id = 0 ∧ g.fin = none ∧ g.shadow = none := by
    obtain ⟨g, hg, h⟩ := any_some (x := (st).grid? 0) (p := fun (g : Grid) => decide (g.id = 0 ∧ g.fin = none ∧ g.shadow = none)) (by decide +kernel)
    exact ⟨g, hg, of_decide_eq_true h⟩
  obtain ⟨g, hg, h1, h2, h3⟩ := hg
  have h4 : (st).eng.drains = [] := by decide +kernel
  have h5 : (st).sched.teams.all (fun t => t.away.isEmpty) = true := by decide +kernel
  have hu : (s.port 2).unacked = [sent 16 p.2] := by simp [s, peerSt, State.port, Port.fresh]
  refine ⟨s, g, by rw [h1]; exact hg, h2, h3, by simp [s, peerSt, State.port, Port.fresh], ?_, ⟨_, by rw [hu]; exact List.mem_singleton.mpr rfl, rfl, Nat.le_refl 16⟩,
    fun hn u hm => ?_, fun _ => h1, fun d hd => ?_, fun tm ht _ a ha => ?_⟩
  · simp only [List.mem_cons, List.not_mem_nil, or_false] at hp
    rcases hp with rfl | rfl | rfl <;> simp [s, peerSt, h1]
  · rw [hu, List.mem_singleton] at hm
    rw [hm]
    simp [sent, hn]
  · rw [show s.eng.drains = (st).eng.drains from rfl, h4] at hd
    cases hd
  · rw [List.isEmpty_iff.mp (List.all_eq_true.mp h5 tm ht)] at ha
    cases ha

/-! ## Witnesses: decoding and the step -/

theorem witness_DecodeEncode : ∀ i ∈ [Instr.iadd (v 8) (r 4) (lit 0xFFFFFFFF), .exit, .nop, .cpy (r 4) (r 2) .b16 2 .none .i32 .scratch .global 0],
    i.wf = true ∧ i.encodable = true ∧ (encode i).head?.any (fun w => fOp w != 0x7F) = true := by
  decide +kernel

/-- The loader's crew fetches `NOP` next, and nothing else can happen. -/
def fetchSt : State := State.reset.withFetchWord 32 0

theorem witness_StepRunsDecoded :
    ∃ (c : Crew) (cx : Ctx) (lanes : LaneMask) (pc : Nat) (yl : LaneMask) (r : RawIssue) (d : Decoded) (i : Instr) (rest : List Instr),
      fetchSt.agenda = [] ∧ fetchSt.tickClock.turns = [.crew 2] ∧ fetchSt.crew? 2 = some c ∧ fetchSt.ctx? c.ctx = some cx ∧ c.pipe.reinj = [] ∧
      c.choose = some (lanes, pc, yl) ∧ c.waitsTranslation lanes = false ∧ fetchSt.tickClock.fetchFrom cx pc [] maxWords = .ok r ∧ r.decode = some d ∧
      fetchSt.tickClock.disabled cx r = false ∧ d.grd.toList ++ d.pre.toList ++ [d.instr] = i :: rest ∧ d.grd = none := by
  obtain ⟨c, hc, h⟩ := any_some (x := fetchSt.crew? 2) (p := fun (c : Crew) => c.pipe.reinj.isEmpty && ((fetchSt.ctx? c.ctx).any fun (cx : Ctx) =>
    c.choose.any fun x => !c.waitsTranslation x.1 && match fetchSt.tickClock.fetchFrom cx x.2.1 [] maxWords with
      | .ok r => !fetchSt.tickClock.disabled cx r && (r.decode.any fun (d : Decoded) => d.grd.isNone && d.pre.isNone)
      | _ => false)) (by decide +kernel)
  rw [Bool.and_eq_true, List.isEmpty_iff] at h
  obtain ⟨cx, hx, h1⟩ := any_some h.2
  obtain ⟨⟨lanes, pc, yl⟩, hy, h2⟩ := any_some h1
  rw [Bool.and_eq_true, Bool.not_eq_true'] at h2
  obtain ⟨hw, h2⟩ := h2
  split at h2
  · rename_i r hr
    rw [Bool.and_eq_true, Bool.not_eq_true'] at h2
    obtain ⟨d, hd, h3⟩ := any_some h2.2
    rw [Bool.and_eq_true, Option.isNone_iff_eq_none, Option.isNone_iff_eq_none] at h3
    exact ⟨c, cx, lanes, pc, yl, r, d, d.instr, [], by decide +kernel, by decide +kernel, hc, hx, h.1, hy, hw, hr, hd, h2.1, by rw [h3.1, h3.2]; rfl, h3.1⟩
  · cases h2

/-- An ICMP with a literal: three words, each translated by itself. -/
theorem witness_Fetch : ∃ (s : State) (cx : Ctx) (pc : Nat) (ws : List Nat) (pa : Nat → Nat) (r : RawIssue), ws.length < 2 ^ 54 ∧
    splitIssue [] ws = some r ∧ (∀ k, k < ws.length → splitIssue [] (ws.take k) = none) ∧
    ∀ k w, ws[k]? = some w → w < 2 ^ 32 ∧ s.translate cx (pc + 4 * k) Need.exec = .ok (pa k) ∧ s.mem.cells.read (pa k) 4 = leBytes 4 w := by
  let s := State.reset.withFetchWord 96 (0x1C07EFE0 + 0x00040000 * 2 ^ 32 + 5 * 2 ^ 64)
  let ws := [0x1C07EFE0, 0x00040000, 5]
  obtain ⟨r, hr⟩ := Option.isSome_iff_exists.mp (show (splitIssue [] ws).isSome = true by decide +kernel)
  obtain ⟨cx, -, h⟩ := any_some (x := s.ctx? 0) (p := fun (cx : Ctx) => (List.range 3).all fun k => decide (nth ws k 0 < 2 ^ 32 ∧
    s.mem.cells.read (codePa + 4 * k) 4 = leBytes 4 (nth ws k 0)) && match s.translate cx (codeVa + 4 * k) Need.exec with
      | .ok pa => pa == codePa + 4 * k
      | _ => false) (by decide +kernel)
  refine ⟨s, cx, codeVa, ws, fun k => codePa + 4 * k, r, by decide, hr, fun k hk => ?_, fun k w hw => ?_⟩
  · match k, hk with
    | 0, _ | 1, _ | 2, _ => rfl
  · have hk : k < 3 := (List.getElem?_eq_some_iff.mp hw).1
    have h := List.all_eq_true.mp h k (List.mem_range.mpr hk)
    rw [Bool.and_eq_true, decide_eq_true_iff, show nth ws k 0 = w by simp [nth, hw]] at h
    refine ⟨h.1.1, ?_, h.1.2⟩
    have h2 := h.2
    split at h2
    · rename_i pa hp
      rw [hp, beq_iff_eq.mp h2]
    · cases h2

theorem witness_Invariants : State.reset.agenda = [] ∧ State.reset.cur = none ∧ State.reset.mem.cells.wf = true ∧ st.mem.cells.wf = true := by
  decide +kernel

/-! ## Ill-formed terms: one for each check, beside a well-formed neighbour -/

/-- Destinations and sources (R53, R54): `lid`, a literal, a name out of range. -/
theorem test_wf_registers : [Instr.mov .lid (r 0), .mov (.lit 0) (r 0), .mov (v 112) (r 0), .mov (.sc 12) (r 0), .mov (v 0) (r 112),
    .mov (v 0) ⟨.sc 12, false, false⟩, .movi .lid 0, .iaddi (v 0) (.win 112) false 1, .st4 (.win 112) (v 0) 0 0, .rpqw (v 112) (r 0),
    .trd .lid 0 false (.imm 0), .ld4 (v 0) (v 112) 0 0, .tcfg 0 .f32 15 15, .mov (v 111) (lit 7), .mov (.sc 11) z].map Instr.wf =
    List.replicate 12 false ++ [true, true, true] := by decide +kernel

/-- All literals of an issue are one word (R54). -/
theorem test_wf_literals : [Instr.iadd (v 0) (lit 1) (lit 2), .imad (v 0) (lit 1) (r 0) (lit 2), .fsh (v 0) (lit 1) (r 0) (.reg (lit 2)) false false,
    .tld 0 (lit 1) (lit 2) false 0, .iadd (v 0) (lit 1) (lit 1)].map Instr.wf = [false, false, false, false, true] := by decide +kernel

/-- Predicates (R84) and COMB (R74). -/
theorem test_wf_predicates : [Instr.sel (v 0) (r 0) (r 1) 48 false, .icmp 48 (r 0) (r 1) .lt false false .none,
    .icmp 0 (r 0) (r 1) .lt false false (.and 48), .plog 0 1 48 2 0, .pmovPredToReg (v 0) 48, .lead 48, .grd 48 false 0, .lmaskLo (v 0) 48,
    .kgather (v 0) (r 0) (r 1) 0 (.pred 48) false 1, .icmp 47 (r 0) (r 1) .lt false false (.xor 47)].map Instr.wf =
    List.replicate 9 false ++ [true] := by decide +kernel

/-- The fields of single instructions: CVT's selectors, `.nsat`, its B operand and types; FSPEC's rounding; SHFL's index;
atomics on FP32; CPY's reductions; TDRAIN's B; KGATHER's CAP; WIN; SRR; SRW; EMRET; HMOV. -/
theorem test_wf_fields : [Instr.cvt (v 0) (r 0) (r 0) .e4m3 .f32 false .fpcr 4 0, .cvt (v 0) (r 0) (r 0) .f16 .f32 true .fpcr 0 0,
    .cvt (v 0) (r 0) (r 1) .f32 .f16 false .fpcr 0 0, .cvt (v 0) (r 0) (r 0) .f32 .f32 false .fpcr 0 0, .cvt (v 0) (r 0) (r 0) .f32 .f16 false .fpcr 0 2,
    .fspec (v 0) (r 0) .rcp .rz 0, .shfl (v 0) (r 0) (.imm 64) .pick .w8 none, .atom (v 0) (r 0) (r 1) .faddF32 true 0 0, .red (r 0) (r 1) .faddF32 true 0,
    .cpy (r 0) (r 1) .b4 0 .and .f32 .scratch .global 0, .tdrain 0 (r 0) (r 1) false, .kgather (v 0) (r 0) (r 1) 0 .trap false 0, .win 10,
    .srr (v 0) 0x26, .srw 0x26 (r 0), .emret 5, .hmovf (v 0) 16, .hmovt 16 (r 0)].map Instr.wf = List.replicate 18 false := by decide +kernel

/-! ## Words written out from the encoding tables (R50, R51, R75 to R83): one or more of each family -/

theorem test_decode_integer : decodeWords [0b0000100_0001000_0000100_0000011_1_1_0_0] = some (.iadd (v 8) ⟨.win 4, true, false⟩ ⟨.win 3, true, false⟩) ∧
    decodeWords [0b0001001_0000011_0000101_0000110_0_0_0_0, 0b0000111_00000000_0_0_0000_00000000000] = some (.imad (v 3) (r 5) (r 6) (r 7)) ∧
    decodeWords [0b0001110_0000001_1111101_1111110_0_0_0_0, 0b0000000_00000010_0_0_0000_00000000000, 3] =
      some (.icmp 1 ⟨.lid, false, false⟩ (lit 3) .lt false false .none) := by decide +kernel

theorem test_decode_predicates : decodeWords [0b0011110_0000011_0000001_0000010_0_0_0_0, 0b0000100_10010110_0_0_0000_00000000000] =
    some (.plog 3 1 2 4 0x96) := by decide +kernel

theorem test_decode_fields : decodeWords [0b0011010_0000011_0000101_0000000_0_0_0_0, 0b0000000_00000001_0_0_0000_001000_00100] =
    some (.bfx (v 3) (r 5) true (.imm 4 8)) := by decide +kernel

theorem test_decode_float : decodeWords [0b0100011_0000011_0000101_0000110_0_0_0_0, 0b0000111_00000001_0_0_0000_00000000000] =
      some (.ffma (v 3) (r 5) (r 6) (r 7) true false .fpcr) ∧
    decodeWords [0b0110101_0001000_0000010_0000110_0_0_0_0, 0b0000000_00000001_0_0_0000_00000000000] = some (.dmax (v 8) (r 2) (r 6)) := by decide +kernel

theorem test_decode_lanes : decodeWords [0b1000111_0000101_0000000_0000001_0_0_0_0] = some (.leadLast 5) := by decide +kernel

theorem test_decode_memory : decodeWords [0b1010010_0000100_0000010_0000010_0010] = some (.ld4 (v 4) (v 2) 2 2) ∧
    decodeWords [0b1011101_0000010_0000000_0000011_0_0_0_0] = some (.ldwp (v 2) 3) := by decide +kernel

theorem test_decode_tiles : decodeWords [0b1100001_0000010_0000000_0000001_0_0_0_0] = some (.tzero 130) := by decide +kernel

theorem test_decode_cluster : decodeWords [0b1101110_0000000_0000101_0000000_0_0_0_0, 0b0000000_00010011_0_0_0000_00000000000] =
    some (.cbarSync 3 (r 5)) := by decide +kernel

theorem test_decode_die : decodeWords [0b1110010_0000000_0000110_0000000_0_0_0_0, 0b0000000_00000001_0_0_0000_00000000000] = some (.merge (r 6) true) ∧
    decodeWords [0b1110100_0000000_0000100_0000110_0_0_0_0, 0b0000000_00000010_0_0_0000_00000000000] = some (.kst 2 (r 4) (r 6)) ∧
    decodeWords [0b1110111_0000000_0000100_0000000_0_0_0_0, 0] = some (.launch (r 4)) := by decide +kernel

theorem test_decode_control : decodeWords [0b1111000_0000000000000000000000010] = some (.bra 2) ∧
    decodeWords [0b1111100_0000000_0000000_0000000_0_0_0_0, 0b0000000_00000001_0_0_0000_00000000000] = some .exit := by decide +kernel

theorem test_decode_traps : decodeWords [0b1111110_0000011_0000000_0000011_0_0_0_0] = some (.emret 3) ∧
    decodeWords [0b1111110_0000101_0000000_0000000_0_0_0_0] = some (.trap 5) := by decide +kernel

/-- The prefixes (R67, R70), and words of reserved codes. -/
theorem test_decode_prefixes : decodeWords [0b1111111_10_00_00_010_00_00000000_0_0_0000] = some (.mem ⟨.relaxed, .team, .scratch, 0, 0, false, false, 0⟩) ∧
    decodeWords [0b0110110_0000000_0000000_0000000_0_0_0_0] = none ∧ decodeWords [1] = none := by decide +kernel

/-! ## Single steps on the loader's machine -/

/-- A register's word in a lane after one step on an instruction; the inner `none` is an unmapped or tagged word. -/
def wordAfter (n w nm lane : Nat) : Option (Option Word) := match step (State.reset.withFetchWord n w) with
  | .next t => t.crews.head?.map fun (c : Crew) => c.val (.v nm) lane
  | _ => none

/-- `IADDI v1, lid, #20` (R53, R95): lane 3 holds 23. -/
theorem test_step_iaddi : wordAfter 32 0x0C07E828 1 3 = some (some 23) := by decide +kernel

/-- `MOVI v2, #-1` (R92): the immediate is sign-extended. -/
theorem test_step_movi : wordAfter 32 0b0000010_0000010_111111111111111111 2 0 = some (some 0xFFFFFFFF) := by decide +kernel

/-- `IADD v3, v1, lid` on unmapped `v1`, which reads 0x7FA5_A5A5 (R59), in lane 7. -/
theorem test_step_iadd_tagged : wordAfter 32 0b0000100_0000011_0000001_1111101_0_0_0_0 3 7 = some (some 0x7FA5A5AC) := by decide +kernel

/-- Where a lane's PC stands after one step. -/
def pcAfter (n w lane : Nat) : Option Nat := match step (State.reset.withFetchWord n w) with
  | .next t => (t.crews.head?.bind fun (c : Crew) => c.lane lane).map (·.pc)
  | _ => none

/-- `BRA +2` (R110): to the issue's own address and 8 more. -/
theorem test_step_bra : pcAfter 32 0xF0000002 0 = some (codeVa + 8) := by decide +kernel

/-- `NOP` (R91): the next word. -/
theorem test_step_nop : pcAfter 32 0 5 = some (codeVa + 4) := by decide +kernel
end Sys2Proof.Tests
end

section
/-! PROOFS. The lane network within sub-groups: NBR and SHFL (R157, R160, R166, R167). -/

namespace Sys2Proof.Machine

/-! ## Sub-groups (R157) -/

theorem mem_groupOf {act : LaneMask} {w l m : Nat} : m ∈ groupOf act w l ↔ has act m = true ∧ m / w = l / w := by
  simp [groupOf, mem_lanesOf]

/-- The lanes of a sub-group stand in ascending order. -/
theorem groupOf_ascending (act : LaneMask) (w l : Nat) : (groupOf act w l).Pairwise (· < ·) :=
  (List.pairwise_lt_range.filter _).filter _

/-- In a list ordered by a relation, an element that no other precedes comes first. -/
theorem head?_eq_of_pairwise {α : Type} {R : α → α → Prop} {g : List α} {m : α} (hg : g.Pairwise R) (hm : m ∈ g)
    (hfirst : ∀ n ∈ g, ¬ R n m) : g.head? = some m := by
  cases g with
  | nil => cases hm
  | cons x xs =>
    rcases List.mem_cons.mp hm with rfl | hxs
    · rfl
    · exact absurd (List.rel_of_pairwise_cons hg hxs) (hfirst x List.mem_cons_self)

/-- In a list ordered by a relation, an element that precedes no other comes last. -/
theorem getLast?_eq_of_pairwise {α : Type} {R : α → α → Prop} {g : List α} {m : α} (hg : g.Pairwise R) (hm : m ∈ g)
    (hlast : ∀ n ∈ g, ¬ R m n) : g.getLast? = some m := by
  rw [← List.head?_reverse]
  exact head?_eq_of_pairwise (List.pairwise_reverse.mpr hg) (List.mem_reverse.mpr hm)
    fun n hn => hlast n (List.mem_reverse.mp hn)

/-! ## Neighbours (R160) -/

/-- Lane `n` lies beyond lane `m` in the direction of NBR. -/
def Beyond (right : Bool) (m n : Nat) : Prop := if right then m < n else n < m

/-- The neighbour of a lane: the first lane of ACTIVE in its sub-group that lies beyond it. -/
def nbrLane (right : Bool) (act : LaneMask) (w l : Nat) : Option Nat :=
  if right then ((groupOf act w l).filter (l < ·)).head? else ((groupOf act w l).filter (· < l)).getLast?

/-- The lane of ACTIVE that `.wrap` takes at the edge: the one of the sub-group that all others lie beyond. -/
def farEnd (right : Bool) (act : LaneMask) (w l : Nat) : Option Nat :=
  if right then (groupOf act w l).head? else (groupOf act w l).getLast?

/-- What NBR gives a lane. -/
def nbrWord (right : Bool) (bnd : Bnd) (w : Nat) (act : LaneMask) (o : Opn) (l : Nat) : Word :=
  match nbrLane right act w l with
  | some m => o.wa m
  | none => edge bnd (o.wa l) (o.wa ((farEnd right act w l).getD l))

section
variable {right : Bool} {act : LaneMask} {w l m : Nat}

theorem nbrLane_eq_some (hm : m ∈ groupOf act w l) (hb : Beyond right l m)
    (hnear : ∀ n ∈ groupOf act w l, Beyond right l n → ¬ Beyond right n m) : nbrLane right act w l = some m := by
  cases right
  · refine getLast?_eq_of_pairwise ((groupOf_ascending act w l).filter _) (List.mem_filter.mpr ⟨hm, decide_eq_true hb⟩) ?_
    intro n hn
    obtain ⟨hng, hnl⟩ := List.mem_filter.mp hn
    exact hnear n hng (by simpa [Beyond] using hnl)
  · refine head?_eq_of_pairwise ((groupOf_ascending act w l).filter _) (List.mem_filter.mpr ⟨hm, decide_eq_true hb⟩) ?_
    intro n hn
    obtain ⟨hng, hnl⟩ := List.mem_filter.mp hn
    exact hnear n hng (by simpa [Beyond] using hnl)

theorem nbrLane_eq_none (hedge : ∀ m ∈ groupOf act w l, ¬ Beyond right l m) : nbrLane right act w l = none := by
  cases right
  · exact List.getLast?_eq_none_iff.mpr (List.filter_eq_nil_iff.mpr fun m hm => by simpa [Beyond] using hedge m hm)
  · exact List.head?_eq_none_iff.mpr (List.filter_eq_nil_iff.mpr fun m hm => by simpa [Beyond] using hedge m hm)

theorem farEnd_eq_some (hm : m ∈ groupOf act w l) (hfar : ∀ n ∈ groupOf act w l, ¬ Beyond right n m) :
    farEnd right act w l = some m := by
  cases right
  · exact getLast?_eq_of_pairwise (groupOf_ascending act w l) hm hfar
  · exact head?_eq_of_pairwise (groupOf_ascending act w l) hm hfar

end

theorem nbr_computes (d : Rn) (a : Src) (right : Bool) (bnd : Bnd) (w : SubW) :
    Computes (.nbr d a right bnd w) (shapeA d a)
      (fun c i o => toReg (shapeA d a) c i fun l => (nbrWord right bnd (subWidth w) i.act o l).zeroExtend 64) (wideFor w) :=
  computes_dst (fun _ i o l => zx (nbrWord right bnd (subWidth w) i.act o l)) (fun _ => rfl) (fun _ _ _ => rfl)

/-! ## SHFL (R166, R167) -/

/-- The index of SHFL: signed for SLIDE, else unsigned; an immediate has its low six bits alone, but for SLIDE (R166). -/
def shflIndex (idx : ShIdx) (mode : ShMode) (b : Word) : Int :=
  match idx, mode with
  | .reg _, .slide => b.toInt
  | .reg _, _ => (b.toNat : Int)
  | .imm k, .slide => k.toInt
  | .imm k, _ => (k.toNat % 64 : Nat)

/-- The exact source position that index `n` gives position `p`, before it is reduced modulo the width (R167). -/
def shflTarget (mode : ShMode) (p : Nat) (n : Int) : Int :=
  match mode with
  | .pick => n
  | .slide => p + n
  | .flip => (p ^^^ n.toNat : Nat)
  | .turn => p + n

/-- The index is in range for width `w` (R167). -/
def shflInRange (mode : ShMode) (w p : Nat) (n : Int) : Bool :=
  match mode with
  | .pick => n < w
  | .slide => 0 ≤ shflTarget .slide p n && shflTarget .slide p n < w
  | .flip => n < w
  | .turn => true

/-- The lane of the sub-group of `l` that SHFL's index selects. -/
def shflLane (idx : ShIdx) (mode : ShMode) (w : Nat) (o : Opn) (l : Nat) : Nat :=
  l / w * w + (shflTarget mode (l % w) (shflIndex idx mode (o.wb l)) % w).toNat

/-- But for SLIDE the model's unsigned index is the index. -/
theorem shflIdx_snd (idx : ShIdx) {mode : ShMode} (b : Word) (hm : mode ≠ .slide) :
    ((shflIdx idx b).2 : Int) = shflIndex idx mode b := by
  cases mode with
  | slide => exact absurd rfl hm
  | pick | flip | turn => cases idx <;> rfl

/-- For SLIDE the model's signed index is the index. -/
theorem shflIdx_fst (idx : ShIdx) (b : Word) : (shflIdx idx b).1 = shflIndex idx .slide b := by
  cases idx <;> rfl

/-- The model's position is the exact one reduced modulo the width. -/
theorem shflPos_eq (idx : ShIdx) (mode : ShMode) (w p : Nat) (b : Word) :
    shflPos mode w p (shflIdx idx b).1 (shflIdx idx b).2 =
      ((shflTarget mode p (shflIndex idx mode b) % w).toNat, shflInRange mode w p (shflIndex idx mode b)) := by
  cases mode with
  | pick =>
    rw [← shflIdx_snd idx b (by decide)]
    simp only [shflPos, shflTarget, shflInRange, ← Int.natCast_mod, Int.toNat_natCast, Nat.cast_lt]
  | slide =>
    rw [shflIdx_fst]
    exact Prod.ext rfl Bool.decide_eq_true
  | flip =>
    rw [← shflIdx_snd idx b (by decide)]
    simp only [shflPos, shflTarget, shflInRange, ← Int.natCast_mod, Int.toNat_natCast, Nat.cast_lt]
  | turn =>
    rw [← shflIdx_snd idx b (by decide)]
    simp only [shflPos, shflTarget, shflInRange, ← Nat.cast_add, ← Int.natCast_mod, Int.toNat_natCast]

/-- SHFL reads the lane that its index selects, and the lane's own value where that lane is not in ACTIVE. -/
theorem shflFrom_eq (idx : ShIdx) (mode : ShMode) (w : Nat) (act : LaneMask) (o : Opn) (l : Nat) :
    shflFrom idx mode w act o l =
      (if has act (shflLane idx mode w o l) then shflLane idx mode w o l else l,
        shflInRange mode w (l % w) (shflIndex idx mode (o.wb l)) && has act (shflLane idx mode w o l)) := by
  unfold shflFrom
  simp only [shflPos_eq, ← Nat.div_mul_self_eq_mod_sub_self]
  change (if has act (shflLane idx mode w o l) = true then _ else _) = _
  cases has act (shflLane idx mode w o l) <;> simp [shflLane]

/-- The operands of SHFL: A, and B where the index is a register. -/
def shflShape (d : Rn) (a : Src) (idx : ShIdx) : Shape :=
  ⟨some (d, 1), useA a :: match idx with
    | .reg b => [useB b]
    | .imm _ => []⟩

/-- The value of predicate `q` of lane `n` after SHFL: where it is pC, whether the index was in range and the lane in
ACTIVE. -/
def shflPred (idx : ShIdx) (mode : ShMode) (w : Nat) (pc : Option Nat) (act : LaneMask) (o : Opn) (n : Nat) (l : Lane)
    (q : Nat) : Bool :=
  match pc with
  | some p =>
    setOne p (shflInRange mode w (n % w) (shflIndex idx mode (o.wb n)) && has act (shflLane idx mode w o n)) l q
  | none => l.pred q

theorem shfl_computes (d : Rn) (a : Src) (idx : ShIdx) (mode : ShMode) (w : SubW) (pc : Option Nat) :
    Computes (.shfl d a idx mode w pc) (shflShape d a idx) (fun c i o =>
      { toReg (shflShape d a idx) c i (fun l => (if has i.act (shflLane idx mode (subWidth w) o l)
          then o.wa (shflLane idx mode (subWidth w) o l) else o.wa l).zeroExtend 64) with
        pred := shflPred idx mode (subWidth w) pc i.act o }) (wideFor w) := by
  have hval (act : LaneMask) (o : Opn) (l : Nat) : o.wa (shflFrom idx mode (subWidth w) act o l).1 =
      if has act (shflLane idx mode (subWidth w) o l) then o.wa (shflLane idx mode (subWidth w) o l) else o.wa l := by
    rw [shflFrom_eq]; split <;> rfl
  have hok (act : LaneMask) (o : Opn) (l : Nat) : (shflFrom idx mode (subWidth w) act o l).2 =
      (shflInRange mode (subWidth w) (l % subWidth w) (shflIndex idx mode (o.wb l)) &&
        has act (shflLane idx mode (subWidth w) o l)) := by
    rw [shflFrom_eq]
  cases pc with
  | none =>
    have h := computes_dst (ins := .shfl d a idx mode w none) (sh := shflShape d a idx) (bad := wideFor w)
      (fun _ i o l => zx (o.wa (shflFrom idx mode (subWidth w) i.act o l).1)) (fun _ => rfl) (fun _ _ _ => rfl)
    simp only [hval] at h
    exact h
  | some p =>
    have h := computes_dst_pred (ins := .shfl d a idx mode w (some p)) (sh := shflShape d a idx) (bad := wideFor w) p
      (fun _ i o l => zx (o.wa (shflFrom idx mode (subWidth w) i.act o l).1))
      (fun _ i o l _ => (shflFrom idx mode (subWidth w) i.act o l).2) (fun _ => rfl) (fun _ _ _ => rfl) (fun _ _ _ => rfl)
    simp only [hval, hok] at h
    exact h

/-! ## The statement -/

/-- Settles O9: NBR finds its neighbour as the first of the ordered lanes beyond its own, and SHFL's source lane is the
exact position reduced modulo the width. -/
theorem neighbourAndShuffleResults : Obligations.NeighbourAndShuffleResults := by
  intro d a right bnd w idx mode pc
  refine ⟨⟨nbrWord right bnd (subWidth w), nbr_computes d a right bnd w, fun act o l hl => ⟨?_, ?_⟩⟩, ?_⟩
  · intro m hm hb hnear
    have hn : nbrLane right act (subWidth w) l = some m :=
      nbrLane_eq_some (mem_groupOf.mpr hm) hb fun n hn => hnear n (mem_groupOf.mp hn)
    simp only [nbrWord, hn]
  · intro hedge
    have hn : nbrLane right act (subWidth w) l = none := nbrLane_eq_none fun m hm => hedge m (mem_groupOf.mp hm)
    cases bnd with
    | zero => simp only [nbrWord, hn, edge]
    | own => simp only [nbrWord, hn, edge]
    | wrap =>
      intro m hm hfar
      have hf : farEnd right act (subWidth w) l = some m :=
        farEnd_eq_some (mem_groupOf.mpr hm) fun n hn => hfar n (mem_groupOf.mp hn)
      simp only [nbrWord, hn, hf, edge, Option.getD_some]
  · cases idx <;> cases mode <;> exact shfl_computes d a _ _ w pc

end Sys2Proof.Machine
end

section
/-! PROOFS. TRAP and BKPT (R185). The statement speaks of every state, also of one whose issue names a lane without a thread
as its lowest: there the trap is not delivered as the statement says. -/

namespace Sys2Proof.Machine

/-! ## An issue whose lowest lane holds no thread -/

/-- An issue of `TRAP 5` in lanes 0 and 1, with lane 1 in ACTIVE. -/
def strayIssue : Issue :=
  { crew := 2, s := 0x3, act := 0x2, pc := codeVa, raw := ⟨[], 0b1111110_0000101_0000000_0000000_0_0_0_0, none, none⟩,
    grd := none, mem := none, mask := 0, entry := none, chosen := 0x3, yl := 0, elig := 0xFF }

/-- A thread one level deep whose segment has ended. -/
def endedLane (l : Lane) : Lane :=
  { l with depth := 1, saves := [⟨none, codeVa⟩], ending := some ⟨codeVa, 0, none, .none, true, none, false, none⟩ }

/-- A crew whose lane 0 holds no thread and whose lane 1 has ended its segment in a handler, which K1 says is an emulation's;
the other lanes are in kernel code. -/
def withStray (c : Crew) : Crew :=
  { c with
    lanes := c.lanes.mapIdx fun n l => if n = 0 then none else if n = 1 then l.map endedLane else l
    lv := { c.lv with k1 := true } }

/-- The loader's machine with such a crew, a trap handler, and the issue in progress. -/
def strayState : State :=
  let s := State.reset.withProgram
  { s with
    crews := s.crews.map withStray
    ctxs := s.ctxs.map fun x => { x with d := { x.d with trapvec := codeVa } }
    cur := some strayIssue }

/-- Its crew, and the crew's context. -/
def strayCrew : Crew := (strayState.crew? 2).getD default
def strayCtx : Ctx := (strayState.ctx? strayCrew.ctx).getD default

theorem strayState_inProgress : InProgress strayState strayIssue strayCrew := ⟨rfl, by decide +kernel⟩

theorem strayState_ready : Ready strayState strayIssue strayCrew ⟨none, []⟩ fine true where
  toInProgress := strayState_inProgress
  checks := .inr (passesB_spec (by decide +kernel))
  tags := .inr (untaggedB_spec (by decide +kernel))
  room := hasRoomB_spec rfl

theorem strayCrew_quiet : strayCrew.quiet := by
  have hpipe : strayCrew.pipe = Pipe.fresh := by decide +kernel
  simp [Crew.quiet, hpipe, Pipe.fresh]

/-- Lane 0 tells no depth, so that of the issuing lanes is the depth at which the crew issues, to which lane 1, whose segment
has ended, does not count. -/
theorem strayCrew_depthAt : strayCrew.depthAt strayIssue.s = 0 := by decide +kernel

theorem strayCtx_found : strayState.ctx? strayCrew.ctx = some strayCtx := by decide +kernel

theorem strayCrew_mayTrap : strayCrew.mayTrap strayCtx strayIssue.s := by
  have hvec : strayCtx.d.trapvec ≠ 0 := by decide +kernel
  simp [Crew.mayTrap, strayCrew_depthAt, hvec]

/-- The state after an instruction that executes. -/
def stateAfter (ins : Instr) (s : State) : Option State :=
  match exec ins s with
  | .next t => some t
  | _ => none

theorem stateAfter_of_next {ins : Instr} {s t : State} (h : exec ins s = .next t) : stateAfter ins s = some t := by
  rw [stateAfter, h]

/-- `Crew.revive` takes back the ends of the issuing lanes before the entry sets the levels (R179): lane 1 then counts, the depth
is 1, and K1 stays set. -/
theorem k1_after_strayTrap : ((stateAfter (.trap 5) strayState).bind (·.crew? 2)).map (·.lv.k1) = some true := by decide +kernel

/-! ## The statement -/

/-- An entry from kernel code sets K1 by its kind: a trap entry clears it (R174, R181). -/
theorem Entered.k1_of_depthAt_zero {c e : Crew} {m : LaneMask} {k : Ckpt} {emul : Bool} {vec : Nat}
    (h : Entered c e m k emul vec) (hd : c.depthAt m = 0) : e.lv.k1 = emul := by
  have hl := h.levels
  rw [if_pos hd] at hl
  exact hl.1

/-- Refutes O19: its trap form asks that a `TRAP` at depth 0 clears K1, for every state in which the issue executes, also one
whose issuing lanes begin with a lane without a thread. In `strayState` those lanes are at depth 0 when `TRAP 5` issues, but
its delivery takes back the end of lane 1, one level deep, before it sets the levels, and leaves K1 set. -/
theorem not_trapInstructions : ¬ Obligations.TrapInstructions := by
  intro ⟨_, htrap, _⟩
  obtain ⟨_, htraps⟩ := htrap 5
  obtain ⟨e, t, hnext, ⟨_, hcrew, _⟩, htook, _⟩ := htraps strayState strayIssue strayCrew strayCtx strayState_ready rfl
    ⟨by decide, rfl⟩ strayCrew_quiet strayCtx_found strayCrew_mayTrap (by decide)
  have hclear : e.lv.k1 = false := htook.toEntered.k1_of_depthAt_zero strayCrew_depthAt
  have hset : some e.lv.k1 = some true := by
    rw [← k1_after_strayTrap, stateAfter_of_next hnext, Option.bind_some, show t.crew? 2 = some e from hcrew, Option.map_some]
  rw [hclear] at hset
  cases hset

end Sys2Proof.Machine
end

section
/-! PROOFS. Matrix operations (R257 to R262): placing them in the queues of their targets, and performing one. -/

namespace Sys2Proof.Machine

/-! ## Issues that write nothing of their crew -/

theorem Crew.spent_advance_id (c : Crew) (i : Issue) (sh : Shape) (e : Entry) : ((c.spent i sh).advance i e).id = c.id := by
  obtain ⟨lanes, sel, pipe, hadv⟩ := (c.spent i sh).advance_rest i e
  obtain ⟨regs, held, hsp⟩ := c.spent_rest i sh false
  rw [hadv, hsp]

/-- An issue that writes nothing frees, and moves its crew on. -/
theorem wrote_noWrites (c : Crew) (i : Issue) (sh : Shape) (e : Entry) :
    Wrote c ((c.spent i sh).advance i e) i sh (noWrites c) := by
  refine wrote_of (x := noWrites c) e (fun _ l => l) ?_ ?_ (fun _ l => ⟨l.preds, rfl⟩) (fun _ _ _ _ => rfl)
  · rw [show (noWrites c).fpcr = (c.spent i sh).fpcr from (fpcr_spent c i sh false).symm]
    rfl
  · simp

/-- An issue whose whole effect on its crew is that it moves on leaves every other crew. -/
theorem State.retired_crew {s : State} {i : Issue} {c : Crew} (h : s.crew? i.crew = some c) (sh : Shape) (o : Opn) :
    ∃ e, CrewAt s (s.retired i sh o fun c _ => c) i.crew e ∧ Wrote c e i sh (noWrites c) := by
  have hid : ∀ d : Crew, d.id = i.crew → ((d.spent i sh).advance i (entryOf d i o)).id = i.crew :=
    fun d hd => (d.spent_advance_id i sh _).trans hd
  refine ⟨(c.spent i sh).advance i (entryOf c i o), ⟨?_, fun j hj => ?_⟩, wrote_noWrites c i sh _⟩
  · simp [State.retired, State.crew?_updCrew _ _ _ hid, h, State.crew?_id h]
  · rw [State.retired, State.crew?_updCrew _ _ _ hid]
    cases hc : s.crew? j with
    | none => rfl
    | some d => simp [State.crew?_id hc, hj]

/-! ## Placing operations (R259, R262) -/

/-- The operation that an issue places for the target `u`, the `n`th of its targets. -/
def State.mmaPlaced (s : State) (c : Crew) (t : Team) (a : MmaAsk) (n u : Nat) : MxOp :=
  let shape := ((s.team? u).bind (·.tile? a.tile)).map fun x => (x.rows, x.cols)
  ⟨s.clock.nextId + n, t.uid, c.id, u, a.tile, a.ty, a.scaled, a.acc, a.a, a.b, a.sc,
    (shape.map (·.1)).getD 0, (shape.map (·.2)).getD 0⟩

/-- The state with an operation in the queue of every target. -/
def State.mmaQueued (s : State) (c : Crew) (t : Team) (a : MmaAsk) (ts : List Nat) : State :=
  { s with clock := { s.clock with nextId := s.clock.nextId + ts.length },
           eng := { s.eng with mxops := s.eng.mxops ++ ts.mapIdx (s.mmaPlaced c t a) } }

theorem State.queueMma_of_room {s : State} {ts : List Nat} (c : Crew) (t : Team) (a : MmaAsk)
    (hroom : ∀ u ∈ ts, (s.eng.mxops.filter (·.target == u)).length < 16) :
    s.queueMma c t a ts = some (s.mmaQueued c t a ts) := by
  have hfull : (ts.any fun u => 16 ≤ (s.eng.mxops.filter (·.target == u)).length) = false :=
    List.any_eq_false.mpr fun u hu => by simpa using hroom u hu
  rw [State.queueMma, hfull]
  rfl

theorem settleOne_run_ok {α : Type} {s : State} {i : Issue} {c : Crew} (h : InProgress s i c) (o : Opn) (lane : Nat) (x : α) :
    EStateM.run (settleOne o lane (.ok x)) s = .ok x s := by
  rw [settleOne, run_bind (theIssue_run h.cur), run_bind (theCrew_run h)]
  rfl

/-- What MMAB asks for, with its descriptors as read at issue (R258, R259). -/
def mmabAsk (tile : BitVec 8) (ty : MmabTy) (acc : Bool) (s : State) (u : Nat) (o : Opn) : MmaAsk :=
  let sc := s.scrWords u (o.wc 0).toNat 8
  let there := (o.wc 0).toNat % 32 == 0 && (o.wc 0).toNat + 32 ≤ s.scrSize u
  ⟨tile.toNat, mmabTy ty, some ty, acc, s.scrWords u (o.wa 0).toNat 4, s.scrWords u (o.wb 0).toNat 4, sc,
    if there then wd sc 4 else 0⟩

section
variable {s : State} {i : Issue} {c : Crew} {sh : Shape} {tile : BitVec 8} {ask : State → Nat → Opn → MmaAsk} {scale : Bool}

/-- With no lane in ACTIVE a matrix issue moves its crew on, and that is all. -/
theorem matrixOp_idle (h : Ready s i c sh (tileBad tile.toNat) true) (hact : i.act = 0) :
    Act.run (matrixOp tile sh ask scale) s = .next (s.retired i sh (i.opn c sh) fun c _ => c) := by
  refine act_next ?_
  rw [matrixOp, run_bind (begin'_run h), run_bind (theIssue_run h.cur), run_bind (theCrew_run h.toInProgress), run_bind (run_get s)]
  simp only [hact, beq_self_eq_true]
  exact finish_run h.cur sh _ _ _

/-- A matrix issue whose checks pass, with room in every target's queue, places its operations there and moves its crew on. -/
theorem matrixOp_places {tm : Team} {ts : List Nat} (h : Ready s i c sh (tileBad tile.toNat) true) (hact : i.act ≠ 0)
    (ht : s.team? (c.tileTeam i) = some tm)
    (hchk : s.mmaChk tm (ask s tm.uid (i.opn c sh))
      (((i.opn c sh).wa 0).toNat % 16 != 0 || ((i.opn c sh).wb 0).toNat % 16 != 0 || (scale && ((i.opn c sh).wc 0).toNat % 32 != 0))
      (tm.res.ssize < ((i.opn c sh).wa 0).toNat + 16 || tm.res.ssize < ((i.opn c sh).wb 0).toNat + 16 ||
        (scale && tm.res.ssize < ((i.opn c sh).wc 0).toNat + 32)) = .ok ts)
    (hroom : ∀ u ∈ ts, (s.eng.mxops.filter (·.target == u)).length < 16) :
    Act.run (matrixOp tile sh ask scale) s =
      .next ((s.mmaQueued c tm (ask s tm.uid (i.opn c sh)) ts).retired i sh (i.opn c sh) fun c _ => c) := by
  refine act_next ?_
  rw [matrixOp, run_bind (begin'_run h), run_bind (theIssue_run h.cur), run_bind (theCrew_run h.toInProgress), run_bind (run_get s)]
  simp only [beq_eq_false_iff_ne.mpr hact, ht]
  rw [hchk, run_bind (settleOne_run_ok h.toInProgress _ 0 ts)]
  simp only [State.queueMma_of_room _ _ _ hroom]
  rw [run_bind (run_set _ _)]
  exact finish_run (s := s.mmaQueued c tm (ask s tm.uid (i.opn c sh)) ts) h.cur sh _ _ _

end

theorem State.mmaPlaced_shape {s : State} {u : Nat} {a : MmaAsk} {x : Tile} (c : Crew) (t : Team) (n : Nat)
    (hx : (s.team? u).bind (·.tile? a.tile) = some x) :
    (s.mmaPlaced c t a n u).rows = x.rows ∧ (s.mmaPlaced c t a n u).cols = x.cols := by
  simp [State.mmaPlaced, hx]

/-- One operation for each target, in the order of the targets. -/
theorem State.map_target_mmaPlaced (s : State) (c : Crew) (t : Team) (a : MmaAsk) (ts : List Nat) :
    (ts.mapIdx (s.mmaPlaced c t a)).map (·.target) = ts := by
  refine List.ext_getElem? fun n => ?_
  rw [List.getElem?_map, List.getElem?_mapIdx, Option.map_map]
  exact Option.map_id_apply

theorem execMmab_eq (tile : BitVec 8) (a b c : Src) (ty : MmabTy) (acc : Bool) (s : State) :
    execMmab tile a b c ty acc s = Act.run (matrixOp tile ⟨none, [useA a, useB b, useC c]⟩ (mmabAsk tile ty acc) true) s := rfl

/-- Where the scale descriptor lies in the allocation, MMAB takes its mask from it (R258). -/
theorem mmabAsk_eq {s : State} {tm : Team} {u : Nat} {o : Opn} (tile : BitVec 8) (ty : MmabTy) (acc : Bool)
    (ht : s.team? u = some tm) (hC : (o.wc 0).toNat % 32 = 0) (hsize : (o.wc 0).toNat + 32 ≤ tm.res.ssize) :
    mmabAsk tile ty acc s u o = ⟨tile.toNat, mmabTy ty, some ty, acc, s.scrWords u (o.wa 0).toNat 4,
      s.scrWords u (o.wb 0).toNat 4, s.scrWords u (o.wc 0).toNat 8, wd (s.scrWords u (o.wc 0).toNat 8) 4⟩ := by
  simp [mmabAsk, State.scrSize, ht, hC, hsize]

/-! ## Waking waiters leaves tiles, memory and engines (R274) -/

/-- The two states hold the same memory and engine work, and their teams the same tiles. -/
structure TilesKept (s t : State) : Prop where
  mem : t.mem = s.mem
  eng : t.eng = s.eng
  tiles : ∀ k, (t.team? k).map (·.tiles) = (s.team? k).map (·.tiles)

theorem TilesKept.refl (s : State) : TilesKept s s := ⟨rfl, rfl, fun _ => rfl⟩

theorem TilesKept.trans {s t u : State} (h : TilesKept s t) (g : TilesKept t u) : TilesKept s u :=
  ⟨g.mem.trans h.mem, g.eng.trans h.eng, fun k => (g.tiles k).trans (h.tiles k)⟩

/-- A team's tile is found again where the tiles are kept. -/
theorem TilesKept.tile? {s t : State} {k n : Nat} {tm : Team} {x : Tile} (h : TilesKept s t) (ht : s.team? k = some tm)
    (hx : tm.tile? n = some x) : ∃ tm', t.team? k = some tm' ∧ tm'.tile? n = some x := by
  have htiles := h.tiles k
  rw [ht] at htiles
  obtain ⟨tm', ht', heq⟩ := Option.map_eq_some_iff.mp htiles
  refine ⟨tm', ht', ?_⟩
  rw [← hx, Team.tile?, heq, Team.tile?]

theorem tilesKept_updTeam (s : State) (k : Nat) (f : Team → Team) (hf : ∀ t, (f t).uid = t.uid ∧ (f t).tiles = t.tiles) :
    TilesKept s (s.updTeam k f) := by
  refine ⟨rfl, rfl, fun n => ?_⟩
  rw [State.team?_updTeam _ _ _ fun t ht => (hf t).1.trans ht]
  cases s.team? n with
  | none => rfl
  | some t => by_cases h : t.uid = k <;> simp [h, (hf t).2]

theorem tilesKept_updBars (s : State) (t : Team) (cluster : Bool) (f : List Bar → List Bar) :
    TilesKept s (s.updBars t cluster f) := by
  unfold State.updBars
  split
  · split
    · exact ⟨rfl, rfl, fun _ => rfl⟩
    · exact tilesKept_updTeam s _ _ fun _ => ⟨rfl, rfl⟩
  · exact tilesKept_updTeam s _ _ fun _ => ⟨rfl, rfl⟩

theorem tilesKept_clearWaiter (s : State) (r : Rec) : TilesKept s (s.clearWaiter r) := by
  unfold State.clearWaiter
  split
  · exact tilesKept_updBars s _ _ _
  · exact tilesKept_updBars s _ _ _
  · exact .refl s

theorem tilesKept_clearWaiters (rs : List Rec) (s : State) : TilesKept s (rs.foldl State.clearWaiter s) := by
  induction rs generalizing s with
  | nil => exact .refl s
  | cons r rs ih => exact (tilesKept_clearWaiter s r).trans (ih _)

theorem tilesKept_rewake (s : State) : TilesKept s s.rewake :=
  (tilesKept_clearWaiters _ s).trans ⟨rfl, rfl, fun _ => rfl⟩

/-! ## Elements of a tile after writes -/

/-- The two tiles differ in their elements alone. -/
structure SameShape (x y : Tile) : Prop where
  rest : y = { x with elems := y.elems }
  length : y.elems.length = x.elems.length

theorem SameShape.put {x y : Tile} (h : SameShape x y) (i j : Nat) (w : Word) : SameShape x (y.put i j w) := by
  obtain ⟨hy, hlen⟩ := h
  refine ⟨?_, by simpa [Tile.put, setNth] using hlen⟩
  rw [Tile.put, hy]

theorem SameShape.refl (x : Tile) : SameShape x x := ⟨rfl, rfl⟩

/-- The place of an element in row-major order tells its row and column. -/
theorem rowMajor_inj {i j k l w : Nat} (hj : j < w) (hl : l < w) (h : i * w + j = k * w + l) : i = k ∧ j = l := by
  have hrow : ∀ r n, n < w → (r * w + n) / w = r := fun r n hn => by
    rw [Nat.mul_comm, Nat.mul_add_div (by omega), Nat.div_eq_of_lt hn, Nat.add_zero]
  have hik : i = k := (hrow i j hj).symm.trans ((congrArg (· / w) h).trans (hrow k l hl))
  subst hik
  exact ⟨rfl, by omega⟩

section
variable {x y : Tile} {i j k l : Nat}

/-- The element just written reads as written, and the others as before. -/
theorem SameShape.at_put (hy : SameShape x y) (w : Word) (hty : x.ty = .f32) (hlen : x.elems.length = x.rows * x.cols)
    (hi : k < x.rows) (hj : j < x.cols) (hl : l < x.cols) :
    (y.put i j w).at k l = if i = k ∧ j = l then w else y.at k l := by
  obtain ⟨hxy, hyl⟩ := hy
  have htype : y.ty = .f32 := by rw [hxy, hty]
  have hcols : y.cols = x.cols := by rw [hxy]
  have hin : k * x.cols + l < y.elems.length := by
    rw [hyl, hlen]
    calc k * x.cols + l < k * x.cols + x.cols := by omega
      _ = (k + 1) * x.cols := (Nat.succ_mul _ _).symm
      _ ≤ x.rows * x.cols := Nat.mul_le_mul_right _ hi
  have hplace : i * x.cols + j = k * x.cols + l ↔ i = k ∧ j = l :=
    ⟨rowMajor_inj hj hl, fun ⟨hik, hjl⟩ => by rw [hik, hjl]⟩
  by_cases h : i = k ∧ j = l
  · obtain ⟨rfl, rfl⟩ := h
    simp [Tile.at, Tile.put, nth, setNth, htype, tyEs, hcols, hin]
  · simp [Tile.at, Tile.put, nth, setNth, hcols, List.getElem?_set_ne (mt hplace.mp h), h]

end

/-- In a fold whose steps keep an invariant, and where the step at `p` alone sets what `get` reads, to `v`. -/
theorem get_foldl {α β γ : Type} {f : β → α → β} {get : β → γ} {inv : β → Prop} {p : α} {v : γ}
    (hinv : ∀ z q, inv z → inv (f z q)) (hset : ∀ z, inv z → get (f z p) = v) {l : List α}
    (hkeep : ∀ z, ∀ q ∈ l, q ≠ p → inv z → get (f z q) = get z) {y : β} (hy : inv y) :
    (p ∈ l → get (l.foldl f y) = v) ∧ (p ∉ l → get (l.foldl f y) = get y) := by
  induction l generalizing y with
  | nil => simp
  | cons q qs ih =>
    obtain ⟨hin, hout⟩ := ih (fun z q hq => hkeep z q (List.mem_cons_of_mem _ hq)) (hinv y q hy)
    rw [List.foldl_cons]
    by_cases hqs : p ∈ qs
    · exact ⟨fun _ => hin hqs, fun h => absurd (List.mem_cons_of_mem _ hqs) h⟩
    · rw [hout hqs]
      by_cases hq : q = p
      · subst hq
        exact ⟨fun _ => hset y hy, fun h => absurd List.mem_cons_self h⟩
      · exact ⟨fun h => absurd (List.mem_of_ne_of_mem (Ne.symm hq) h) hqs,
          fun _ => hkeep y q List.mem_cons_self hq hy⟩

/-! ## The sums of one element (R261) -/

/-- The scaled sum of group `g` of element (i, j). -/
def State.mxGroup (s : State) (m : MxOp) (ta tb : Nat) (sa sb : Option Nat) (i j g : Nat) : Val :=
  let rowA := (opLoc (wd m.aDesc 0)).off + i * wd m.aDesc 1
  let rowB := (opLoc (wd m.bDesc 0)).off + j * wd m.bDesc 1
  let r := (List.range 32).map (32 * g + ·)
  let v := groupSum (r.map (s.opElem ta rowA m.ty)) (r.map (s.opElem tb rowB m.ty))
  match sa, sb with
  | some u, some w =>
    scaleV v (s.scrByte u ((opLoc (wd m.sDesc 0)).off + i * wd m.sDesc 1 + g)).toNat
      (s.scrByte w ((opLoc (wd m.sDesc 2)).off + j * wd m.sDesc 3 + g)).toNat
  | _, _ => v

theorem State.mxElem_eq_accumulate (s : State) (m : MxOp) (ta tb : Nat) (sa sb : Option Nat) (i j : Nat) (acc : Option Nat) :
    s.mxElem m ta tb sa sb i j acc =
      accumulate (m.ty = .f64) ((List.range (wd m.aDesc 2 % 2 ^ 16 / 32)).map (s.mxGroup m ta tb sa sb i j)) acc := rfl

/-- The sum of a group as a sum over the numbers of its elements. -/
theorem groupSum_map (f g : Nat → Val) (l : List Nat) :
    groupSum (l.map f) (l.map g) =
      if (l.map fun k => mulV (f k) (g k)).any (·.2) then .nan false
      else (sumV .rne ((l.map fun k => mulV (f k) (g k)).map (·.1))).1 := by
  rw [groupSum, List.zip_map', List.map_map]
  rfl

/-- One group added to the accumulator, with one rounding. -/
def accStep (f64 : Bool) (v : Nat) (g : Val) : Nat :=
  accRound f64 (sumV .rne [decodeF (if f64 then fp64 else fp32) v, g]).1

/-- From a number on, the groups are added one by one. -/
theorem accumulate_some (f64 : Bool) (gs : List Val) (v : Nat) : accumulate f64 gs (some v) = gs.foldl (accStep f64) v := by
  induction gs generalizing v with
  | nil => rfl
  | cons g gs ih => exact ih (accStep f64 v g)

theorem accumulate_none_cons (f64 : Bool) (g : Val) (gs : List Val) :
    accumulate f64 (g :: gs) none = gs.foldl (accStep f64) (accRound f64 g) := accumulate_some f64 gs _

/-- The accumulator before the sums, and the first group to add: with `.acc` the old element and group 0; without, group 0
rounded and group 1. -/
def accStart (f64 acc : Bool) (group : Nat → Val) (old : Nat) : Nat × Nat :=
  if acc then (old, 0) else (accRound f64 (group 0), 1)

/-- The sums of an element (R261) as a fold over the numbers of the groups that `accStart` leaves. -/
theorem accumulate_range (f64 acc : Bool) (group : Nat → Val) (old : Nat) {n : Nat} (hn : 0 < n) :
    accumulate f64 ((List.range n).map group) (if acc then some old else none) =
      ((List.range n).drop (accStart f64 acc group old).2).foldl (fun v g => accStep f64 v (group g))
        (accStart f64 acc group old).1 := by
  cases acc with
  | true =>
    rw [if_pos rfl, accumulate_some, List.foldl_map]
    rfl
  | false =>
    obtain ⟨k, rfl⟩ := Nat.exists_eq_add_one.mpr hn
    rw [List.range_succ_eq_map, List.map_cons, if_neg (by decide), accumulate_none_cons, List.foldl_map]
    rfl

/-! ## The tile after an operation -/

/-- Element (i, j) of a tile as the accumulator reads it: of type 5 the two words of R259. -/
def Tile.accAt (x : Tile) (f64 : Bool) (i j : Nat) : Nat :=
  if f64 then (x.at i (2 * j)).toNat + 2 ^ 32 * (x.at i (2 * j + 1)).toNat else (x.at i j).toNat

/-- What the operation makes of element (i, j). -/
def State.mxResult (s : State) (m : MxOp) (x : Tile) (ta tb : Nat) (sa sb : Option Nat) (i j : Nat) : Nat :=
  s.mxElem m ta tb sa sb i j (if m.acc then some (x.accAt (m.ty = .f64) i j) else none)

/-- Write element `p` of a tile. -/
def Tile.accPut (f64 : Bool) (r : Nat × Nat → Nat) (y : Tile) (p : Nat × Nat) : Tile :=
  if f64 then (y.put p.1 (2 * p.2) (BitVec.ofNat 32 (r p))).put p.1 (2 * p.2 + 1) (BitVec.ofNat 32 (r p / 2 ^ 32))
  else y.put p.1 p.2 (BitVec.ofNat 32 (r p))

/-- The elements of a matrix of `m` rows and `n` columns. -/
def cells (m n : Nat) : List (Nat × Nat) := (List.range m).flatMap fun i => (List.range n).map fun j => (i, j)

theorem mem_cells {m n : Nat} {p : Nat × Nat} : p ∈ cells m n ↔ p.1 < m ∧ p.2 < n := by
  obtain ⟨i, j⟩ := p
  simp [cells]

/-- An operation writes every element of its tile, and makes it dirty. -/
theorem State.mxTile_eq_foldl (s : State) (m : MxOp) (x : Tile) (ta tb : Nat) (sa sb : Option Nat) :
    s.mxTile m x ta tb sa sb =
      ((cells (mnOf m.ty x).1 (mnOf m.ty x).2).foldl
        (Tile.accPut (m.ty = .f64) fun p => s.mxResult m x ta tb sa sb p.1 p.2) x).dirty := by
  by_cases h : m.ty = .f64
  · simp only [State.mxTile, State.mxResult, Tile.accAt, h, decide_true, if_true]
    rfl
  · simp only [State.mxTile, State.mxResult, Tile.accAt, h, decide_false, if_false]
    rfl

section
variable {f64 : Bool} {x y : Tile} {r : Nat × Nat → Nat}

theorem SameShape.accPut (hy : SameShape x y) (p : Nat × Nat) : SameShape x (y.accPut f64 r p) := by
  cases f64 with
  | true => exact (hy.put _ _ _).put _ _ _
  | false => exact hy.put _ _ _

theorem SameShape.foldl_accPut (ps : List (Nat × Nat)) (hy : SameShape x y) : SameShape x (ps.foldl (Tile.accPut f64 r) y) := by
  induction ps generalizing y with
  | nil => exact hy
  | cons p ps ih => exact ih (hy.accPut p)

/-- The element just written reads as written, modulo its width, and the others as before. -/
theorem SameShape.accAt_accPut (hy : SameShape x y) (hty : x.ty = .f32) (hlen : x.elems.length = x.rows * x.cols)
    {p q : Nat × Nat} (hrow : q.1 < x.rows) (hp : p.2 < if f64 then x.cols / 2 else x.cols)
    (hq : q.2 < if f64 then x.cols / 2 else x.cols) :
    (y.accPut f64 r p).accAt f64 q.1 q.2 = if p = q then r p % (if f64 then 2 ^ 64 else 2 ^ 32) else y.accAt f64 q.1 q.2 := by
  simp only [Prod.ext_iff]
  cases f64 with
  | false =>
    have hread := hy.at_put (i := p.1) (BitVec.ofNat 32 (r p)) hty hlen hrow hp hq
    simp only [Tile.accAt, Tile.accPut, Bool.false_eq_true, if_false, hread]
    split
    · exact BitVec.toNat_ofNat _ _
    · rfl
  | true =>
    simp only [if_true] at hp hq
    have hread (b : Nat) (hb : b < 2) : ((y.accPut true r p).at q.1 (2 * q.2 + b)) =
        if p.1 = q.1 ∧ p.2 = q.2 then BitVec.ofNat 32 (r p / 2 ^ (32 * b)) else y.at q.1 (2 * q.2 + b) := by
      rw [Tile.accPut, if_pos rfl, (hy.put _ _ _).at_put _ hty hlen hrow (by omega) (by omega),
        hy.at_put _ hty hlen hrow (by omega) (by omega)]
      obtain rfl | rfl : b = 0 ∨ b = 1 := by omega
      · rw [if_neg (by omega)]
        simp
      · rw [if_neg (c := p.1 = q.1 ∧ 2 * p.2 = 2 * q.2 + 1) (by omega)]
        simp
    have hlow := hread 0 (by omega)
    have hhigh := hread 1 (by omega)
    simp only [Nat.add_zero] at hlow
    simp only [Tile.accAt, if_true, hlow, hhigh]
    split
    · simp only [BitVec.toNat_ofNat]
      omega
    · rfl

/-- Once every element is written, each reads as written, modulo its width. -/
theorem accAt_foldl_accPut (hty : x.ty = .f32) (hlen : x.elems.length = x.rows * x.cols) {i j : Nat} (hi : i < x.rows)
    (hj : j < if f64 then x.cols / 2 else x.cols) :
    ((cells x.rows (if f64 then x.cols / 2 else x.cols)).foldl (Tile.accPut f64 r) x).accAt f64 i j =
      r (i, j) % (if f64 then 2 ^ 64 else 2 ^ 32) := by
  refine (get_foldl (l := cells x.rows (if f64 then x.cols / 2 else x.cols)) (p := (i, j)) (get := fun y => y.accAt f64 i j)
    (inv := SameShape x) (fun _ q hy => hy.accPut q) (fun y hy => ?_) (fun y q hq hne hy => ?_) (SameShape.refl x)).1
    (mem_cells.mpr ⟨hi, hj⟩)
  · rw [hy.accAt_accPut (q := (i, j)) hty hlen hi hj hj, if_pos rfl]
  · exact (hy.accAt_accPut (q := (i, j)) hty hlen hi (mem_cells.mp hq).2 hj).trans (if_neg hne)

end

section
variable {s : State} {m : MxOp} {x : Tile} {ta tb : Nat} {sa sb : Option Nat}

/-- An operation makes its tile dirty and changes its elements alone. -/
theorem State.mxTile_rest (s : State) (m : MxOp) (x : Tile) (ta tb : Nat) (sa sb : Option Nat) :
    s.mxTile m x ta tb sa sb = { x with st := 2, elems := (s.mxTile m x ta tb sa sb).elems } := by
  rw [State.mxTile_eq_foldl, Tile.dirty, ((SameShape.refl x).foldl_accPut _).rest]

theorem State.mxTile_num : (s.mxTile m x ta tb sa sb).num = x.num := by rw [State.mxTile_rest]
theorem State.mxTile_st : (s.mxTile m x ta tb sa sb).st = 2 := by rw [State.mxTile_rest]
theorem State.mxTile_shape : ((s.mxTile m x ta tb sa sb).rows, (s.mxTile m x ta tb sa sb).cols, (s.mxTile m x ta tb sa sb).ty) =
    (x.rows, x.cols, x.ty) := by rw [State.mxTile_rest]

/-- Every element holds its sums, modulo the element's width. -/
theorem State.mxTile_accAt (hty : x.ty = .f32) (hlen : x.elems.length = x.rows * x.cols) {i j : Nat} (hi : i < x.rows)
    (hj : j < if (m.ty == .f64) = true then x.cols / 2 else x.cols) :
    (s.mxTile m x ta tb sa sb).accAt (m.ty == .f64) i j =
      s.mxResult m x ta tb sa sb i j % (if (m.ty == .f64) = true then 2 ^ 64 else 2 ^ 32) := by
  have hcols : (mnOf m.ty x).2 = if (m.ty == .f64) = true then x.cols / 2 else x.cols := by simp [mnOf]
  rw [State.mxTile_eq_foldl, hcols]
  exact accAt_foldl_accPut hty hlen hi hj

end

/-! ## MATRIX_OP_PERFORM -/

/-- The team that holds the scales of an operand, where there are scales. -/
def State.scaleTeam (s : State) (m : MxOp) (u : Team) (w : Nat) : Option Nat :=
  if m.scaled.isSome then s.opTeam u m.target (opLoc w) else none

theorem Team.tile?_num {t : Team} {n : Nat} {x : Tile} (h : t.tile? n = some x) : x.num = n := by
  have hfound := List.find?_some h
  simp only [Bool.and_eq_true, beq_iff_eq] at hfound
  exact hfound.1

/-- A configured tile just put is found by its number. -/
theorem Team.tile?_putTile (t : Team) (x : Tile) (hst : x.st ≠ 0) : (t.putTile x).tile? x.num = some x := by
  have hput (l : List Tile) : (putBy Tile.num x l).find? (fun y => y.num == x.num && y.st != 0) = some x := by
    induction l with
    | nil => simp [putBy, hst]
    | cons y ys ih =>
      unfold putBy
      split
      · simp [hst]
      · rename_i hne
        split
        · simp [hst]
        · simp [hne, ih]
  exact hput t.tiles

theorem exec_matrixOpPerform {s : State} {m : MxOp}
    (hm : s.eng.mxops.find? (fun q => q.target == m.target && q.id == m.id) = some m) (hr : s.mxReady m = true) :
    exec (.matrixOpPerform m.target m.id) s = .next (s.mxPerform m).rewake := by
  show execMatrixOpPerform m.target m.id s = _
  rw [execMatrixOpPerform, hm]
  simp only [hr, if_true]

section
variable {s : State} {m : MxOp} {t u : Team} {x : Tile} {ta tb : Nat} (ht : s.team? m.target = some t)
    (hu : s.team? m.issuer = some u) (hx : t.tile? m.tile = some x) (hrows : x.rows = m.rows) (hcols : x.cols = m.cols)
    (hty : x.ty = .f32) (hta : s.opTeam u m.target (opLoc (wd m.aDesc 0)) = some ta)
    (htb : s.opTeam u m.target (opLoc (wd m.bDesc 0)) = some tb)
include ht hu hx hrows hcols hty hta htb

/-- An operation whose tile still has its shape and type replaces that tile. -/
theorem State.mxPerform_eq :
    s.mxPerform m = (s.updEng fun e => { e with mxops := e.mxops.filter (·.id != m.id) }).updTeam m.target fun t =>
      t.putTile (s.mxTile m x ta tb (s.scaleTeam m u (wd m.sDesc 0)) (s.scaleTeam m u (wd m.sDesc 2))) := by
  simp [State.mxPerform, ht, hu, hx, hrows, hcols, hty, hta, htb, State.scaleTeam]

/-- What performing leaves: the operation is out of its queue, and its tile holds the sums. -/
theorem matrixOpPerform_next (hm : s.eng.mxops.find? (fun q => q.target == m.target && q.id == m.id) = some m)
    (hr : s.mxReady m = true) :
    ∃ t' tm, exec (.matrixOpPerform m.target m.id) s = .next t' ∧ t'.mem = s.mem ∧
      t'.eng.mxops = s.eng.mxops.filter (·.id != m.id) ∧ t'.team? m.target = some tm ∧
      tm.tile? m.tile = some (s.mxTile m x ta tb (s.scaleTeam m u (wd m.sDesc 0)) (s.scaleTeam m u (wd m.sDesc 2))) := by
  have hperf := State.mxPerform_eq ht hu hx hrows hcols hty hta htb
  set y := s.mxTile m x ta tb (s.scaleTeam m u (wd m.sDesc 0)) (s.scaleTeam m u (wd m.sDesc 2)) with hy
  have hnum : y.num = m.tile := State.mxTile_num.trans (Team.tile?_num hx)
  have hst : y.st ≠ 0 := by rw [hy, State.mxTile_st]; decide
  have hteam : (s.mxPerform m).team? m.target = some (t.putTile y) := by
    rw [hperf, State.team?_updTeam _ _ (·.putTile y) fun _ h => h, State.team_updEng, ht]
    simp [State.team?_uid ht]
  have hkept := tilesKept_rewake (s.mxPerform m)
  obtain ⟨tm, htm, htile⟩ := hkept.tile? hteam (hnum ▸ t.tile?_putTile y hst)
  exact ⟨_, tm, exec_matrixOpPerform hm hr, by rw [hkept.mem, hperf]; rfl, by rw [hkept.eng, hperf]; rfl, htm, htile⟩

end

/-! ## The statement -/

/-- Settles O31: a matrix issue whose checks pass places the operations of `mmaPlaced`, and performing one folds the writes of
its elements over the tile, each the fold of its groups' sums. -/
theorem matrixOperations : Obligations.MatrixOperations := by
  refine ⟨?_, ?_⟩
  · intro tile a b c' acc s i c tm ask ins sc ts sh o A B C words ht hu hready
    refine ⟨fun ty ty' hins hact => ?_, fun hact hask hchk hroom => ?_⟩
    · have hidle : exec ins s = .next (s.retired i sh o fun c _ => c) := by
        obtain rfl | rfl := hins <;> exact matrixOp_idle hready hact
      obtain ⟨e, hcrew, hwrote⟩ := State.retired_crew hready.crew sh o
      exact ⟨e, _, hidle, ⟨rfl, hcrew⟩, hwrote⟩
    · have hasks : ask.tile = tile.toNat ∧ ask.acc = acc := by
        obtain ⟨ty, -, -, rfl⟩ | ⟨ty, -, -, -, -, rfl⟩ := hask <;> exact ⟨rfl, rfl⟩
      have hplaces : exec ins s = .next ((s.mmaQueued c tm ask ts).retired i sh o fun c _ => c) := by
        obtain ⟨ty, rfl, rfl, rfl⟩ | ⟨ty, rfl, rfl, hC, hsize, hask⟩ := hask
        · exact matrixOp_places hready hact ht hchk hroom
        · rw [← mmabAsk_eq tile ty acc (hu ▸ ht) hC hsize] at hask
          subst hask
          exact (execMmab_eq tile a b c' ty acc s).trans (matrixOp_places hready hact ht hchk hroom)
      obtain ⟨e, hcrew, hwrote⟩ := State.retired_crew (s := s.mmaQueued c tm ask ts) hready.crew sh o
      refine ⟨e, _, ts.mapIdx (s.mmaPlaced c tm ask), hplaces, hcrew, hwrote, rfl, rfl, rfl,
        s.map_target_mmaPlaced c tm ask ts, ?_⟩
      intro q hq
      obtain ⟨n, hn, rfl⟩ := List.mem_mapIdx.mp hq
      obtain ⟨htile, hacc⟩ := hasks
      exact ⟨rfl, rfl, rfl, rfl, rfl, hacc, rfl, rfl, rfl, fun x hx => State.mmaPlaced_shape c tm n (htile ▸ hx)⟩
  · intro s m t u x ta tb hm hr ht hu hx hrows hcols hty hlen hta htb f64 fmt round elem row scale group dot hG
    obtain ⟨t', tm, hnext, hmem, hops, htm, htile⟩ := matrixOpPerform_next ht hu hx hrows hcols hty hta htb hm hr
    have hgroup : ∀ i j g,
        s.mxGroup m ta tb (s.scaleTeam m u (wd m.sDesc 0)) (s.scaleTeam m u (wd m.sDesc 2)) i j g = group i j g := by
      intro i j g
      simp only [State.mxGroup, groupSum_map, List.map_map, State.scaleTeam, group, scale]
      cases m.scaled with
      | none => rfl
      | some _ =>
        cases s.opTeam u m.target (opLoc (wd m.sDesc 0)) with
        | none => rfl
        | some _ => cases s.opTeam u m.target (opLoc (wd m.sDesc 2)) <;> rfl
    have hdot : ∀ i j, s.mxResult m x ta tb (s.scaleTeam m u (wd m.sDesc 0)) (s.scaleTeam m u (wd m.sDesc 2)) i j =
        dot i j (x.accAt f64 i j) := by
      intro i j
      rw [State.mxResult, State.mxElem_eq_accumulate, accumulate_range _ _ _ _ hG, funext (hgroup i j)]
      rfl
    refine ⟨t', tm, _, hnext, hmem, hops, htm, htile, State.mxTile_st, State.mxTile_shape, fun i j hi => ?_⟩
    have helem := State.mxTile_accAt (s := s) (m := m) (ta := ta) (tb := tb) (sa := s.scaleTeam m u (wd m.sDesc 0))
      (sb := s.scaleTeam m u (wd m.sDesc 2)) hty hlen (i := i) (j := j) hi
    rw [hdot] at helem
    change ((j < if f64 = true then x.cols / 2 else x.cols) →
      Tile.accAt _ f64 i j = dot i j (x.accAt f64 i j) % if f64 = true then 2 ^ 64 else 2 ^ 32) at helem
    clear_value dot f64
    cases f64 with
    | true => exact helem
    | false => exact fun hj => BitVec.eq_of_toNat_eq ((helem hj).trans (BitVec.toNat_ofNat _ _).symm)

end Sys2Proof.Machine
end
